-- ==== Sys2Proof/Word.lean ====
section
/-!
DEFINITION. Word widths of the VX-540 (00_scope.md R4) and the type of sparse tables.
-/

namespace Sys2Proof

/-- One byte. -/
abbrev Byte := BitVec 8
/-- One 32-bit row of one lane, or a 4-byte word of memory. -/
abbrev W32 := BitVec 32
/-- A 64-bit scalar register, address or granule. -/
abbrev W64 := BitVec 64

/-- A sparse table: pairs of a key and a value, keys strictly rising. Memory, rows, scalars and the
tables of units are all held in this one form (`Sys2Proof.Machine.kset` keeps it). -/
abbrev KMap (β : Type) := List (Nat × β)

end Sys2Proof
end

