-- ==== Sys2Proof/Syntax.lean ====
section
/-!
DEFINITION. The abstract syntax: the decoded 96-bit instruction word (02_code.md R27 to R51), the objects that
the manual's operations and events act on, and Instr with one constructor per row of spec/opcode_table.json.
-/

namespace Sys2Proof

/-- The type codes of R38; codes 23 to 31 are reserved. -/
inductive Ty where
  | b32 | i8 | n8 | i16 | n16 | i32 | n32 | i64 | n64 | f16 | bf16 | f32 | f64 | e4m3 | e5m2 | q4
  | f16x2 | bf16x2 | e4m3x4 | e5m2x4 | i8x4 | n8x4 | f32x2
  | reserved (k : Fin 9)
  deriving DecidableEq, Repr

/-- The guard of an instruction word: GINV and GFLAG (R34). -/
structure Guard where
  inv  : Bool
  flag : BitVec 3
  deriving DecidableEq, Repr

/-- A 21-bit operand field (R39). `rsv` holds the bits that the kind requires to be zero, so no word is lost. -/
inductive Operand where
  | row (n : BitVec 11) (part : BitVec 2) (rsv : BitVec 6)
  | ind (ix : BitVec 4) (post : Bool) (disp : BitVec 12) (part : BitVec 2)
  | scal (n : BitVec 6) (rsv : BitVec 13)
  | imm (v : BitVec 19)
  deriving DecidableEq, Repr

/-- A parameter word (R51): a literal, or a scalar register and a signed addend. -/
inductive PWord where
  | lit (v : BitVec 31)
  | sub (sreg : BitVec 6) (add : BitVec 25)
  deriving DecidableEq, Repr

/-- The four words of a parameter block. -/
structure Params where
  w0 : PWord
  w1 : PWord
  w2 : PWord
  w3 : PWord
  deriving DecidableEq, Repr

/-- Everything of an instruction word but its opcode (R27); `params` is present exactly when P = 1. -/
structure Head where
  guard  : Guard
  stall  : BitVec 4
  yield  : Bool
  reuse  : Bool
  ty     : Ty
  mods   : BitVec 5
  d      : Operand
  a      : Operand
  b      : Operand
  params : Option Params
  deriving DecidableEq, Repr

/-- A boot-stage image with its signature (R23, R26). -/
structure BootImage where
  payload   : List Byte
  signature : List Byte
  ilsize    : Nat
  deriving DecidableEq, Repr

/-- The agents whose accesses HOST_ACCESS carries (R312). -/
inductive HostAgent where
  | host (h : Nat)
  | pcie
  | cxl
  deriving DecidableEq, Repr

/-- The operation of a host AMO at the home slice. -/
inductive AmoOp where
  | swap | add | and | or | xor | min | max | minu | maxu
  deriving DecidableEq, Repr

/-- What a host-side access does (R312). -/
inductive HostKind where
  | load
  | store
  | amo (op : AmoOp)
  | lr
  | sc
  | fence (pr pw sr sw : Bool)
  deriving DecidableEq, Repr

/-- One host-side access: `rd` receives the value of a load, AMO, LR or SC when the agent is a host core; `aq` and `rl` are its bits. A fence
has neither address nor data. -/
structure HostAccess where
  agent : HostAgent
  kind  : HostKind
  pa    : Nat
  size  : Nat
  value : W64
  rd    : BitVec 5
  aq    : Bool := false
  rl    : Bool := false
  deriving DecidableEq, Repr

/-- The operation of a packet (R427). -/
inductive PacketOp where
  | write | readReq | readResp | contribution | broadcast | delivery | atomic | atomicResp
  deriving DecidableEq, Repr

/-- A packet: the header of R427 and its data bytes. -/
structure Packet where
  op     : PacketOp
  src    : Nat
  dst    : Nat
  addr   : Nat
  len    : Nat
  data   : List Byte
  btag   : W64
  key    : Nat
  group  : Nat
  elt    : Nat
  rid    : Nat
  stat   : Nat
  deriving DecidableEq, Repr

/-- What a flit carries (R426). -/
inductive FlitBody where
  | idle
  | header (p : Packet)
  | data (bytes : List Byte)
  | control
  | reserved
  deriving DecidableEq, Repr

/-- A flit with the sideband fields of R426 that its sender sets. `reserved` is a header flit of a reserved OP (R427). -/
structure Flit where
  body  : FlitBody
  seq   : BitVec 12
  av    : Bool
  ack   : BitVec 12
  cred  : Nat
  deriving DecidableEq, Repr

/-- A flit as a link carries it (R426): the 256-byte body, byte 0 in its low bits, and the 16-byte sideband. -/
structure RawFlit where
  body : BitVec 2048
  side : BitVec 128
  deriving DecidableEq, Repr

/-- The storage arrays with two-dimensional parity (R473). -/
inductive ParityArray where
  | scratchL1 | tun | l2
  deriving DecidableEq, Repr

/-- A read that fails its word parity (R473): the sub-array's 64 data words as stored, their parity bits,
the column parity word, which word is read, and where the word lies. -/
structure ParityFault where
  array  : ParityArray
  unit   : Nat
  src    : Nat
  asid   : Nat
  addr   : Nat
  team   : Nat
  words  : List W64
  parity : List Byte
  column : W64
  index  : Nat
  deriving DecidableEq, Repr

/-- A CXL extent event (R278): an offer of an extent, a request to release it, or its release by the service group. -/
inductive ExtentEvent where
  | offer (base size : Nat)
  | releaseReq (base : Nat)
  | release (base : Nat)
  deriving DecidableEq, Repr

/-- The instructions, operations and events of spec/opcode_table.json, one constructor a row. -/
inductive Instr where
  /-- COLD_RESET (R22): Cold reset halts every core, scrubs caches, TLBs, tun and fetch caches, resets the key slots, KPROV, the ready pool and region ownership. -/
  | coldReset
  /-- BOOT_STAGE (R23): A boot stage image is loaded, its signature is verified and its digest is extended into a measurement register before the stage runs. -/
  | bootStage (img : BootImage)
  /-- MAILBOX_IMAGE (R26): A stage image supplied through the PCIe mailbox gets the same signature check and measurement as one from SPI flash. -/
  | mailboxImage (img : BootImage)
  /-- CLOCK_STEP_DOWN (R18): When package power or a junction temperature reaches its limit, the arithmetic clock is lowered by 100 MHz, to no less than 1.2 GHz. -/
  | clockStepDown
  /-- CLOCK_STEP_UP (R18): Once the limit condition clears, the arithmetic clock is raised again in 100 MHz steps. -/
  | clockStepUp
  /-- THERMAL_TRIP (R20): Passing the critical junction temperature halts every core and host core, drives the thermal-trip output and logs the event in Xaush until cold reset. -/
  | thermalTrip
  /-- MCTP_READ_SENSORS (R21): The management controller reads temperatures and power over the SMBus MCTP sideband. -/
  | mctpReadSensors
  /-- MCTP_SET_POWER_LIMIT (R21): The management controller sets the package power limit below 2,400 W over the sideband. -/
  | mctpSetPowerLimit (watts : Nat)
  /-- MCTP_READ_EVENT_LOG (R21): The management controller reads the Xaush event log over the sideband. -/
  | mctpReadEventLog
  /-- NOP (R106): Changes no state beyond the passage of its stall count. -/
  | nop (h : Head)
  /-- BRA (R94): Transfers control to pc plus four times the offset if any active lane's guard is true. -/
  | bra (h : Head)
  /-- BRX (R95): Transfers control to the address in a scalar register if any guard is true, raising ALIGN on a misaligned target. -/
  | brx (h : Head)
  /-- CALL (R96): Writes the return address to a scalar and transfers control to an offset or scalar target if any guard is true. -/
  | call (h : Head)
  /-- RET (R97): Transfers control to a scalar address when no lane is active or any guard is true. -/
  | ret (h : Head)
  /-- EXIT (R105): Retires each participating lane and ends the group when no live lane remains, or returns a trap handler's remaining lanes to user mode. -/
  | exit (h : Head)
  /-- IF (R98): Deactivates active lanes whose flag is false, deepens inactive lanes by one and jumps if no lane remains active. -/
  | ifc (h : Head)
  /-- ELSE (R99): Exchanges lanes at nesting level 0 and 1 and jumps to endif if no lane is active. -/
  | elsec (h : Head)
  /-- ENDIF (R100): Lowers every nonzero nesting counter of an eligible lane by one. -/
  | endif (h : Head)
  /-- LOOP (R101): Opens two nesting levels, raising every inactive eligible lane by two. -/
  | loopc (h : Head)
  /-- ENDLOOP (R102): Reactivates lanes waiting to continue, then repeats the body or closes both levels. -/
  | endloop (h : Head)
  /-- BRK (R103): Sets each participating lane's nesting counter to n plus 2. -/
  | brk (h : Head)
  /-- CONT (R104): Sets each participating lane's nesting counter to n plus 1. -/
  | cont (h : Head)
  /-- IADD (R188): Integer add per element, wrapping or saturating. -/
  | iadd (h : Head)
  /-- ISUB (R188): Integer subtract per element, wrapping or saturating. -/
  | isub (h : Head)
  /-- IMUL (R188): Integer multiply per element, taken modulo 2^w. -/
  | imul (h : Head)
  /-- IMULH (R188): High w bits of the 2w-bit integer product. -/
  | imulh (h : Head)
  /-- IMAD (R188): Integer multiply-add a times b plus the previous destination value. -/
  | imad (h : Head)
  /-- IMIN (R188): Integer minimum, signed or unsigned by type. -/
  | imin (h : Head)
  /-- IMAX (R188): Integer maximum, signed or unsigned by type. -/
  | imax (h : Head)
  /-- IABS (R188): Integer absolute value, wrapping or saturating. -/
  | iabs (h : Head)
  /-- INEG (R188): Integer negation, wrapping or saturating. -/
  | ineg (h : Head)
  /-- IADDC (R189): Add with carry-in and carry-out held in a flag. -/
  | iaddc (h : Head)
  /-- AND (R190): Bitwise and. -/
  | andb (h : Head)
  /-- OR (R190): Bitwise or. -/
  | orb (h : Head)
  /-- XOR (R190): Bitwise exclusive or. -/
  | xorb (h : Head)
  /-- NOT (R190): Bitwise complement. -/
  | notb (h : Head)
  /-- ANDN (R190): A and not B. -/
  | andn (h : Head)
  /-- SHL (R190): Shift left, giving 0 for counts of w or more. -/
  | shl (h : Head)
  /-- SHR (R190): Logical shift right. -/
  | shr (h : Head)
  /-- SAR (R190): Arithmetic shift right. -/
  | sar (h : Head)
  /-- ROT (R190): Rotate left by the count modulo w. -/
  | rot (h : Head)
  /-- POPC (R191): Counts the one bits of A. -/
  | popc (h : Head)
  /-- CLZ (R191): Counts the leading zero bits of A. -/
  | clz (h : Head)
  /-- BREV (R191): Reverses the bits of A. -/
  | brev (h : Head)
  /-- BFX (R192): Extracts a bit field, sign-extended for i types. -/
  | bfx (h : Head)
  /-- BFI (R192): Inserts a bit field of A into the previous destination value. -/
  | bfi (h : Head)
  /-- PRMB (R193): Builds each destination byte from a selected byte of A or C, or from a fill. -/
  | prmb (h : Head)
  /-- ICMP (R194): Integer compare writing a flag or a scalar. -/
  | icmp (h : Head)
  /-- FADD (R197): Floating add, rounded once. -/
  | fadd (h : Head)
  /-- FSUB (R197): Floating subtract, rounded once. -/
  | fsub (h : Head)
  /-- FMUL (R197): Floating multiply, rounded once. -/
  | fmul (h : Head)
  /-- FFMA (R197): Fused multiply-add, rounded once. -/
  | ffma (h : Head)
  /-- FMIN (R198): Floating minimum with NaN and signed-zero rules. -/
  | fmin (h : Head)
  /-- FMAX (R198): Floating maximum with NaN and signed-zero rules. -/
  | fmax (h : Head)
  /-- FCMP (R199): Floating compare writing a flag or a scalar. -/
  | fcmp (h : Head)
  /-- FCLASS (R200): Tests the class of A against a mask. -/
  | fclass (h : Head)
  /-- FRND (R201): Rounds to an integral value in the same format. -/
  | frnd (h : Head)
  /-- FRCP (R202): Correctly rounded reciprocal. -/
  | frcp (h : Head)
  /-- FRSQ (R202): Reciprocal square root within 1 ulp. -/
  | frsq (h : Head)
  /-- FSQRT (R202): Correctly rounded square root. -/
  | fsqrt (h : Head)
  /-- FEXP2 (R202): Base-2 exponential within 2 ulp. -/
  | fexp2 (h : Head)
  /-- FLOG2 (R202): Base-2 logarithm within the stated bound. -/
  | flog2 (h : Head)
  /-- FSIN (R202): Sine within the stated absolute error. -/
  | fsin (h : Head)
  /-- FCOS (R202): Cosine within the stated absolute error. -/
  | fcos (h : Head)
  /-- FTANH (R202): Hyperbolic tangent within the stated bound. -/
  | ftanh (h : Head)
  /-- CVT (R206): Converts each element between types under FMODE.RM. -/
  | cvt (h : Head)
  /-- CVTSR (R207): Converts with stochastic rounding, one generator step per element. -/
  | cvtsr (h : Head)
  /-- QPACK (R208): Quantizes eight values per lane into q4 codes under a scale byte. -/
  | qpack (h : Head)
  /-- QUNPACK (R209): Decodes a q4 code row with its scale byte into rows. -/
  | qunpack (h : Head)
  /-- QSCALE (R210): Chooses and writes each peck block's scale byte from its values. -/
  | qscale (h : Head)
  /-- QDOT (R211): Dot product of two peck code rows with their scales, rounded once. -/
  | qdot (h : Head)
  /-- DOT8 (R212): Adds four 8-bit element products to C. -/
  | dot8 (h : Head)
  /-- DOT16 (R213): Adds two 16-bit float products to C in f32, rounded once. -/
  | dot16 (h : Head)
  /-- MOV (R130): Copies A to D at the type's width without conversion. -/
  | mov (h : Head)
  /-- MOVW (R131): Builds a 64-bit constant from parameter words and writes it to D. -/
  | movw (h : Head)
  /-- SEL (R132): Chooses A or B per lane by a flag. -/
  | sel (h : Head)
  /-- SGET (R133): Copies a special register to a row or scalar. -/
  | sget (h : Head)
  /-- SSET (R134): Writes a writable special register, interlocked. -/
  | sset (h : Head)
  /-- XSET (R135): Writes an index register's base, bound and step and, unless keep is set, the lane offsets. -/
  | xset (h : Head)
  /-- XLD (R136): Loads an index register from the packed IXU value and lane offsets. -/
  | xld (h : Head)
  /-- XST (R137): Stores an index register as IXU to a scalar or as offsets to a row. -/
  | xst (h : Head)
  /-- XADD (R138): Adds a signed value to each participating lane's offset modulo 4,096. -/
  | xadd (h : Head)
  /-- SHFL (R140): Each lane takes A from a source lane chosen by mode within its segment. -/
  | shfl (h : Head)
  /-- SHFLX (R141): Two-row table lookup across lanes. -/
  | shflx (h : Head)
  /-- BCAST (R142): Broadcasts A from one lane to every participating lane or to a scalar. -/
  | bcast (h : Head)
  /-- VOTE (R143): Combines a flag over the participating lanes. -/
  | vote (h : Head)
  /-- FIRST (R144): Writes the lowest participating lane's value or index to a scalar. -/
  | firstc (h : Head)
  /-- GRED (R145): Reduces A over the participating lanes by a fixed pairwise tree. -/
  | gred (h : Head)
  /-- SCAN (R146): Inclusive or exclusive prefix reduction over the participating lanes. -/
  | scan (h : Head)
  /-- COMPACT (R147): Packs the participating lanes' values into the lowest lanes of D. -/
  | compact (h : Head)
  /-- RWR (R148): Deposits lane values into a row of a team group and counts its arrival counter. -/
  | rwr (h : Head)
  /-- REMOTE_DEPOSIT_ARRIVE (R148): A deposit and its count reach the target group's row and arrival counter. -/
  | remoteDepositArrive (dep : Nat)
  /-- AWAIT (R151): Blocks until an arrival counter reaches n. -/
  | awaitc (h : Head)
  /-- AWAIT_SATISFIED (R151): A waiting await finds the counter at least n and subtracts n in one step. -/
  | awaitSatisfied (gid : Nat)
  /-- LD (R228): Loads n bytes per participating lane into destination rows, optionally converting. -/
  | ld (h : Head)
  /-- LOAD_DATA_RETURN (R228): Load data arrive and are written to the destination rows, releasing the scoreboard. -/
  | loadDataReturn (load : Nat)
  /-- ST (R230): Stores n bytes per participating lane, the higher lane winning overlapping bytes. -/
  | st (h : Head)
  /-- LDU (R233): One scalar load for the group. -/
  | ldu (h : Head)
  /-- STU (R233): One scalar store for the group. -/
  | stu (h : Head)
  /-- PREF (R234): Requests lines into L2 or L1 without any visible effect or fault. -/
  | pref (h : Head)
  /-- CVTA (R235): Converts between a generic address and a space-relative address. -/
  | cvta (h : Head)
  /-- ISAP (R236): Tests whether an address lies in a named space. -/
  | isap (h : Head)
  /-- CFLUSH (R238): Writes back, and with inv invalidates, the L2 lines of the lanes' addresses and writes a token. -/
  | cflush (h : Head)
  /-- CFLUSH_COMPLETE (R238): When every line is done, cflush writes 1 to its token. -/
  | cflushComplete (op : Nat)
  /-- CINV (R239): Invalidates L1 lines, all of L1, or the fetch cache of the core. -/
  | cinv (h : Head)
  /-- BAR (R246): Arrives at a numbered team barrier and blocks until c arrivals. -/
  | bar (h : Head)
  /-- BAR_RELEASE (R246): The c-th arrival releases every group waiting at the numbered barrier. -/
  | barRelease (team n : Nat)
  /-- BINIT (R247): Writes a whole barrier object in one update. -/
  | binit (h : Head)
  /-- BARR (R248): Adds to PEND of a barrier object and arrives. -/
  | barr (h : Head)
  /-- BARRIER_PHASE_COMPLETE (R242): When ARR equals a nonzero EXP and PEND is 0, PHASE flips and ARR clears. -/
  | barrierPhaseComplete (team off : Nat)
  /-- BWAIT (R249): Blocks the group until a barrier object's pend or phase condition holds. -/
  | bwait (h : Head)
  /-- BWAIT_SATISFIED (R249): A waiting bwait finds its condition true, acquires and writes object bits. -/
  | bwaitSatisfied (gid : Nat)
  /-- BTEST (R250): Evaluates the bwait condition once without blocking. -/
  | btest (h : Head)
  /-- ATOM (R317): Performs an atomic per lane and returns the old value. -/
  | atom (h : Head)
  /-- CONTENTION_ENTER_FAR (R304): A line revoked more than four times within 1,024 hub clocks enters the far state. -/
  | contentionEnterFar (line : Nat)
  /-- CONTENTION_RETURN_NEAR (R304): After 8,192 hub clocks of atomics from one core, a line returns to near. -/
  | contentionReturnNear (line : Nat)
  /-- ATOMU (R318): One atomic for the group on a scalar address. -/
  | atomu (h : Head)
  /-- RED (R317): Per-lane atomic with no return value. -/
  | red (h : Head)
  /-- FENCE (R319): Orders earlier loads and colour-masked stores of the participating lanes at a scope before later accesses. -/
  | fence (h : Head)
  /-- FENCE_COMPLETE (R319): A fence's awaited loads are performed and its stores become visible, releasing later access instructions. -/
  | fenceComplete (gid : Nat)
  /-- TBEG (R344): Opens a transaction for each participating lane, waiting for the group transaction or the fallback lock. -/
  | tbeg (h : Head)
  /-- TBEG_RESUME (R327): A waiting tbeg obtains the quarter's group transaction and opens its lanes. -/
  | tbegResume (gid : Nat)
  /-- FALLBACK_LOCK_GRANT (R336): The fallback lock is granted once every ticketed commit is complete, and irrevocable lanes open. -/
  | fallbackLockGrant (gid : Nat)
  /-- TEND (R332): Takes one ticket for the participating lanes and commits them. -/
  | tend (h : Head)
  /-- TEND_COMMIT (R332): At its ticket, each lane's log is validated and its buffered writes applied, and flags and status are written. -/
  | tendCommit (gid : Nat)
  /-- TABORT (R344): Dooms each participating open transaction with EXPLICIT and a code. -/
  | tabort (h : Head)
  /-- TSTAT (R344): Writes each lane's transaction status word or fault address. -/
  | tstat (h : Head)
  /-- XTBEG (R338): Opens a host transaction, saving registers and recording the abort handler. -/
  | xtbeg (rd rs1 : BitVec 5)
  /-- XTEND (R341): Commits the host transaction, writing 1, or 0 outside a transaction. -/
  | xtend (rd : BitVec 5)
  /-- XTEND_COMMIT (R341): A host commit holding a ticket applies its writes and writes its result. -/
  | xtendCommit (host : Nat)
  /-- XTABORT (R346): Aborts the host transaction with EXPLICIT and an 8-bit code. -/
  | xtabort (code : BitVec 8)
  /-- XTSTAT (R346): Writes the host status word. -/
  | xtstat (rd : BitVec 5)
  /-- XSPAWN (R346): Submits a task record to the ready pool from a host core. -/
  | xspawn (rd rs1 : BitVec 5)
  /-- HOST_TX_ABORT (R341): A host transaction aborts on conflict, capacity, exception or interrupt, discards its writes, restores registers and resumes at its handler. -/
  | hostTxAbort (host : Nat) (cause : Nat)
  /-- CPOST (R409): Reads a job card from scratchpad, enters its footprints and hands it to a copy engine. -/
  | cpost (h : Head)
  /-- HAZARD_RELEASE (R413): An operation waiting behind a conflicting footprint starts once that operation completes or finishes reading. -/
  | hazardRelease (op : Nat)
  /-- CARD_UNIT_WRITE (R410): A copy engine writes one unit of a card and counts its barrier object down. -/
  | cardUnitWrite (op unit : Nat)
  /-- CARD_COMPLETE (R410): When every unit is written or reported, the card's token receives DONEB and status. -/
  | cardComplete (op : Nat)
  /-- RST (R417): Sends each lane's value as a remote store to domain memory, optionally tagged. -/
  | rst (h : Head)
  /-- REMOTE_PATH_LOST (R418): Loss of every path to a destination leaves REMOTE_FAIL pending or reported for the operations that need it. -/
  | remotePathLost (pkg : Nat)
  /-- SPAWN (R440): Releases stores, submits a task record to the ready pool and returns the code. -/
  | spawn (h : Head)
  /-- JOPEN (R368): Opens a tun partition from a descriptor, or grows its firkin, writing a handle. -/
  | jopen (h : Head)
  /-- JCLOSE (R369): Marks a partition handle closed. -/
  | jclose (h : Head)
  /-- JCLOSE_FREE (R369): After earlier operations complete, the partition's slots are freed. -/
  | jcloseFree (op : Nat)
  /-- JMUL (R370): Queues one block product for a key, optionally waiting on or counting down a barrier. -/
  | jmul (h : Head)
  /-- JMUL_BARRIER_SATISFIED (R370): A jmul waiting on a barrier object finds PEND at or below t and proceeds. -/
  | jmulBarrierSatisfied (op : Nat)
  /-- JSTRM (R371): Queues the product of every matching pair of list entries, or dense tiles. -/
  | jstrm (h : Head)
  /-- JACC (R373): Files one element tuple per participating lane. -/
  | jacc (h : Head)
  /-- JGET (R374): Returns the drained value of each lane's key and a presence flag. -/
  | jget (h : Head)
  /-- JDRAIN (R376): Emits up to n keys and values in key order, merging firkin records. -/
  | jdrain (h : Head)
  /-- JSTAT (R377): Writes a partition statistics record to scratchpad. -/
  | jstat (h : Head)
  /-- JOIN_OP_START (R363): The join unit starts a queued operation once earlier operations of its partition complete and the hazard table allows. -/
  | joinOpStart (op : Nat)
  /-- JOIN_OP_COMPLETE (R364): A join operation completes, making its writes visible and writing its token. -/
  | joinOpComplete (op : Nat)
  /-- FCH (R386): Queues a gather of one surface element per participating lane. -/
  | fch (h : Head)
  /-- FETCH_OP_START (R382): A queued fetch-unit operation starts in issue order once ordering and the hazard table allow. -/
  | fetchOpStart (op : Nat)
  /-- FETCH_OP_COMPLETE (R386): An fch completes, writing lane values, flags and its token together. -/
  | fetchOpComplete (op : Nat)
  /-- WINI (R391): Creates a work-list header with zero counts and an empty hash set. -/
  | wini (h : Head)
  /-- WPUSH (R393): Appends each participating lane's value to a work-list. -/
  | wpush (h : Head)
  /-- WPOP (R394): Removes items in FIFO order into the lowest participating lanes and writes the count. -/
  | wpop (h : Head)
  /-- WINS (R395): Inserts values not already in the list's hash set. -/
  | wins (h : Head)
  /-- WSTAT (R396): Writes a work-list count, hash count, spill count or capacity to a scalar. -/
  | wstat (h : Head)
  /-- TOPK (R400): Selects the k largest of n row values per lane with their indices. -/
  | topk (h : Head)
  /-- DGROW (R403): Queues a drop-and-grow step on a bf16 weight tile. -/
  | dgrow (h : Head)
  /-- DGROW_COMPLETE (R403): The fetch unit performs the drop-and-grow update and writes the token. -/
  | dgrowComplete (op : Nat)
  /-- SYS (R478): Raises SYSCALL in its participating lanes with the code. -/
  | sys (h : Head)
  /-- SRET (R458): Restores counters, SRSTATE and FMODE, unparks lanes and returns to user mode at TPC. -/
  | sret (h : Head)
  /-- BKPT (R478): Raises BREAKPOINT in its participating lanes with the code. -/
  | bkpt (h : Head)
  /-- SIGCHK (R468): Compares the running signature with an immediate, restarting or trapping on mismatch, then resets SIG. -/
  | sigchk (h : Head)
  /-- IREG (R469): Opens a restart region at the next instruction, recording counters and SIG. -/
  | ireg (h : Head)
  /-- HALT (R480): Blocks the group until an event selected by EVMASK is pending. -/
  | halt (h : Head)
  /-- HALT_WAKE (R480): A selected event ends halt, which writes and clears the pending bits in one step. -/
  | haltWake (gid : Nat)
  /-- ZGET (R479): Reads a supervisor register or control register. -/
  | zget (h : Head)
  /-- ZSET (R479): Writes a supervisor register or control register, interlocked. -/
  | zset (h : Head)
  /-- TLBI (R284): Removes matching translations from every TLB of the package and writes a token when accesses using them are done. -/
  | tlbi (h : Head)
  /-- TLBI_COMPLETE (R284): Once every access that used a dropped entry has parked or completed, tlbi writes 1 to its token. -/
  | tlbiComplete (op : Nat)
  /-- REPLAY (R285): Clears the die's pending-fault entries, re-issues every parked access and writes the count cleared. -/
  | replay (h : Head)
  /-- OWNSET (R286): Sets the owner, and optionally bumps the version, of consecutive 2 MiB regions. -/
  | ownset (h : Head)
  /-- OWNSET_COMPLETE (R286): After the last region is written back and changed, ownset writes 1 to its token. -/
  | ownsetComplete (op : Nat)
  /-- CAPS (R498): Reads a capability word, or finds an entry's offset by ID. -/
  | caps (h : Head)
  /-- PMC (R499): Reads a core or hub event counter, subject to user-mode permission. -/
  | pmc (h : Head)
  /-- PAGE_WALK (R256): A translation miss walks the four-level page table under the team's ASID. -/
  | pageWalk (core asid : Nat) (va : BitVec 64)
  /-- L2_REQUEST_DEFERRED (R501): A request waiting at the core for a full slice queue enters it when an entry frees. -/
  | l2RequestDeferred (req : Nat)
  /-- L2_FILL (R500): A slice fills a missed sector from memory, decrypting and checking its MAC. -/
  | l2Fill (sector slot : Nat)
  /-- GATHER_DIRECT_RETURN (R276): The HBM4 base die expands a gather packet and returns the requested bytes in lane order. -/
  | gatherDirectReturn (load : Nat)
  /-- PARITY_RECOVERY (R473): A word whose parity fails is rebuilt from column parity or poisoned, and logged. -/
  | parityRecovery (p : ParityFault)
  /-- OWNERSHIP_TRANSFER (R280): A non-owner access makes the home hub write back the owner side's copies and flip OWNER. -/
  | ownershipTransfer (region : Nat)
  /-- CXL_EXTENT_EVENT (R278): A CXL extent offer or release request arrives as a supervisor event. -/
  | cxlExtentEvent (ext : ExtentEvent)
  /-- PACKET_RECEIVE (R427): The destination package takes a packet whole, writes or answers it, and counts down its tag. -/
  | packetReceive (p : Packet)
  /-- FLIT_RECEIVE (R428): A receiver accepts a flit with correct CRC and next SEQ, or discards it and requests a replay. -/
  | flitReceive (link : Nat) (f : RawFlit)
  /-- LINK_LANE_LOSS (R429): A link losing a lane starts retraining onto the healthy half, or fails. -/
  | linkLaneLoss (link lane : Nat)
  /-- LINK_RETRAIN_COMPLETE (R429): Retraining completes and each side resends from one past the other's last accepted SEQ. -/
  | linkRetrainComplete (link : Nat) (ok : Bool) (farSeq : BitVec 12)
  /-- PLANE_PORT_REPORT (R429): A switch plane reports its port states to the packages in control flits. -/
  | planePortReport (plane : Nat) (down : List Nat)
  /-- SWITCH_CONTRIBUTION (R424): A switch adds a reduce-copy contribution to its chunk in f32. -/
  | switchContribution (plane : Nat) (p : Packet)
  /-- SWITCH_CHUNK_DELIVER (R424): A chunk reaching N contributions is delivered to every member and counts down each BTAG. -/
  | switchChunkDeliver (plane chunk : Nat)
  /-- SWITCH_BROADCAST_DELIVER (R425): A broadcast piece is delivered to every member and counts down each BTAG. -/
  | switchBroadcastDeliver (plane : Nat) (p : Packet)
  /-- MAILBOX_DOORBELL (R438): A doorbell write submits the mailbox record and reports the result in MBSTAT. -/
  | mailboxDoorbell (value : BitVec 64)
  /-- DISPATCH_PLACE (R446): The dispatcher places the next team of a ready task on the lowest fitting core or pair. -/
  | dispatchPlace (task : Nat)
  /-- PAIR_SCRUB (R483): A pair changing ASID is zeroed and invalidated before the new team's first instruction. -/
  | pairScrub (pair : Nat)
  /-- AGING_STEP (R445): A task waiting AGE without placement rises one priority level. -/
  | agingStep (task : Nat)
  /-- TEAM_RETIRE (R74): A team whose groups have ended and whose asynchronous work has completed retires and frees its resources. -/
  | teamRetire (team : Nat)
  /-- HOST_TASK_POST (R444): A ready host task is written into the host ring and interrupt source 40 is raised. -/
  | hostTaskPost (task : Nat)
  /-- HTDONE (R444): A store of a TASKID to HTDONE finishes the host task. -/
  | htdone (value : BitVec 64)
  /-- DISPATCHER_PREEMPT (R448): The dispatcher chooses lower-priority victims to make room for a waiting task. -/
  | dispatcherPreempt (task : Nat)
  /-- PRMT_GO (R448): A PRMT write with GO reserves heap room and pre-empts the named teams, or sets NOROOM. -/
  | prmtGo (value : BitVec 64)
  /-- CKCTL_CHECKPOINT (R452): CKCTL OP 1 pre-empts every resident team of priority 1 to 3 and writes a manifest. -/
  | ckctlCheckpoint (value : BitVec 64)
  /-- CKCTL_RESTORE (R453): CKCTL OP 2 checks a manifest and its images and makes its teams unplaced with them. -/
  | ckctlRestore (value : BitVec 64)
  /-- PREEMPT_HALT (R449): Named cores halt at an instruction boundary within 4 µs, settling work in flight. -/
  | preemptHalt (team : Nat)
  /-- IMAGE_WRITE (R450): A halted team's image is written to the heap with its GEN and CRC. -/
  | imageWrite (team : Nat)
  /-- ERROR_LOG_ARBITRATE (R476): The arbiter counts each channel's pending reports and writes or drops a log entry. -/
  | errorLogArbitrate (unit : Nat)
  /-- KCMD_CLEAR (R490): A KCMD write with OP 0 sets the slot in KARG to EMPTY. -/
  | kcmdClear
  /-- KCMD_PLAIN (R490): A KCMD write with OP 1 sets the slot to PLAIN with its owner and SHARED bit. -/
  | kcmdPlain
  /-- KCMD_LOAD (R490): A KCMD write with OP 2 unwraps a key blob into the slot as ENC. -/
  | kcmdLoad (value : BitVec 64)
  /-- KCMD_COMPLETE (R490): After dirty sectors of the slot's pages are written back and clean ones dropped, the slot changes and BUSY clears. -/
  | kcmdComplete
  /-- KPROV_WRITE (R491): Writing 1 to KPROV.DONE marks the key slots provisioned, unless busy or erased. -/
  | kprovWrite (value : BitVec 64)
  /-- ALMCFG_WRITE (R492): Writes alarm levels, only raising them once LOCK is set. -/
  | almcfgWrite (value : BitVec 64)
  /-- ALMREL (R493): Writing an ASID to ALMREL ends that tenant's containment. -/
  | almrel (value : BitVec 64)
  /-- GLITCH_DETECT (R492): The clock or voltage glitch detector raises an alarm event. -/
  | glitchDetect (voltage : Bool)
  /-- DEBUG_INTRUSION (R492): A debug access while the debug lock is set raises an alarm event. -/
  | debugIntrusion
  /-- ALARM_CONTAIN (R493): A level-1 alarm pre-empts and holds the tenant's teams, refuses its submissions and scrubs its pairs. -/
  | alarmContain
  /-- ALARM_ERASE (R494): A level-2 alarm faults tenant teams, zeroizes the key slots and scrubs every pair. -/
  | alarmErase
  /-- HOST_EVENT_REQUEST (R465): Host firmware writing HOSTREQ sets the die event pending. -/
  | hostEventRequest (die : Nat)
  /-- REGISTER_WRITE (R5): A write to a register with no behaviour of its own stores its RW fields and applies W1C and RSV rules. -/
  | registerWrite (addr : Nat) (value : BitVec 64)
  /-- FIXED_LATENCY_RESULT_WRITE (R55): A producer of fixed latency writes its result L clocks after its first pass issued. -/
  | fixedLatencyResultWrite (gid : Nat)
  /-- HOST_ACCESS (R312): A host core, or an agent on PCIe or CXL, loads, stores or performs an AMO on memory at the home slice as an access at .pkg scope. -/
  | hostAccess (a : HostAccess)
  /-- UNASSIGNED_OPCODE (R57): A group issues a word whose major/minor pair is unassigned, which raises ILLEGAL_OP in every active or eligible lane. -/
  | unassignedOpcode (major : BitVec 8) (minor : BitVec 4) (h : Head)
  deriving DecidableEq, Repr

end Sys2Proof
end

