-- ==== Sys2Proof/Decode.lean ====
section
/-!
DEFINITION. Decoding and encoding: the 96-bit device word with its parameter block (02_code.md R27 to R51, R61) and the
32-bit host word (10_transactions.md R346). Decoding is total: every 12 bytes are some instruction word, an unassigned
major/minor pair included (R57); only a list that is too short is refused. Operations and events have no encoding.
-/

namespace Sys2Proof

/-- The type of a TYPE code (R38). -/
def Ty.ofCode (c : BitVec 5) : Ty :=
  match c.toNat with
  | 0 => .b32 | 1 => .i8 | 2 => .n8 | 3 => .i16 | 4 => .n16 | 5 => .i32 | 6 => .n32 | 7 => .i64 | 8 => .n64
  | 9 => .f16 | 10 => .bf16 | 11 => .f32 | 12 => .f64 | 13 => .e4m3 | 14 => .e5m2 | 15 => .q4 | 16 => .f16x2
  | 17 => .bf16x2 | 18 => .e4m3x4 | 19 => .e5m2x4 | 20 => .i8x4 | 21 => .n8x4 | 22 => .f32x2
  | k => .reserved (Fin.ofNat 9 (k - 23))

/-- The TYPE code of a type (R38). -/
def Ty.code : Ty → BitVec 5
  | .b32 => 0 | .i8 => 1 | .n8 => 2 | .i16 => 3 | .n16 => 4 | .i32 => 5 | .n32 => 6 | .i64 => 7 | .n64 => 8
  | .f16 => 9 | .bf16 => 10 | .f32 => 11 | .f64 => 12 | .e4m3 => 13 | .e5m2 => 14 | .q4 => 15 | .f16x2 => 16
  | .bf16x2 => 17 | .e4m3x4 => 18 | .e5m2x4 => 19 | .i8x4 => 20 | .n8x4 => 21 | .f32x2 => 22
  | .reserved k => BitVec.ofNat 5 (23 + k.val)

/-- An operand field read by its kind, bits [20:19] (R39). -/
def Operand.ofBits (f : BitVec 21) : Operand :=
  match (f.extractLsb' 19 2).toNat with
  | 0 => .row (f.extractLsb' 0 11) (f.extractLsb' 11 2) (f.extractLsb' 13 6)
  | 1 => .ind (f.extractLsb' 0 4) (f.getLsbD 4) (f.extractLsb' 5 12) (f.extractLsb' 17 2)
  | 2 => .scal (f.extractLsb' 0 6) (f.extractLsb' 6 13)
  | _ => .imm (f.extractLsb' 0 19)

/-- The 21 bits of an operand field (R39). -/
def Operand.bits : Operand → BitVec 21
  | .row n part rsv => (0#2 ++ rsv ++ part ++ n : BitVec 21)
  | .ind ix post disp part => (1#2 ++ part ++ disp ++ BitVec.ofBool post ++ ix : BitVec 21)
  | .scal n rsv => (2#2 ++ rsv ++ n : BitVec 21)
  | .imm v => (3#2 ++ v : BitVec 21)

/-- A parameter word (R51). -/
def PWord.ofBits (w : W32) : PWord :=
  if w.getLsbD 31 then .sub (w.extractLsb' 25 6) (w.extractLsb' 0 25) else .lit (w.extractLsb' 0 31)

/-- The 32 bits of a parameter word (R51). -/
def PWord.bits : PWord → W32
  | .lit v => (0#1 ++ v : BitVec 32)
  | .sub sreg add => (1#1 ++ sreg ++ add : BitVec 32)

/-- The fields of a word other than its opcode (R27); bit 63 is P and is kept as the presence of `ps`. -/
def Head.ofBits (w : BitVec 96) (ps : Option Params) : Head :=
  { guard := { inv := w.getLsbD 83, flag := w.extractLsb' 80 3 }
    stall := w.extractLsb' 76 4
    yield := w.getLsbD 75
    reuse := w.getLsbD 74
    ty := Ty.ofCode (w.extractLsb' 69 5)
    mods := w.extractLsb' 64 5
    d := Operand.ofBits (w.extractLsb' 42 21)
    a := Operand.ofBits (w.extractLsb' 21 21)
    b := Operand.ofBits (w.extractLsb' 0 21)
    params := ps }

/-- The 96 bits of a word (R27). -/
def Head.bits (major : BitVec 8) (minor : BitVec 4) (h : Head) : BitVec 96 :=
  (major ++ minor ++ BitVec.ofBool h.guard.inv ++ h.guard.flag ++ h.stall ++ BitVec.ofBool h.yield
    ++ BitVec.ofBool h.reuse ++ h.ty.code ++ h.mods ++ BitVec.ofBool h.params.isSome
    ++ h.d.bits ++ h.a.bits ++ h.b.bits : BitVec 96)

/-- The instruction of an assigned major/minor pair (R61); none for an unassigned pair (R57). -/
def deviceOf (major minor : Nat) : Option (Head → Instr) :=
  match major, minor with
  | 0x00, 1 => some Instr.nop
  | 0x00, 2 => some Instr.bra
  | 0x00, 3 => some Instr.brx
  | 0x00, 4 => some Instr.call
  | 0x00, 5 => some Instr.ret
  | 0x00, 6 => some Instr.exit
  | 0x01, 0 => some Instr.ifc
  | 0x01, 1 => some Instr.elsec
  | 0x01, 2 => some Instr.endif
  | 0x01, 3 => some Instr.loopc
  | 0x01, 4 => some Instr.endloop
  | 0x01, 5 => some Instr.brk
  | 0x01, 6 => some Instr.cont
  | 0x10, 0 => some Instr.iadd
  | 0x10, 1 => some Instr.isub
  | 0x10, 2 => some Instr.imul
  | 0x10, 3 => some Instr.imulh
  | 0x10, 4 => some Instr.imad
  | 0x10, 5 => some Instr.imin
  | 0x10, 6 => some Instr.imax
  | 0x10, 7 => some Instr.iabs
  | 0x10, 8 => some Instr.ineg
  | 0x10, 9 => some Instr.iaddc
  | 0x11, 0 => some Instr.andb
  | 0x11, 1 => some Instr.orb
  | 0x11, 2 => some Instr.xorb
  | 0x11, 3 => some Instr.notb
  | 0x11, 4 => some Instr.andn
  | 0x11, 5 => some Instr.shl
  | 0x11, 6 => some Instr.shr
  | 0x11, 7 => some Instr.sar
  | 0x11, 8 => some Instr.rot
  | 0x12, 0 => some Instr.popc
  | 0x12, 1 => some Instr.clz
  | 0x12, 2 => some Instr.brev
  | 0x12, 3 => some Instr.bfx
  | 0x12, 4 => some Instr.bfi
  | 0x12, 5 => some Instr.prmb
  | 0x12, 6 => some Instr.icmp
  | 0x30, 0 => some Instr.fadd
  | 0x30, 1 => some Instr.fsub
  | 0x30, 2 => some Instr.fmul
  | 0x30, 3 => some Instr.ffma
  | 0x30, 4 => some Instr.fmin
  | 0x30, 5 => some Instr.fmax
  | 0x30, 6 => some Instr.fcmp
  | 0x30, 7 => some Instr.fclass
  | 0x30, 8 => some Instr.frnd
  | 0x31, 0 => some Instr.frcp
  | 0x31, 1 => some Instr.frsq
  | 0x31, 2 => some Instr.fsqrt
  | 0x31, 3 => some Instr.fexp2
  | 0x31, 4 => some Instr.flog2
  | 0x31, 5 => some Instr.fsin
  | 0x31, 6 => some Instr.fcos
  | 0x31, 7 => some Instr.ftanh
  | 0x50, 0 => some Instr.cvt
  | 0x50, 1 => some Instr.cvtsr
  | 0x51, 0 => some Instr.qpack
  | 0x51, 1 => some Instr.qunpack
  | 0x51, 2 => some Instr.qscale
  | 0x52, 0 => some Instr.qdot
  | 0x52, 1 => some Instr.dot8
  | 0x52, 2 => some Instr.dot16
  | 0x60, 0 => some Instr.mov
  | 0x60, 1 => some Instr.movw
  | 0x60, 2 => some Instr.sel
  | 0x61, 0 => some Instr.sget
  | 0x61, 1 => some Instr.sset
  | 0x62, 0 => some Instr.xset
  | 0x62, 1 => some Instr.xld
  | 0x62, 2 => some Instr.xst
  | 0x62, 3 => some Instr.xadd
  | 0x63, 0 => some Instr.shfl
  | 0x63, 1 => some Instr.shflx
  | 0x63, 2 => some Instr.bcast
  | 0x63, 3 => some Instr.vote
  | 0x63, 4 => some Instr.firstc
  | 0x63, 5 => some Instr.gred
  | 0x63, 6 => some Instr.scan
  | 0x63, 7 => some Instr.compact
  | 0x64, 0 => some Instr.rwr
  | 0x64, 1 => some Instr.awaitc
  | 0x70, 0 => some Instr.ld
  | 0x70, 1 => some Instr.st
  | 0x70, 2 => some Instr.ldu
  | 0x70, 3 => some Instr.stu
  | 0x70, 4 => some Instr.pref
  | 0x71, 0 => some Instr.cvta
  | 0x71, 1 => some Instr.isap
  | 0x72, 0 => some Instr.cflush
  | 0x72, 1 => some Instr.cinv
  | 0x80, 0 => some Instr.bar
  | 0x80, 1 => some Instr.binit
  | 0x80, 2 => some Instr.barr
  | 0x80, 3 => some Instr.bwait
  | 0x80, 4 => some Instr.btest
  | 0x88, 0 => some Instr.atom
  | 0x88, 1 => some Instr.atomu
  | 0x88, 2 => some Instr.red
  | 0x88, 3 => some Instr.fence
  | 0x90, 0 => some Instr.tbeg
  | 0x90, 1 => some Instr.tend
  | 0x90, 2 => some Instr.tabort
  | 0x90, 3 => some Instr.tstat
  | 0x98, 0 => some Instr.cpost
  | 0x98, 1 => some Instr.rst
  | 0x98, 2 => some Instr.spawn
  | 0xA0, 0 => some Instr.jopen
  | 0xA0, 1 => some Instr.jclose
  | 0xA0, 2 => some Instr.jmul
  | 0xA0, 3 => some Instr.jstrm
  | 0xA0, 4 => some Instr.jacc
  | 0xA0, 5 => some Instr.jget
  | 0xA0, 6 => some Instr.jdrain
  | 0xA0, 7 => some Instr.jstat
  | 0xB0, 0 => some Instr.fch
  | 0xB0, 1 => some Instr.wini
  | 0xB0, 2 => some Instr.wpush
  | 0xB0, 3 => some Instr.wpop
  | 0xB0, 4 => some Instr.wins
  | 0xB0, 5 => some Instr.wstat
  | 0xB1, 0 => some Instr.topk
  | 0xB1, 1 => some Instr.dgrow
  | 0xF0, 0 => some Instr.sys
  | 0xF0, 1 => some Instr.sret
  | 0xF0, 2 => some Instr.bkpt
  | 0xF0, 3 => some Instr.sigchk
  | 0xF0, 4 => some Instr.ireg
  | 0xF0, 5 => some Instr.halt
  | 0xF1, 0 => some Instr.zget
  | 0xF1, 1 => some Instr.zset
  | 0xF4, 0 => some Instr.tlbi
  | 0xF4, 1 => some Instr.replay
  | 0xF4, 2 => some Instr.ownset
  | 0xF8, 0 => some Instr.caps
  | 0xF8, 1 => some Instr.pmc
  | _, _ => none

/-- The instruction of a device word and its parameter block. An unassigned pair is an instruction of its own, which raises
ILLEGAL_OP (R57). -/
def decodeDevice (w : BitVec 96) (ps : Option Params) : Instr :=
  match deviceOf (w.extractLsb' 88 8).toNat (w.extractLsb' 84 4).toNat with
  | some f => f (Head.ofBits w ps)
  | none => .unassignedOpcode (w.extractLsb' 88 8) (w.extractLsb' 84 4) (Head.ofBits w ps)

/-- The instruction of a host word in custom-0 (R346); none for any other word, which is RISC-V's or illegal there. -/
def decodeHost (w : W32) : Option Instr :=
  if w.extractLsb' 0 7 = 0x0B#7 then
    match (w.extractLsb' 12 3).toNat with
    | 0 => if w.extractLsb' 20 12 = 0 then some (.xtbeg (w.extractLsb' 7 5) (w.extractLsb' 15 5)) else none
    | 1 => if w.extractLsb' 15 17 = 0 then some (.xtend (w.extractLsb' 7 5)) else none
    | 2 => if w.extractLsb' 28 4 = 0 ∧ w.extractLsb' 15 5 = 0 ∧ w.extractLsb' 7 5 = 0 then
        some (.xtabort (w.extractLsb' 20 8)) else none
    | 3 => if w.extractLsb' 15 17 = 0 then some (.xtstat (w.extractLsb' 7 5)) else none
    | 4 => if w.extractLsb' 20 12 = 0 then some (.xspawn (w.extractLsb' 7 5) (w.extractLsb' 15 5)) else none
    | _ => none
  else none

/-- True for the words of custom-0, the only host words of this manual. -/
def isCustom0 (w : W32) : Bool := w.extractLsb' 0 7 == 0x0B#7

/-- Little-endian value of a byte list (R4). -/
def leNat : List Byte → Nat
  | [] => 0
  | b :: r => b.toNat + 256 * leNat r

/-- The low `n` bytes of a number, least significant first (R4). -/
def leBytes : Nat → Nat → List Byte
  | 0, _ => []
  | n + 1, v => BitVec.ofNat 8 v :: leBytes n (v / 256)

/-- The parameter block in the 16 bytes after a word (R28). -/
def paramsOf (bs : List Byte) : Params :=
  { w0 := .ofBits (BitVec.ofNat 32 (leNat (bs.take 4)))
    w1 := .ofBits (BitVec.ofNat 32 (leNat ((bs.drop 4).take 4)))
    w2 := .ofBits (BitVec.ofNat 32 (leNat ((bs.drop 8).take 4)))
    w3 := .ofBits (BitVec.ofNat 32 (leNat ((bs.drop 12).take 4))) }

/-- The 16 bytes of a parameter block (R28). -/
def Params.bytes (p : Params) : List Byte :=
  leBytes 4 p.w0.bits.toNat ++ leBytes 4 p.w1.bits.toNat ++ leBytes 4 p.w2.bits.toNat ++ leBytes 4 p.w3.bits.toNat

/-- The device instruction at the head of a byte list and the bytes after it (R28, R29); none where the bytes run out. -/
def decodeBytes (bs : List Byte) : Option (Instr × List Byte) :=
  if bs.length < 12 then none
  else
    let w := BitVec.ofNat 96 (leNat (bs.take 12))
    if w.getLsbD 63 then
      if bs.length < 28 then none
      else some (decodeDevice w (some (paramsOf ((bs.drop 12).take 16))), bs.drop 28)
    else some (decodeDevice w none, bs.drop 12)

/-- The opcode and fields of a device word (R61); none for a host instruction and for an operation or event. -/
def deviceParts : Instr → Option (BitVec 8 × BitVec 4 × Head)
  | .nop h => some (0x00, 1, h)
  | .bra h => some (0x00, 2, h)
  | .brx h => some (0x00, 3, h)
  | .call h => some (0x00, 4, h)
  | .ret h => some (0x00, 5, h)
  | .exit h => some (0x00, 6, h)
  | .ifc h => some (0x01, 0, h)
  | .elsec h => some (0x01, 1, h)
  | .endif h => some (0x01, 2, h)
  | .loopc h => some (0x01, 3, h)
  | .endloop h => some (0x01, 4, h)
  | .brk h => some (0x01, 5, h)
  | .cont h => some (0x01, 6, h)
  | .iadd h => some (0x10, 0, h)
  | .isub h => some (0x10, 1, h)
  | .imul h => some (0x10, 2, h)
  | .imulh h => some (0x10, 3, h)
  | .imad h => some (0x10, 4, h)
  | .imin h => some (0x10, 5, h)
  | .imax h => some (0x10, 6, h)
  | .iabs h => some (0x10, 7, h)
  | .ineg h => some (0x10, 8, h)
  | .iaddc h => some (0x10, 9, h)
  | .andb h => some (0x11, 0, h)
  | .orb h => some (0x11, 1, h)
  | .xorb h => some (0x11, 2, h)
  | .notb h => some (0x11, 3, h)
  | .andn h => some (0x11, 4, h)
  | .shl h => some (0x11, 5, h)
  | .shr h => some (0x11, 6, h)
  | .sar h => some (0x11, 7, h)
  | .rot h => some (0x11, 8, h)
  | .popc h => some (0x12, 0, h)
  | .clz h => some (0x12, 1, h)
  | .brev h => some (0x12, 2, h)
  | .bfx h => some (0x12, 3, h)
  | .bfi h => some (0x12, 4, h)
  | .prmb h => some (0x12, 5, h)
  | .icmp h => some (0x12, 6, h)
  | .fadd h => some (0x30, 0, h)
  | .fsub h => some (0x30, 1, h)
  | .fmul h => some (0x30, 2, h)
  | .ffma h => some (0x30, 3, h)
  | .fmin h => some (0x30, 4, h)
  | .fmax h => some (0x30, 5, h)
  | .fcmp h => some (0x30, 6, h)
  | .fclass h => some (0x30, 7, h)
  | .frnd h => some (0x30, 8, h)
  | .frcp h => some (0x31, 0, h)
  | .frsq h => some (0x31, 1, h)
  | .fsqrt h => some (0x31, 2, h)
  | .fexp2 h => some (0x31, 3, h)
  | .flog2 h => some (0x31, 4, h)
  | .fsin h => some (0x31, 5, h)
  | .fcos h => some (0x31, 6, h)
  | .ftanh h => some (0x31, 7, h)
  | .cvt h => some (0x50, 0, h)
  | .cvtsr h => some (0x50, 1, h)
  | .qpack h => some (0x51, 0, h)
  | .qunpack h => some (0x51, 1, h)
  | .qscale h => some (0x51, 2, h)
  | .qdot h => some (0x52, 0, h)
  | .dot8 h => some (0x52, 1, h)
  | .dot16 h => some (0x52, 2, h)
  | .mov h => some (0x60, 0, h)
  | .movw h => some (0x60, 1, h)
  | .sel h => some (0x60, 2, h)
  | .sget h => some (0x61, 0, h)
  | .sset h => some (0x61, 1, h)
  | .xset h => some (0x62, 0, h)
  | .xld h => some (0x62, 1, h)
  | .xst h => some (0x62, 2, h)
  | .xadd h => some (0x62, 3, h)
  | .shfl h => some (0x63, 0, h)
  | .shflx h => some (0x63, 1, h)
  | .bcast h => some (0x63, 2, h)
  | .vote h => some (0x63, 3, h)
  | .firstc h => some (0x63, 4, h)
  | .gred h => some (0x63, 5, h)
  | .scan h => some (0x63, 6, h)
  | .compact h => some (0x63, 7, h)
  | .rwr h => some (0x64, 0, h)
  | .awaitc h => some (0x64, 1, h)
  | .ld h => some (0x70, 0, h)
  | .st h => some (0x70, 1, h)
  | .ldu h => some (0x70, 2, h)
  | .stu h => some (0x70, 3, h)
  | .pref h => some (0x70, 4, h)
  | .cvta h => some (0x71, 0, h)
  | .isap h => some (0x71, 1, h)
  | .cflush h => some (0x72, 0, h)
  | .cinv h => some (0x72, 1, h)
  | .bar h => some (0x80, 0, h)
  | .binit h => some (0x80, 1, h)
  | .barr h => some (0x80, 2, h)
  | .bwait h => some (0x80, 3, h)
  | .btest h => some (0x80, 4, h)
  | .atom h => some (0x88, 0, h)
  | .atomu h => some (0x88, 1, h)
  | .red h => some (0x88, 2, h)
  | .fence h => some (0x88, 3, h)
  | .tbeg h => some (0x90, 0, h)
  | .tend h => some (0x90, 1, h)
  | .tabort h => some (0x90, 2, h)
  | .tstat h => some (0x90, 3, h)
  | .cpost h => some (0x98, 0, h)
  | .rst h => some (0x98, 1, h)
  | .spawn h => some (0x98, 2, h)
  | .jopen h => some (0xA0, 0, h)
  | .jclose h => some (0xA0, 1, h)
  | .jmul h => some (0xA0, 2, h)
  | .jstrm h => some (0xA0, 3, h)
  | .jacc h => some (0xA0, 4, h)
  | .jget h => some (0xA0, 5, h)
  | .jdrain h => some (0xA0, 6, h)
  | .jstat h => some (0xA0, 7, h)
  | .fch h => some (0xB0, 0, h)
  | .wini h => some (0xB0, 1, h)
  | .wpush h => some (0xB0, 2, h)
  | .wpop h => some (0xB0, 3, h)
  | .wins h => some (0xB0, 4, h)
  | .wstat h => some (0xB0, 5, h)
  | .topk h => some (0xB1, 0, h)
  | .dgrow h => some (0xB1, 1, h)
  | .sys h => some (0xF0, 0, h)
  | .sret h => some (0xF0, 1, h)
  | .bkpt h => some (0xF0, 2, h)
  | .sigchk h => some (0xF0, 3, h)
  | .ireg h => some (0xF0, 4, h)
  | .halt h => some (0xF0, 5, h)
  | .zget h => some (0xF1, 0, h)
  | .zset h => some (0xF1, 1, h)
  | .tlbi h => some (0xF4, 0, h)
  | .replay h => some (0xF4, 1, h)
  | .ownset h => some (0xF4, 2, h)
  | .caps h => some (0xF8, 0, h)
  | .pmc h => some (0xF8, 1, h)
  | .unassignedOpcode major minor h => some (major, minor, h)
  | .coldReset => none
  | .bootStage _ => none
  | .mailboxImage _ => none
  | .clockStepDown => none
  | .clockStepUp => none
  | .thermalTrip => none
  | .mctpReadSensors => none
  | .mctpSetPowerLimit _ => none
  | .mctpReadEventLog => none
  | .remoteDepositArrive _ => none
  | .awaitSatisfied _ => none
  | .loadDataReturn _ => none
  | .cflushComplete _ => none
  | .barRelease _ _ => none
  | .barrierPhaseComplete _ _ => none
  | .bwaitSatisfied _ => none
  | .contentionEnterFar _ => none
  | .contentionReturnNear _ => none
  | .fenceComplete _ => none
  | .tbegResume _ => none
  | .fallbackLockGrant _ => none
  | .tendCommit _ => none
  | .xtbeg _ _ => none
  | .xtend _ => none
  | .xtendCommit _ => none
  | .xtabort _ => none
  | .xtstat _ => none
  | .xspawn _ _ => none
  | .hostTxAbort _ _ => none
  | .hazardRelease _ => none
  | .cardUnitWrite _ _ => none
  | .cardComplete _ => none
  | .remotePathLost _ => none
  | .jcloseFree _ => none
  | .jmulBarrierSatisfied _ => none
  | .joinOpStart _ => none
  | .joinOpComplete _ => none
  | .fetchOpStart _ => none
  | .fetchOpComplete _ => none
  | .dgrowComplete _ => none
  | .haltWake _ => none
  | .tlbiComplete _ => none
  | .ownsetComplete _ => none
  | .pageWalk _ _ _ => none
  | .l2RequestDeferred _ => none
  | .l2Fill _ _ => none
  | .gatherDirectReturn _ => none
  | .parityRecovery _ => none
  | .ownershipTransfer _ => none
  | .cxlExtentEvent _ => none
  | .packetReceive _ => none
  | .flitReceive _ _ => none
  | .linkLaneLoss _ _ => none
  | .linkRetrainComplete _ _ _ => none
  | .planePortReport _ _ => none
  | .switchContribution _ _ => none
  | .switchChunkDeliver _ _ => none
  | .switchBroadcastDeliver _ _ => none
  | .mailboxDoorbell _ => none
  | .dispatchPlace _ => none
  | .pairScrub _ => none
  | .agingStep _ => none
  | .teamRetire _ => none
  | .hostTaskPost _ => none
  | .htdone _ => none
  | .dispatcherPreempt _ => none
  | .prmtGo _ => none
  | .ckctlCheckpoint _ => none
  | .ckctlRestore _ => none
  | .preemptHalt _ => none
  | .imageWrite _ => none
  | .errorLogArbitrate _ => none
  | .kcmdClear => none
  | .kcmdPlain => none
  | .kcmdLoad _ => none
  | .kcmdComplete => none
  | .kprovWrite _ => none
  | .almcfgWrite _ => none
  | .almrel _ => none
  | .glitchDetect _ => none
  | .debugIntrusion => none
  | .alarmContain => none
  | .alarmErase => none
  | .hostEventRequest _ => none
  | .registerWrite _ _ => none
  | .fixedLatencyResultWrite _ => none
  | .hostAccess _ => none

/-- The 32-bit word of a host instruction (R346). -/
def hostBits : Instr → Option W32
  | .xtbeg rd rs1 => some (0#12 ++ rs1 ++ 0#3 ++ rd ++ 0x0B#7 : BitVec 32)
  | .xtend rd => some (0#12 ++ 0#5 ++ 1#3 ++ rd ++ 0x0B#7 : BitVec 32)
  | .xtabort code => some (0#4 ++ code ++ 0#5 ++ 2#3 ++ 0#5 ++ 0x0B#7 : BitVec 32)
  | .xtstat rd => some (0#12 ++ 0#5 ++ 3#3 ++ rd ++ 0x0B#7 : BitVec 32)
  | .xspawn rd rs1 => some (0#12 ++ rs1 ++ 4#3 ++ rd ++ 0x0B#7 : BitVec 32)
  | _ => none

/-- The bytes of a device word with its parameter block (R28). -/
def encodeDevice (major : BitVec 8) (minor : BitVec 4) (h : Head) : List Byte :=
  leBytes 12 (h.bits major minor).toNat ++ (match h.params with | some p => p.bytes | none => [])

/-- The bytes of an instruction, least significant first; none for operations and events, which have no encoding. -/
def encode (i : Instr) : Option (List Byte) :=
  match deviceParts i with
  | some (major, minor, h) => some (encodeDevice major minor h)
  | none => (hostBits i).map fun w => leBytes 4 w.toNat

/-- Length in bytes of a device instruction (R29). -/
def Head.len (h : Head) : Nat := if h.params.isSome then 28 else 12

/-- The decoder as the opcode table numbers bits: 32-bit rows are host words, every other width a device word whose bits
above `nbits` are zero. -/
def decodeTableWord (nbits w : Nat) : Option Instr :=
  if nbits = 32 then decodeHost (BitVec.ofNat 32 w)
  else (decodeBytes (leBytes 28 w)).map (·.1)

end Sys2Proof
end

