-- ==== Sys2Proof/Machine/Aes.lean ====
section
/-!
DEFINITION. AES-256 and AES key wrap, which 16_tenancy.md R486 and R490 name (FIPS 197 and RFC 3394). A block is the list of its 16 bytes, the
byte at the lowest address first (00_scope.md R4).
-/

namespace Sys2Proof.Machine

/-! ## The field of 256 elements -/

/-- Multiplication by x. -/
def aesDouble (b : Byte) : Byte := if b.getLsbD 7 then (b <<< 1) ^^^ 0x1B else b <<< 1

/-- The product of two elements, bit by bit of the second. -/
def aesMul (a b : Byte) : Byte :=
  ((List.range 8).foldl (fun (p : Byte × Byte) k => (if b.getLsbD k then p.1 ^^^ p.2 else p.1, aesDouble p.2)) (0, a)).1

/-- The inverse, a to the power 254; 0 for 0. -/
def aesInv (a : Byte) : Byte :=
  ((List.range 7).foldl (fun (p : Byte × Byte) _ => let q := aesMul p.2 p.2; (aesMul p.1 q, q)) (1, a)).1

def aesSub (b : Byte) : Byte :=
  let i := aesInv b
  i ^^^ i.rotateLeft 1 ^^^ i.rotateLeft 2 ^^^ i.rotateLeft 3 ^^^ i.rotateLeft 4 ^^^ 0x63

def aesUnsub (b : Byte) : Byte := aesInv (b.rotateLeft 1 ^^^ b.rotateLeft 3 ^^^ b.rotateLeft 6 ^^^ 0x05)

/-! ## Rounds -/

def xorBytes (xs ys : List Byte) : List Byte := List.zipWith (· ^^^ ·) xs ys

/-- The rows of a block turned: row r to the left by `k * r` columns. -/
def aesTurn (k : Nat) (s : List Byte) : List Byte := (List.range 16).map fun i => s.getD ((i + 4 * k * (i % 4)) % 16) 0

/-- The columns of a block multiplied by a circulant matrix, given by its first row. -/
def aesMix (row : List Byte) (s : List Byte) : List Byte :=
  (List.range 16).map fun i =>
    (List.range 4).foldl (fun b k => b ^^^ aesMul (row.getD k 0) (s.getD (i / 4 * 4 + (i + k) % 4) 0)) 0

/-- The word of the key schedule after `i` words, of which `ws` holds the last eight, latest first. -/
def aesNextWord (i : Nat) (ws : List (List Byte)) : List Byte :=
  let t := ws.getD 0 []
  let u :=
    if i % 8 = 0 then xorBytes ((t.rotateLeft 1).map aesSub) [1 <<< (i / 8 - 1), 0, 0, 0]
    else if i % 8 = 4 then t.map aesSub else t
  xorBytes (ws.getD 7 []) u

/-- The 60 words of the key schedule. -/
def aesWords (key : List Byte) : List (List Byte) :=
  let first := (List.range 8).map fun k => (key.drop (4 * k)).take 4
  ((List.range 52).foldl (fun ws n => aesNextWord (8 + n) ws :: ws) first.reverse).reverse

def aesRoundKey (ws : List (List Byte)) (r : Nat) : List Byte := ((ws.drop (4 * r)).take 4).flatten

/-- AES-256 of a block. -/
def aesEncrypt (key block : List Byte) : List Byte :=
  let ws := aesWords key
  let s := (List.range 13).foldl (fun s r => xorBytes (aesMix [2, 3, 1, 1] (aesTurn 1 (s.map aesSub))) (aesRoundKey ws (r + 1)))
    (xorBytes block (aesRoundKey ws 0))
  xorBytes (aesTurn 1 (s.map aesSub)) (aesRoundKey ws 14)

/-- The inverse of AES-256. -/
def aesDecrypt (key block : List Byte) : List Byte :=
  let ws := aesWords key
  let s := (List.range 13).foldl (fun s r => aesMix [14, 11, 13, 9] (xorBytes ((aesTurn 3 s).map aesUnsub) (aesRoundKey ws (13 - r))))
    (xorBytes block (aesRoundKey ws 14))
  xorBytes ((aesTurn 3 s).map aesUnsub) (aesRoundKey ws 0)

/-- AES-256 of a counter block (R486). -/
@[irreducible] def aes256 (key : BitVec 256) (block : BitVec 128) : BitVec 128 :=
  BitVec.ofNat 128 (leNat (aesEncrypt (leBytes 32 key.toNat) (leBytes 16 block.toNat)))

/-! ## Key wrap -/

/-- One step of the unwrap: the check word and the eight words of the key data. -/
def unwrapStep (key : List Byte) (x : List Byte × List (List Byte)) (t : Nat) : List Byte × List (List Byte) :=
  let i := (t - 1) % 8
  let b := aesDecrypt key (xorBytes x.1 [0, 0, 0, 0, 0, 0, 0, BitVec.ofNat 8 t] ++ x.2.getD i [])
  (b.take 8, x.2.set i (b.drop 8))

/-- The key blob of 72 bytes unwrapped under the provisioning key (R490): the data key and the authentication key, none where its check word
is not the one of RFC 3394. -/
@[irreducible] def unwrapKey (prov : BitVec 256) (blob : List Byte) : Option (BitVec 256 × BitVec 256) :=
  let words := (List.range 8).map fun k => (blob.drop (8 * k + 8)).take 8
  let (a, r) := (List.range 48).foldl (fun x n => unwrapStep (leBytes 32 prov.toNat) x (48 - n)) (blob.take 8, words)
  if a = List.replicate 8 0xA6 then
    some (BitVec.ofNat 256 (leNat (r.take 4).flatten), BitVec.ofNat 256 (leNat (r.drop 4).flatten))
  else none

end Sys2Proof.Machine
end

