-- ==== Sys2Proof/Config.lean ====
section
/-!
DEFINITION. What an implementation fixes and the manual leaves open: every constant here is opaque, so no
proof can see its value. notes/assumptions/2.md and the rows named at each constant say which value is free.
-/

namespace Sys2Proof.Config

/-- Free bit number `i` of draw `n`: every choice the manual leaves open between two outcomes (R33, R55, R429).
`n` is `State.free` at the step; `i` tells the choices of one step apart. -/
opaque freeBit (n i : Nat) : Bool

/-- A free 64-bit value of draw `n`: contents the manual does not state. -/
opaque freeWord (n i : Nat) : BitVec 64

/-- The bits that the special-function unit would give for an f32 input (R202): the same for the same input (R178; log 2). They count where they
are within the bound (`Machine.specialBits`). `fn` is the minor code of major 0x31. -/
opaque specialF32 (fn : Nat) (x : BitVec 32) : BitVec 32

/-- The offset of die `d`'s CLOCK against die C0; the manual bounds it by 16 counts (R118 text; log 2). -/
opaque dieSkew (d : Nat) : Fin 17

/-- The value Xaush draws for CKBOOT at cold reset number `n` (R454; log 12). -/
opaque bootId (n : Nat) : BitVec 64

/-- ECDSA P-384 verification of a boot image against the fused key hash (R23; log 32). -/
opaque signatureOk (payload signature : List (BitVec 8)) : Bool

/-- SHA-384 of a measurement register extended by an image (R23, R25; log 32). -/
opaque sha384Extend (old : BitVec 384) (payload : List (BitVec 8)) : BitVec 384

/-- The Xaush provisioning key, under which key blobs are wrapped (R490; log 36). -/
opaque provisioningKey : BitVec 256

/-- A card of a type with an SFMT accepts a source page of another format (R261, R412): the manual does not list which (log 45). -/
opaque cardAccepts (ty sfmt fmt : Nat) : Bool

/-- The flits that the receive buffer at the far end of link `k` takes before space is returned (R429; log 50). -/
opaque linkSpace (k : Nat) : Nat

/-- LEN of an image: at most the bound of R450, else not architectural (log 52). -/
opaque imageLen (gen bound : Nat) : Nat

/-- Bytes of the section of a type in an image (R450): not architectural (log 52). -/
opaque sectionLen (gen type : Nat) : Nat

/-- How PRIV of a work-list header holds the positions of the ring and the spill area (R390): not architectural (log 48). -/
opaque privCode : Equiv.Perm (BitVec 128)

/-- Where the work-list unit keeps item or block number i of an area of n (R390, R397): not architectural (log 48). -/
opaque place (n : Nat) : Equiv.Perm (Fin n)

/-- The set of an L2 slice in which a line lies (R273; log 71). -/
opaque l2Set (line : Nat) : Fin 256

/-- The set of a die's L2 TLB in which a translation lies (R265; log 71). -/
opaque tlbSet (asid vpn : Nat) : Fin 512

/-- The physical address that a host core's own page tables give a virtual one at draw `n`, none where its walk faults (R254, R436): RISC-V's
translation is not repeated in the manual (log 43). -/
opaque hostPage (n host : Nat) (va : BitVec 64) : Option (BitVec 52)

/-- Which lines alias in a host signature (R339): true where an untouched line hits (log 41). -/
opaque signatureAlias (host line : Nat) : Bool

end Sys2Proof.Config
end

