-- ==== Sys2Proof/Machine/State.lean ====
section
/-!
DEFINITION. The state of the package as plain data: every piece of state the manual names (INVENTORY.md, State),
the reasons a step can stop, and the state after cold reset (01_package.md R22).
-/

namespace Sys2Proof.Machine

/-- Why a step stops with a fault. -/
inductive Fault where
  /-- Raised by the meaning of a device or host instruction when `State.cur` names no such agent: a step never
  sets this up, so no run meets it. Safe. -/
  | noAgent
  deriving DecidableEq, Repr

/-- Why a step is refused. -/
inductive Refusal where
  /-- Raised by an arm of exec whose instruction has no meaning yet. Safe. -/
  | notModelled (mnemonic : String)
  /-- Raised by `step` when a host core fetches a RISC-V instruction outside Xovmtx: the manual does not repeat the
  RISC-V specifications (00_scope.md). Safe. -/
  | hostRiscv (word : W32)
  deriving DecidableEq, Repr

/-! ## Lanes and groups -/

/-- One entry of a lane's read log (R322): the granule's physical granule number, its leaf's key slot, its generic address, the
logged value. -/
structure LogEntry where
  gran : Nat
  slot : Nat
  va   : W64
  val  : W64
  deriving DecidableEq, Repr

/-- One granule of a lane's write buffer (R322): buffered bytes by position. -/
structure BufEntry where
  gran  : Nat
  slot  : Nat
  bytes : KMap Byte
  deriving DecidableEq, Repr

/-- The transaction state of a lane (R322, R343). `first` is the cause that doomed the open transaction, `doomAt` the address of
that access; `closing` marks a transaction that its tend has handed to its ticket (R332). -/
structure LaneTx where
  isOpen : Bool := false
  closing : Bool := false
  doomed : Bool := false
  irrev  : Bool := false
  retry  : Nat := 0
  cause  : Nat := 0
  first  : Nat := 0
  code   : Nat := 0
  addr   : W64 := 0
  doomAt : W64 := 0
  rlog   : List LogEntry := []
  wbuf   : List BufEntry := []
  deriving DecidableEq, Repr

/-- A lane (03_lanes.md, 04_rows.md, 15_traps.md). Rows are keyed by row number; the trap rows are
rows 2,048 to 2,079. `dup` is the duplicate counter file (R467), `regCnt` the counter ireg recorded, `poison` the rows whose
value is poisoned, `upset` those of them that a double-bit error of the register file poisoned (R472), the others having taken poison from
a load (R471, R474). -/
structure Lane where
  rows   : KMap W32 := []
  flags  : BitVec 8 := 0
  cnt    : Nat := 0
  dup    : Nat := 0
  live   : Bool := true
  parked : Bool := false
  offs   : KMap (BitVec 12) := []
  sr     : W32 := 0
  tnest  : Nat := 0
  tcause : Byte := 0
  tval   : W64 := 0
  tsrst  : W32 := 0
  regCnt : Nat := 0
  poison : List Nat := []
  upset  : List Nat := []
  tx     : LaneTx := {}
  deriving DecidableEq, Repr

/-- The uniform part of an index register (R119). -/
structure Index where
  base  : BitVec 11 := 0
  bound : BitVec 12 := 0
  step  : BitVec 8 := 0
  deriving DecidableEq, Repr

/-- An item the scoreboard follows (R54). -/
inductive Item where
  | row (n : Nat)
  | scal (n : Nat)
  | flag (n : Nat)
  deriving DecidableEq, Repr

/-- A fixed-latency result (R55): written at `due`; until then an early consumer of the item may still read `olds`, which lists the
lanes that the producer writes with the value before it. An item of an indirect destination's window that no lane writes has no lane
listed (R125). -/
structure Pend where
  due  : Nat
  item : Item
  olds : KMap W64
  deriving DecidableEq, Repr

/-- An item held busy by the variable-latency producer `op` (R54). -/
structure Busy where
  item : Item
  op   : Nat
  deriving DecidableEq, Repr

/-- An item that the variable-latency consumer `op` writes while an earlier fixed-latency result for it is not yet due (R55): in the
listed lanes either result may be the final one. -/
structure Late where
  op    : Nat
  item  : Item
  lanes : List Nat
  deriving DecidableEq, Repr

/-- Where an access falls (R222): physical memory, an offset of the team's scratchpad union, or nothing. -/
inductive Loc where
  | glob (pa : Nat)
  | scr (off : Nat)
  deriving DecidableEq, Repr

/-- A store that is not yet visible (R289, R295): the lane, the bytes and the colour. `age` is the number that the
next operation had at its issue, `full` marks an instruction that writes the whole 256-byte sector (R474), `rem` is the
barrier tag of a remote store (R417), `rid` the request number of one that has been sent and is not yet answered, `rel` marks a release
(R296), `scope` is its scope, `virt` its virtual address. `near` says that it is visible at .grp scope already: every lane of its group
reads it there (R291). `seen` lists the lanes that have read it before it was visible at wider scopes, and `gate` the lanes of fences after
such a read, each with the number from which on their stores follow it (R296, R298). -/
structure QStore where
  scope  : Nat := 5
  seen   : List Nat := []
  gate   : List (List Nat × Nat) := []
  virt   : Nat := 0
  near   : Bool := false
  lanes  : List Nat
  loc    : Loc
  bytes  : List Byte
  colour : Nat
  slot   : Nat
  va     : W64
  age    : Nat
  full   : Bool
  rem    : Option W64
  rid    : Option Nat
  rel    : Bool
  deriving DecidableEq, Repr

/-- What a group waits for (R78). `stopped` is a supervisor service group after a double trap (R460). -/
inductive Wait where
  | none
  | await (ctr n : Nat)
  | bar (n : Nat)
  | bwait (off : Nat) (phase : Bool) (b : W64) (dst : Nat)
  | halt (dst : Nat)
  | parked
  | load (op : Nat)
  | tbeg (lanes : List Nat)
  | lock (lanes : List Nat)
  | stopped
  deriving DecidableEq, Repr

/-- The instruction a waiting group will complete: its opcode, its fields and its participating lanes. -/
structure Held where
  major : Nat
  minor : Nat
  head  : Head
  lanes : List Nat
  deriving DecidableEq, Repr

/-- What holds a group's later access instructions: a fence (R319), an acquiring load (R297), a commit (R334). -/
inductive HoldKind where
  | fence | acquire | commit
  deriving DecidableEq, Repr

/-- A hold of later accesses: its lanes, its colour mask, the loads it waits for, and a fence's scope. -/
structure Fence where
  kind  : HoldKind
  lanes : List Nat
  mask  : BitVec 8
  loads : List Nat
  scope : Nat := 2
  deriving DecidableEq, Repr

/-- A group (03_lanes.md R70 to R105, 04_rows.md, 15_traps.md). `born` is the number of the step (`State.free`) that made it resident
(R33), `secPend` the lanes and addresses whose load met a failed MAC after its issue (R488), `poisPend` those that consumed poison with no row
to hold it (R474), `far` the words of its next instruction that another package has answered (R421), `fetched` those
that a parked fetch has already performed (R507). -/
structure Group where
  team    : Nat
  grpid   : Nat
  width   : Nat
  nrows   : Nat
  core    : Nat
  quarter : Nat
  slot    : Nat
  half    : Nat
  service : Bool
  sup     : Bool
  pc      : W64
  lanes   : List Lane
  scal    : KMap W64 := []
  ix      : KMap Index := []
  ac      : KMap (BitVec 16) := []
  fmode   : W32 := 0
  gctl    : W64 := 0
  txcfg   : W64 := 8
  ticket  : W32 := 0
  hasTx   : Bool := false
  sig     : W32 := 0xFFFFFFFF
  z       : KMap W64 := []
  tpc     : W64 := 0
  tmask   : W64 := 0
  tfmode  : W32 := 0
  rcnt    : Byte := 0
  rrlim   : BitVec 4 := 3
  nesterr : Bool := false
  ractive : Bool := false
  rentry  : W64 := 0
  rsig    : W32 := 0
  readyAt : Nat := 0
  deferUntil : Nat := 0
  deferFor  : List Nat := []
  pend    : List Pend := []
  busy    : List Busy := []
  late    : List Late := []
  wait    : Wait := .none
  held    : Option Held := none
  stores  : List QStore := []
  fence   : Option Fence := none
  dmrPend : Option (List Nat × W64) := none
  rfPend  : KMap W64 := []
  rfHold  : Bool := false
  secPend : KMap W64 := []
  poisPend : KMap W64 := []
  accPend : KMap W64 := []
  far     : KMap (List Byte) := []
  fetched : KMap W32 := []
  sent    : Option Nat := none
  born    : Nat := 0
  deriving DecidableEq, Repr

/-! ## Teams and the tun -/

/-- A numbered barrier (R246): arrivals counted, the governing count, the groups that wait, and those of a complete episode that leave. -/
structure BarState where
  arrived : Nat := 0
  count   : Nat := 0
  waiting : List Nat := []
  leaving : List Nat := []
  deriving DecidableEq, Repr

/-- One tun entry (R354): its place, its key, its accumulator (1,024 words at block grain, one at element grain), and the
duplicate of a DMR partition. -/
structure TunEntry where
  place : Nat
  key   : W64
  acc   : List W32
  dup   : List W32
  bad   : Bool := false
  deriving DecidableEq, Repr

/-- A partition (R349, R350, R356, R377). `recs` lists the keys of the firkin records in append order, by which the join unit
merges them (R376). -/
structure Partition where
  gen    : Nat
  half   : Nat
  closed : Bool := false
  slots  : Nat
  probe  : Nat
  elem   : Bool
  dmr    : Bool
  int    : Bool
  cmask  : Byte
  afmt   : Nat
  ageo   : Nat
  bfmt   : Nat
  bgeo   : Nat
  acb    : W64
  ascb   : W64
  bcb    : W64
  bscb   : W64
  fbase  : W64
  fcap   : Nat
  fused  : Nat := 0
  fres   : Nat := 0
  recs   : List W64 := []
  broken : Bool := false
  entries : List TunEntry := []
  hist   : List Nat := [0, 0, 0, 0, 0, 0, 0, 0]
  spills : Nat := 0
  deriving DecidableEq, Repr

/-- A resident team (R72, R223, R433). `scratch` is the union of R219; `objs` the 16-byte units that are barrier objects,
`upd` those of them that an update has reached (R242), `spoison` its poisoned 8-byte words (R473). `asked` is a requested pre-emption with the place and size reserved for its image (R448),
`hold` one whose image the alarm keeps (R493), `discard` one that a restore drops (R453). -/
structure Team where
  task     : Nat
  teamid   : Nat
  asid     : Nat
  core     : Nat
  paired   : Bool
  ngroup   : Nat
  sbytes   : Nat
  scratch  : KMap Byte := []
  spoison  : List Nat := []
  objs     : List Nat := []
  upd      : List Nat := []
  bars     : KMap BarState := []
  tun      : Nat
  parts    : KMap Partition := []
  gens     : Nat := 0
  txok     : Bool
  locbase  : W64
  locsize  : Nat
  prio     : Nat
  trapsOn  : Bool
  placedAt : Nat
  asked    : Option (Nat × Nat) := none
  hold     : Bool := false
  halted   : Bool := false
  faulted  : Bool := false
  discard  : Bool := false
  deriving DecidableEq, Repr

/-! ## Operations in flight -/

/-- One chunk of an access: consecutive bytes at a place, the key slot of their leaf and their virtual address. -/
structure Chunk where
  loc  : Loc
  n    : Nat
  slot : Nat
  virt : Nat := 0
  deriving DecidableEq, Repr

/-- One lane of a load in flight: its destination row, its place (no chunks while its page is not resident, one of no bytes for a word whose page
is not, R507), the chunks that have arrived, its data once all are there, and whether they were poisoned. `fmt` is the page format. -/
structure LoadLane where
  lane   : Nat
  row    : Nat
  va     : W64
  chunks : List Chunk
  fmt    : Nat
  got    : KMap (List Byte)
  done   : Option (List Byte)
  bad    : Bool
  deriving DecidableEq, Repr

/-- A load in flight (R228, R233): `scal` is the destination of ldu and `uni` its participating lanes; `cvt` the FMODE of an
ld with cvt. `gather` lists the lanes whose sectors were sent in a gather packet (R275). `again` says that a replay has found a walk that has to
wait: it is made again. -/
structure Load where
  gid    : Nat
  lanes  : List LoadLane
  uni    : List Nat
  size   : Nat
  ty     : Ty
  part   : Nat
  scal   : Option Nat
  cvt    : Option W32
  scope  : Nat
  acq    : Bool
  gather : List Nat
  again  : Bool := false
  deriving DecidableEq, Repr

/-- One lane of an atomic performed at another package (R305): where its old value goes, its place, and that value once answered. -/
structure AtomLane where
  lane : Nat
  row  : Nat
  va   : W64
  done : Option W64
  place : Option Chunk := none
  bad  : Bool := false
  deriving DecidableEq, Repr

/-- An atomic that waits for answers of another package (R317, R318): `scal` is the destination of atomu, `ret` says that
it returns the old value. -/
structure AtomOp where
  gid    : Nat
  lanes  : List AtomLane
  parts  : List Nat
  ty     : Ty
  scal   : Option Nat
  ret    : Bool
  acq    : Bool
  colour : Nat
  deriving DecidableEq, Repr

/-- A remote deposit in flight (R148, R149). -/
structure Deposit where
  src   : Nat
  dst   : Nat
  row   : Nat
  ctr   : Nat
  vals  : KMap W32
  deriving DecidableEq, Repr

/-- A declared byte range (R413): in the team's scratchpad, or of virtual addresses under an ASID. -/
structure Range where
  scr : Bool
  ctx : Nat
  lo  : Nat
  hi  : Nat
  deriving DecidableEq, Repr

/-- What an engine operation carries of its issuer: the group, team, core, mode, captured FMODE and token register. -/
structure Issuer where
  gid   : Nat
  team  : Nat
  core  : Nat
  asid  : Nat
  sup   : Bool
  fmode : W32
  token : Nat
  lanes : List Nat
  deriving DecidableEq, Repr

/-- One unit of a job card (R410): its row, its source and destination addresses, its lengths, and whether it is written,
failed with a status, failed with its count-down still to be made (`owed`) or parked (`stuck`), or outstanding: not begun, parked, in flight again
after a replay (R412), or sent. -/
inductive UnitState where
  | todo | written | failed (status : Nat) | owed (status : Nat) | stuck (status : Nat) | parked | again | sent
  deriving DecidableEq, Repr

/-- One unit of a card; `align` says that its row's addresses are aligned on their elements (R412). -/
structure CardUnit where
  src  : W64
  dst  : W64
  slen : Nat
  dlen : Nat
  align : Bool := true
  st   : UnitState
  deriving DecidableEq, Repr

/-- A job card handed to an engine (R406, R409). -/
structure Card where
  iss    : Issuer
  mask   : Byte
  started : Bool
  ty     : Nat
  unord  : Bool
  rtag   : Bool
  sfmt   : Nat
  dfmt   : Nat
  link   : Nat
  bar    : W64
  units  : List CardUnit
  status : Nat
  deriving DecidableEq, Repr

/-- The kinds of join operation with their parameter values (R368 to R377). -/
inductive JoinKind where
  | jopen (grow : Bool) (desc : Nat) (handle : W64)
  | jclose
  | jmul (key a b v3 : W64) (obj : Option Nat) (cd : Bool)
  | jstrm (dense : Bool) (alist blist counts start : W64) (desc : Nat)
  | jacc (tuples : List (Nat × W64 × W32))
  | jget (keys : List (Nat × W64)) (row flag : Nat)
  | jdrain (drec : Nat) (keys vals n : W64)
  | jstat (out : Nat)
  deriving DecidableEq, Repr

/-- The state of a queued join operation. -/
inductive JoinState where
  | queued | waiting | running | parked
  deriving DecidableEq, Repr

/-- An entry of a jstrm list (R371): its index, its output coordinate, its k and its tile address. -/
structure Entry where
  idx  : Nat
  x    : Nat
  k    : Nat
  tile : W64
  deriving DecidableEq, Repr

/-- Where a jstrm stands (R371, R372): the next A and B entries to read, the A entry at hand, a B entry read ahead of its k, the B
entries of the k being formed (`closed` once the last of them is known), the place of the next product among them or among the
dense columns, and the highest k of either list so far. `seenA` and `seenB` are the k and the index of the entries read, and `led` says that the
entry before START has been looked at. -/
structure Stream where
  ia : Nat
  a  : Option Entry := none
  ib : Nat := 0
  b  : Option Entry := none
  bs : List Entry := []
  closed : Bool := false
  col : Nat := 0
  ka : Nat := 0
  kb : Nat := 0
  seenA : KMap Nat := []
  seenB : KMap Nat := []
  led : Bool := false
  deriving DecidableEq, Repr

/-- A join operation in a core's queue (R363): `part` names its partition, `resv` its firkin reservation. `n` counts the tuples
that a jacc has filed or a jdrain has emitted, `stream` is the place of a jstrm, `drec` and `next` are a jdrain's record and next
key, `outs` the values of a jget, `fin` the token once the work is done. -/
structure JoinOp where
  iss   : Issuer
  kind  : JoinKind
  part  : Nat
  resv  : Nat
  st    : JoinState := .queued
  n     : Nat := 0
  stream : Stream := { ia := 0 }
  drec  : Option Nat := none
  next  : Nat := 0
  outs  : List (Nat × Option W32) := []
  fin   : Option W64 := none
  deriving DecidableEq, Repr

/-- A fetch-unit operation (R386, R402): coordinates are the signed values of rows B to B+3 by lane. -/
inductive FetchKind where
  | fch (handle : W64) (coords : List (Nat × List Int)) (row part flag : Nat) (ty : Ty)
  | dgrow (tile grad state ctl : W64)
  deriving DecidableEq, Repr

/-- A fetch-unit operation: `started` once the queue lets it run, `desc` its surface descriptor once read, `res` and `fails` the
lanes read so far with their values or statuses, `fin` the token once the work is done. -/
structure FetchOp where
  iss  : Issuer
  kind : FetchKind
  mask : Byte
  started : Bool := false
  parked  : Bool := false
  desc : Option Nat := none
  res  : List (Nat × W32) := []
  fails : List (Nat × Nat) := []
  fin  : Option W64 := none
  deriving DecidableEq, Repr

/-- A cached translation (R265): of core `unit` when `l1`, else of die `unit`. `vpn` is VA[53:14] of the page's first 16 KiB,
`size` its size in 16 KiB pages, `eaddr` the physical address of its entry. -/
structure TlbEntry where
  l1   : Bool
  unit : Nat
  asid : Nat
  vpn  : Nat
  size : Nat
  pte  : BitVec 128
  eaddr : Nat
  deriving DecidableEq, Repr

/-- An operation whose completion writes a token or releases registers. A tlbi keeps the translations it dropped;
a spawn whose record lies in another package waits for the write of its TASKID there (R440). -/
inductive Op where
  | load (l : Load)
  | atom (a : AtomOp)
  | deposit (d : Deposit)
  | cflush (gid dst : Nat) (lines : List Nat) (inv : Bool)
  | tlbi (gid dst : Nat) (drops : List TlbEntry)
  | ownset (gid dst : Nat) (first count own : Nat) (ver : Bool)
  | spawn (gid dst : Nat) (lanes : List Nat) (va : W64)
  | card (c : Card)
  | join (j : JoinOp)
  | fetch (f : FetchOp)
  deriving DecidableEq, Repr

/-- A hazard-table entry (R413). -/
structure Hazard where
  op     : Nat
  core   : Nat
  reads  : List Range
  writes : List Range
  deriving DecidableEq, Repr

/-! ## Memory -/

/-- A region-table entry (R279). OWNER: 0 DEV, 1 HOST, 2 SHARED. -/
structure Region where
  owner : BitVec 2 := 1
  ver   : BitVec 24 := 0
  deriving DecidableEq, Repr

/-- How a sector was last written back (R486, R487): key slot kind and key number (0: in clear), and VER. -/
structure MacTag where
  key : Nat := 0
  ver : BitVec 24 := 0
  deriving DecidableEq, Repr

/-- A sector held in L2: its dirty state, the key slot of the mapping that brought it in, and whether it was read in clear
from a sector that stands encrypted (R488). -/
structure L2Sector where
  dirty : Bool
  slot  : Nat
  raw   : Bool := false
  deriving DecidableEq, Repr

/-- An L1 line (R290): 256 bytes of one core, under the key slot of the mapping that brought it in (R488). -/
structure L1Line where
  core  : Nat
  line  : Nat
  slot  : Nat := 0
  bytes : List Byte
  bad   : Bool := false
  deriving DecidableEq, Repr

/-- The atomic state of a line (R303, R304): the hub clocks of its revocations, and the core (none for another agent) from which every
atomic has come since a hub clock. -/
structure AtomLine where
  owner   : Option Nat := none
  far     : Bool := false
  revokes : List Nat := []
  since   : Nat := 0
  lastCore : Option Nat := none
  deriving DecidableEq, Repr

/-- A pending-fault entry of a die (R267, R506): the granule it covers. -/
structure PendFault where
  die  : Nat
  asid : Nat
  base : Nat
  size : Nat
  deriving DecidableEq, Repr

/-- A request at a slice (R500) or waiting at its core (R501): the operation or store instruction `op` of a tenant, its pass, and the
clock of its arrival at the core's exit. -/
structure L2Req where
  slice   : Nat
  sector  : Nat
  core    : Nat
  op      : Nat
  waiting : Bool
  pass    : Nat := 0
  asid    : Nat := 0
  since   : Nat := 0
  deriving DecidableEq, Repr

/-- A CXL extent (R278): `st` 0 added, 1 release requested, 2 released. -/
structure Extent where
  base : Nat
  size : Nat
  st   : Nat
  deriving DecidableEq, Repr

/-- A line of a core's fetch cache (R388), under the key slot of the mapping that brought it in (R488). -/
structure FetchLine where
  core  : Nat
  line  : Nat
  slot  : Nat := 0
  bytes : List Byte
  deriving DecidableEq, Repr

/-- A cached table address of a die's walkers (R266, R284): where a walk of an ASID under the address bits `pre` above a level goes on. -/
structure WalkEntry where
  die   : Nat
  asid  : Nat
  level : Nat
  pre   : Nat
  table : Nat
  deriving DecidableEq, Repr

/-- A sector of a node peer's memory held in this package's L2 (R282), under the key slot of the mapping that brought it in. -/
structure PeerSector where
  slot  : Nat
  bytes : List Byte
  deriving DecidableEq, Repr

/-- A write of memory while a group is resident, with the bytes it replaced and the number of its step: code that is changed may still be
fetched as it was (R33). -/
structure Overwrite where
  stamp : Nat
  pa    : Nat
  old   : List Byte
  deriving DecidableEq, Repr

/-- Global memory and everything that caches it (08_memory.md). `was` lists the bytes that writes replaced since a group has been
resident, newest first (R33); `ghosts` the translations that left a TLB while an access in flight may have used them (R284); `tables` the
table entries that other packages have answered to walks in progress (R274, R282). -/
structure Mem where
  bytes   : KMap Byte := []
  was     : List Overwrite := []
  poison  : List Nat := []
  tags    : KMap MacTag := []
  regions : KMap Region := []
  l2      : KMap L2Sector := []
  l2q     : KMap L2Req := []
  l1      : List L1Line := []
  atom    : KMap AtomLine := []
  tlb     : List TlbEntry := []
  ghosts  : List TlbEntry := []
  walks   : List WalkEntry := []
  peer    : KMap PeerSector := []
  tables  : KMap (List Byte) := []
  pfe     : List PendFault := []
  extents : List Extent := []
  fcache  : List FetchLine := []
  deriving DecidableEq, Repr

/-! ## The ready pool -/

/-- A footprint word of a record (R434). -/
structure Footprint where
  v    : Bool
  w    : Bool
  size : Nat
  base : Nat
  deriving DecidableEq, Repr

/-- The fields of a task record (R433). -/
structure Record where
  entry   : W64
  arg     : W64
  locbase : W64
  locsize : Nat
  teams   : Nat
  groups  : Nat
  width   : Nat
  paired  : Bool
  cores   : Bool
  txok    : Bool
  rows    : Nat
  scratch : Nat
  tun     : Nat
  prio    : Nat
  host    : Bool
  aff     : Nat
  asid    : Nat
  key     : Nat
  preds   : Nat
  succ    : List Nat
  fps     : List Footprint
  deriving DecidableEq, Repr

/-- Who submitted a task (R436). -/
inductive Submitter where
  | task (id : Nat)
  | host (h : Nat)
  | mailbox
  deriving DecidableEq, Repr

/-- A team's image (R450): the header fields, where it lies, and the state it holds. `tnum` is the number under which the team was
resident, `held` marks an image kept by the alarm. -/
structure Image where
  gen    : Nat
  addr   : Nat
  len    : Nat
  bootid : W64
  held   : Bool
  tnum   : Nat
  team   : Team
  groups : List (Nat × Group)
  ops    : List (Nat × Op)
  hazards : List Hazard
  deriving DecidableEq, Repr

/-- One team of a task: not placed yet, resident under a team number, pre-empted with an image, or done. -/
inductive TeamSlot where
  | unplaced
  | resident (team : Nat)
  | imaged (im : Image)
  | dead
  deriving DecidableEq, Repr

/-- A pool entry (R437, R441, R445). -/
structure Task where
  record   : Record
  recAddr  : Nat
  sub      : Submitter
  seq      : Nat
  preds    : Nat
  level    : Nat
  since    : Nat
  order    : Nat
  slots    : List TeamSlot
  posted   : Bool := false
  faulted  : Bool := false
  deriving DecidableEq, Repr

/-- A checkpoint or restore in progress (R452, R453): the manifest, the teams whose images or ends it waits for, the images written,
and, for a restore, the images to put back. -/
structure CkRun where
  man     : Nat
  restore : Bool
  waits   : List Nat
  gens    : List Nat
  begun   : Bool := true
  deriving DecidableEq, Repr

/-- The pool, the mailbox and the last tenant of each pair (R438, R446, R483); `images` keeps every image written since cold
reset by its GEN. -/
structure Pool where
  tasks    : KMap Task := []
  nextId   : Nat := 1
  seq      : Nat := 0
  pairAsid : KMap Nat := []
  scrubs   : List Nat := []
  mbrec    : KMap Byte := []
  mbstat   : W64 := 0
  irq40    : Bool := false
  irq41    : Bool := false
  images   : KMap Image := []
  ck       : Option CkRun := none
  deriving DecidableEq, Repr

/-! ## Transactions -/

/-- Who holds a commit (R331): of a group, tend's participating lanes, those whose transactions it commits, its flag, and the
number under which the scoreboard follows the flag. -/
inductive Holder where
  | group (gid : Nat) (parts lanes : List Nat) (flag op : Nat)
  | host (h : Nat)
  deriving DecidableEq, Repr

/-- A commit that holds a ticket and is incomplete. -/
structure Commit where
  ticket : W32
  who    : Holder
  deriving DecidableEq, Repr

/-- A line lock of the irrevocable lanes (R336). -/
structure LineLock where
  line  : Nat
  write : Bool
  deriving DecidableEq, Repr

/-- The ticket unit and the fallback lock (R331, R336). -/
structure TxUnit where
  next    : W32 := 0
  commits : List Commit := []
  lock    : Option Nat := none
  locks   : List LineLock := []
  deriving DecidableEq, Repr

/-- A store of a host core that is not yet visible (R312). -/
structure HostStore where
  pa    : Nat
  bytes : List Byte
  deriving DecidableEq, Repr

/-- A host core (R338 to R343): RISC-V registers, the trap registers a misaligned handler needs, and its transaction context. -/
structure HostCore where
  x       : KMap W64 := []
  f       : KMap W64 := []
  pc      : W64 := 0
  running : Bool := false
  mtvec   : W64 := 0
  mepc    : W64 := 0
  mcause  : W64 := 0
  mtval   : W64 := 0
  txOpen  : Bool := false
  savedX  : KMap W64 := []
  savedF  : KMap W64 := []
  handler : W64 := 0
  txRd    : Nat := 0
  reads   : List Nat := []
  writes  : List Nat := []
  buf     : KMap Byte := []
  cause   : Nat := 0
  code    : Byte := 0
  waitRd  : Option Nat := none
  stq     : List HostStore := []
  resv    : Option (Nat × Nat) := none
  deriving DecidableEq, Repr

/-! ## Control registers, logs, fabric, Xaush, counters -/

/-- The control registers of one die (R463). -/
structure DieRegs where
  tvbase : W64 := 0
  evpend : W64 := 0
  evmask : W64 := 0
  apscr  : W64 := 0x0100000000000000
  appair : W64 := 0x0100000100000000
  aploc  : W64 := 0x0100000200000000
  fbctl  : W64 := 6
  fbput  : W32 := 0
  fbget  : W32 := 0
  fbstat : W64 := 0
  deriving DecidableEq, Repr

/-- The package-scope control registers (R463, R454, R420). -/
structure PkgRegs where
  trapen  : W64 := 0
  ptroot  : W64 := 0
  fabcfg  : W64 := 0
  ilcfg   : W64 := 0
  pquant  : W64 := 0x000007D000002710
  qtbase  : W64 := 0
  imgheap : W64 := 0
  prmt    : W64 := 0
  ckctl   : W64 := 0
  ckgen   : W64 := 0
  ckmin   : W64 := 0
  htq     : W64 := 4
  htqptr  : W64 := 0
  ckboot  : W64 := 0
  deriving DecidableEq, Repr

/-- A report that waits for the arbiter (R476). -/
structure Report where
  asid  : Nat
  src   : Nat
  value : Nat
  deriving DecidableEq, Repr

/-- An error log (R475), with the reports of each channel in the order in which they came. -/
structure ErrLog where
  put  : W32 := 0
  get  : W32 := 0
  ovf  : W32 := 0
  cnt  : KMap W32 := []
  pend : KMap (List Report) := []
  ent  : KMap (BitVec 128) := []
  deriving DecidableEq, Repr

/-- A link (R428 to R430). `state`: 0 DOWN, 1 TRAIN, 2 UP16, 3 UP8LO, 4 UP8HI, 5 FAILED. `wasUp` says that a
TRAIN was entered from an UP state, `target` the lanes it aims at; `sent` the unacknowledged flits, `acking` a packet of which only the first flits are acknowledged; `rxNext`, `rxPart`
the receive side; `used` the flits that fill the receiver's buffer as far as CRED has told, `owed` the flits of this side's buffer to be
returned (R426, R429), `wire` the flit last sent. -/
structure Link where
  lanebad : BitVec 16 := 0
  txseq   : BitVec 12 := 0
  acked   : BitVec 12 := 0xFFF
  replays : Byte := 0
  crcerr  : Byte := 0
  state   : Nat := 0
  wasUp   : Bool := false
  target  : Nat := 0
  sent    : List Flit := []
  acking  : Option Packet := none
  outQ    : List Flit := []
  held    : List Packet := []
  rxNext  : BitVec 12 := 0
  rxPart  : Option Packet := none
  used    : Nat := 0
  owed    : Nat := 0
  wire    : Option RawFlit := none
  deriving DecidableEq, Repr

/-- A member of a multicast group (R422). -/
structure Member where
  pkg   : Nat
  dbase : Nat
  btag  : W64
  deriving DecidableEq, Repr

/-- A multicast group as a switch plane holds it (R422). -/
structure McGroup where
  members : List Member
  elt     : Nat
  size    : Nat
  pmask   : BitVec 18
  deriving DecidableEq, Repr

/-- A chunk being reduced in a plane (R424): f32 sums and the contributions counted. -/
structure McChunk where
  plane : Nat
  group : Nat
  off   : Nat
  len   : Nat
  sums  : List W32
  count : Nat
  key   : Nat
  deriving DecidableEq, Repr

/-- What an answer from another package is for: a lane's chunk of a load, a queued store of a group, a lane of an atomic,
a unit of a card, bytes that an engine operation reads or writes, a word of a group's next instruction, an entry of a page table, or a write of the
walker. -/
inductive OutKind where
  | load (op lane chunk : Nat)
  | store (gid : Nat)
  | atom (op lane : Nat)
  | unit (op unit : Nat)
  | engRead (op pa n : Nat)
  | engWrite (op : Nat)
  | code (gid pa : Nat)
  | table (pa : Nat)
  | walker
  deriving DecidableEq, Repr

/-- A remote request awaiting its response (R427), and the link it was given to. `keep` says that the sector it brings may be kept: this package has
not written it since (R282); `addr` and `len` are the bytes that it names in the other package. -/
structure Outstanding where
  rid  : Nat
  dst  : Nat
  via  : Nat
  kind : OutKind
  keep : Bool := true
  addr : Nat := 0
  len  : Nat := 0
  deriving DecidableEq, Repr

/-- Bytes of another package that an engine operation has asked for and received, or the status of their failure. -/
structure RemoteGot where
  op     : Nat
  pa     : Nat
  n      : Nat
  data   : List Byte
  status : Nat
  deriving DecidableEq, Repr

/-- The links, the planes' port reports, the multicast state of the planes, the packets delivered outside. -/
structure Fabric where
  links   : KMap Link := []
  down    : KMap (List Nat) := []
  groups  : KMap McGroup := []
  chunks  : KMap McChunk := []
  nextRid : Nat := 0
  outs    : List Outstanding := []
  got     : List RemoteGot := []
  deriving DecidableEq, Repr

/-- A key slot (R484). `kind`: 0 EMPTY, 1 PLAIN, 2 ENC; `key` numbers the loaded key. -/
structure KeySlot where
  kind   : BitVec 2 := 0
  owner  : BitVec 16 := 0
  shared : Bool := false
  key    : Nat := 0
  dkey   : BitVec 256 := 0
  akey   : BitVec 256 := 0
  deriving DecidableEq, Repr

/-- An entry of the Xaush event log (R20, R24, R493): source (0 to 5 alarm sources, 16 thermal trip, 32 + n failure of boot stage n),
ASID, CLOCK. -/
structure XEvent where
  source : Nat
  asid   : Option Nat
  clock  : W64
  deriving DecidableEq, Repr

/-- A slot command in progress (R490). -/
inductive KOp where
  | clear | plain | load (blob : Nat)
  deriving DecidableEq, Repr

/-- Xaush (16_tenancy.md, R23 to R26). `queue` holds the alarm actions to be carried out, with their levels. `released` lists the tenants let go of a containment of every tenant (R493). -/
structure Xaush where
  slots    : KMap KeySlot := []
  keys     : KMap (BitVec 512) := []
  karg     : W64 := 0
  kerr     : Bool := false
  kbusy    : Option (KOp × W64) := none
  kprov    : Bool := false
  lock     : Bool := false
  lvl      : BitVec 12 := 0x5A9
  queue    : List (Nat × XEvent) := []
  contained : List Nat := []
  containAll : Bool := false
  released : List Nat := []
  erased   : Bool := false
  log      : List XEvent := []
  meas     : KMap (BitVec 384) := []
  stage    : Nat := 0
  held     : Bool := false
  privs    : List (Nat × Nat) := []
  deriving DecidableEq, Repr

/-- An event counter (R495). -/
structure Counter where
  ctl : W64 := 0
  cnt : BitVec 48 := 0
  deriving DecidableEq, Repr

/-- Clocks, power and temperature (R17 to R21); `hubT` is the time in hub clocks (R17), counted in 1,113,840ths of one; `mctp` holds the responses to
the management controller. The manual does not give the limit in force before the controller sets one below the rating: the model takes the
rating, 2,400 W. DESIGN CHOICE (log 68). -/
structure Platform where
  mhz     : Nat := 1800
  hubT    : Nat := 0
  limited : Bool := false
  tripped : Bool := false
  power   : Nat := 0
  temp    : Nat := 0
  limit   : Nat := 2400
  debugLock : Bool := true
  mctp    : List (List Nat) := []
  resets  : Nat := 0
  deriving DecidableEq, Repr

/-- The agent whose instruction runs. -/
inductive Actor where
  | idle
  | group (gid : Nat)
  | host (h : Nat)
  deriving DecidableEq, Repr

/-- A turn: which agent moves next (the model's own; notes/assumptions/1.md). Those from `tick` on are steps that the
manual leaves to the hardware and gives no name. -/
inductive Turn where
  | quarter (core q : Nat)
  | host (h : Nat)
  | event (i : Instr)
  | tick (n : Nat)
  | drain (gid k : Nat)
  | drainHost (h k : Nat)
  | sendFlit (link : Nat)
  | evictL1 (core line : Nat)
  | evictL2 (sector : Nat)
  | evictTlb (k : Nat)
  | evictFetch (core line : Nat)
  | performLane (op lane : Nat)
  | landLane (op lane : Nat)
  | upsetRow (gid lane row : Nat) (double : Bool)
  | upsetCnt (gid lane v : Nat)
  | upsetMem (pa : Nat) (double : Bool)
  | poolStep
  deriving DecidableEq, Repr

/-- The state of the package. -/
structure State where
  groups : KMap Group := []
  teams  : KMap Team := []
  nextGid : Nat := 0
  ops    : KMap Op := []
  nextOp : Nat := 0
  hazards : List Hazard := []
  mem    : Mem := {}
  pool   : Pool := {}
  tx     : TxUnit := {}
  hosts  : KMap HostCore := []
  dies   : KMap DieRegs := []
  pkg    : PkgRegs := {}
  logs   : KMap ErrLog := []
  net    : Fabric := {}
  xa     : Xaush := {}
  pmc    : KMap Counter := []
  plat   : Platform := {}
  clock  : Nat := 0
  qnext  : KMap Nat := []
  cur    : Actor := .idle
  sched  : List Turn := []
  free   : Nat := 0
  deriving DecidableEq, Repr

/-- The package right after cold reset (R22): every compute core halted, caches and TLBs empty, slot 0 PLAIN and SHARED and
every other slot EMPTY, KPROV.DONE 0, the pool empty, every region owned by HOST. Tables with nothing listed hold the
reset value of their kind. CKBOOT is drawn by Xaush (R454). -/
def State.reset : State :=
  { pkg := { ckboot := Config.bootId 0 }
    xa := { slots := [(0, { kind := 1, shared := true })] } }

end Sys2Proof.Machine
end

