-- ==== Sys2Proof/Machine/Maps.lean ====
section
/-!
DEFINITION. Sparse tables: one canonical form (keys strictly rising, no entry equal to the default) for memory bytes, rows,
scalars and the tables of units. The laws stand in Laws/Maps.lean.
-/

namespace Sys2Proof.Machine

/-- The value listed at a key. -/
def klookup {β : Type} : KMap β → Nat → Option β
  | [], _ => none
  | (a, v) :: r, k => if a = k then some v else klookup r k

/-- The value at a key, `d` where nothing is listed. -/
def kget {β : Type} (d : β) (m : KMap β) (k : Nat) : β := (klookup m k).getD d

/-- A table without a key. -/
def kerase {β : Type} : KMap β → Nat → KMap β
  | [], _ => []
  | (a, v) :: r, k => if a = k then kerase r k else (a, v) :: kerase r k

/-- A table with a value put at a key. -/
def kput {β : Type} : KMap β → Nat → β → KMap β
  | [], k, v => [(k, v)]
  | (a, w) :: r, k, v =>
    if a < k then (a, w) :: kput r k v
    else if a = k then (k, v) :: r
    else (k, v) :: (a, w) :: r

/-- A write that keeps the canonical form: the default value is not listed. -/
def kset {β : Type} [DecidableEq β] (d : β) (m : KMap β) (k : Nat) (v : β) : KMap β :=
  if v = d then kerase m k else kput m k v

/-- A change of a listed value. -/
def kmap {β : Type} (m : KMap β) (k : Nat) (f : β → β) : KMap β :=
  match klookup m k with
  | some v => kput m k (f v)
  | none => m

/-- Keys strictly rising, all above `lo`. -/
def kabove {β : Type} : Nat → KMap β → Bool
  | _, [] => true
  | lo, (a, _) :: r => decide (lo ≤ a) && kabove (a + 1) r

/-- Keys strictly rising. -/
def ksorted {β : Type} (m : KMap β) : Bool := kabove 0 m

/-- The canonical form of a sparse table with default `d`. -/
def kcanon {β : Type} [DecidableEq β] (d : β) (m : KMap β) : Bool :=
  ksorted m && m.all fun e => decide (e.2 ≠ d)

/-- A run of values written from a key on. -/
def ksetRun {β : Type} [DecidableEq β] (d : β) (m : KMap β) (k : Nat) : List β → KMap β
  | [] => m
  | v :: r => ksetRun d (kset d m k v) (k + 1) r

/-- A run of `n` values read from a key on. -/
def kgetRun {β : Type} (d : β) (m : KMap β) (k : Nat) : Nat → List β
  | 0 => []
  | n + 1 => kget d m k :: kgetRun d m (k + 1) n

end Sys2Proof.Machine
end

