-- ==== Sys2Proof/Machine/Numbers.lean ====
section
/-!
DEFINITION. Number formats, rounding, NaN policy, exact sums and pecks (05_numbers.md R153 to R178). Values are held
exactly (a sign, a natural mantissa and a power of two) until the one rounding an instruction performs.
-/

namespace Sys2Proof.Machine

/-- A floating-point format: exponent bits, fraction bits, bias (R154). `noInf` marks e4m3 (R155), `small` e4m3 and e5m2,
whose overflow follows R166. -/
structure Fmt where
  eb    : Nat
  fb    : Nat
  bias  : Nat
  noInf : Bool := false
  small : Bool := false
  deriving DecidableEq, Repr

def fmtF64 : Fmt := { eb := 11, fb := 52, bias := 1023 }
def fmtF32 : Fmt := { eb := 8, fb := 23, bias := 127 }
def fmtF16 : Fmt := { eb := 5, fb := 10, bias := 15 }
def fmtBf16 : Fmt := { eb := 8, fb := 7, bias := 127 }
def fmtE5m2 : Fmt := { eb := 5, fb := 2, bias := 15, small := true }
def fmtE4m3 : Fmt := { eb := 4, fb := 3, bias := 7, noInf := true, small := true }

/-- Bits of a pattern of a format. -/
def fmtWidth (f : Fmt) : Nat := 1 + f.eb + f.fb

/-- A decoded value: a NaN with its sign and its fraction left-aligned on 52 bits, an infinity, or the exact finite value
(-1)^neg * m * 2^e (R155). -/
inductive FVal where
  | nan (neg : Bool) (payload : Nat)
  | inf (neg : Bool)
  | fin (neg : Bool) (m : Nat) (e : Int)
  deriving DecidableEq, Repr

/-- The rounding modes of R164; stochastic rounding carries the generator's value. -/
inductive Rm where
  | rne | rtz | rup | rdn
  | sr (rnd : Nat)
  deriving DecidableEq, Repr

/-- Rounding mode, FTZ, NANP and SAT in force for one operation (R163). -/
structure FEnv where
  rm   : Rm
  ftz  : Bool
  nanp : Bool
  sat  : Bool
  deriving DecidableEq, Repr

/-- RM of FMODE where SR is not applied: SR and codes 5 to 7 act as RNE (R163, R164). -/
def rmNoSr (c : Nat) : Rm :=
  match c with
  | 1 => .rtz | 2 => .rup | 3 => .rdn | _ => .rne

/-- The environment of FMODE without SR (R163). -/
def fenv (fmode : W32) : FEnv :=
  { rm := rmNoSr (fmode.extractLsb' 0 3).toNat, ftz := fmode.getLsbD 3, nanp := fmode.getLsbD 5, sat := fmode.getLsbD 4 }

/-- FMODE selects stochastic rounding (R163). -/
def fmodeSr (fmode : W32) : Bool := (fmode.extractLsb' 0 3).toNat == 4

/-- The value of a pattern (R155). A NaN keeps its sign and its fraction as payload; for the NaN of e4m3, in whose format NANP has no effect, the
manual does not say what a wider destination takes of it, and the model takes both: DESIGN CHOICE (log 69). -/
def fdecode (f : Fmt) (p : Nat) : FVal :=
  let frac := p % 2 ^ f.fb
  let ex := (p / 2 ^ f.fb) % 2 ^ f.eb
  let neg := (p / 2 ^ (f.fb + f.eb)) % 2 == 1
  if f.noInf then
    if ex == 2 ^ f.eb - 1 && frac == 2 ^ f.fb - 1 then .nan neg (frac * 2 ^ (52 - f.fb))
    else if ex == 0 then .fin neg frac (1 - (f.bias : Int) - f.fb)
    else .fin neg (frac + 2 ^ f.fb) ((ex : Int) - f.bias - f.fb)
  else if ex == 2 ^ f.eb - 1 then
    if frac == 0 then .inf neg else .nan neg (frac * 2 ^ (52 - f.fb))
  else if ex == 0 then .fin neg frac (1 - (f.bias : Int) - f.fb)
  else .fin neg (frac + 2 ^ f.fb) ((ex : Int) - f.bias - f.fb)

/-- The sign bit of a pattern. -/
def fsignBit (f : Fmt) (neg : Bool) : Nat := if neg then 2 ^ (f.fb + f.eb) else 0

/-- The infinity of a format (R155). -/
def finfPat (f : Fmt) (neg : Bool) : Nat := fsignBit f neg + (2 ^ f.eb - 1) * 2 ^ f.fb

/-- The largest finite magnitude of a format (R155 table). -/
def fmaxPat (f : Fmt) (neg : Bool) : Nat :=
  fsignBit f neg + (if f.noInf then 2 ^ (f.eb + f.fb) - 2 else (2 ^ f.eb - 1) * 2 ^ f.fb - 1)

/-- The positive canonical NaN of a format (R155 table). -/
def fcanonNan (f : Fmt) : Nat :=
  if f.noInf then 2 ^ (f.eb + f.fb) - 1 else (2 ^ f.eb - 1) * 2 ^ f.fb + 2 ^ (f.fb - 1)

def fisNan : FVal → Bool
  | .nan _ _ => true
  | _ => false

/-- The NaN written for NaN operands in the order A, B, C (R156): canonical, or under NANP the sign and payload of the first
NaN operand with its quiet bit set, an e4m3 source among them (log 69). With no NaN operand the operation was invalid and the NaN is canonical. -/
def fnanResult (f : Fmt) (nanp : Bool) (ops : List FVal) : Nat :=
  if nanp && !f.noInf then
    match ops.find? fisNan with
    | some (.nan neg payload) =>
      let frac := (payload / 2 ^ (52 - f.fb)) % 2 ^ f.fb
      let q := 2 ^ (f.fb - 1)
      fsignBit f neg + (2 ^ f.eb - 1) * 2 ^ f.fb + (if frac / q % 2 == 1 then frac else frac + q)
    | _ => fcanonNan f
  else fcanonNan f

/-- What a magnitude above the largest finite value becomes (R164, R166, R167). -/
def foverflow (f : Fmt) (env : FEnv) (neg : Bool) : Nat :=
  if f.small && env.sat then fmaxPat f neg
  else if f.noInf then fsignBit f neg + fcanonNan f
  else
    match env.rm with
    | .rne => finfPat f neg
    | .sr _ => finfPat f neg
    | .rtz => fmaxPat f neg
    | .rup => if neg then fmaxPat f neg else finfPat f neg
    | .rdn => if neg then finfPat f neg else fmaxPat f neg

/-- Whether a mode moves the kept mantissa up: `rem` of 2^sh is cut off, `sticky` says that more was (R164, R167). -/
def froundUp (rm : Rm) (neg odd : Bool) (rem sh : Nat) (sticky : Bool) : Bool :=
  let half := 2 ^ sh / 2
  match rm with
  | .rne => decide (rem > half) || (rem == half && sh != 0 && (sticky || odd))
  | .rtz => false
  | .rup => !neg && (rem != 0 || sticky)
  | .rdn => neg && (rem != 0 || sticky)
  | .sr rnd => decide (rem * 2 ^ 32 / 2 ^ sh + rnd ≥ 2 ^ 32)

/-- The pattern of an exact nonzero magnitude m * 2^e (plus less than one unit where `sticky`), rounded once (R164). -/
def froundMag (f : Fmt) (env : FEnv) (neg : Bool) (m : Nat) (e : Int) (sticky : Bool) : Nat :=
  if m = 0 then
    if sticky && froundUp env.rm neg false 0 1 true then fsignBit f neg + 1 else fsignBit f neg
  else
    let top : Int := (Nat.log2 m : Int) + e
    let q : Int := max (top - f.fb) (1 - (f.bias : Int) - f.fb)
    let sh := (q - e).toNat
    let kept := if q ≤ e then m * 2 ^ (e - q).toNat else m / 2 ^ sh
    let rem := if q ≤ e then 0 else m % 2 ^ sh
    let up := froundUp env.rm neg (kept % 2 == 1) rem sh sticky
    let kept' := if up then kept + 1 else kept
    let carry := kept' == 2 ^ (f.fb + 1)
    let mant := if carry then 2 ^ f.fb else kept'
    let q' := if carry then q + 1 else q
    if mant < 2 ^ f.fb then fsignBit f neg + mant
    else
      let biased : Int := q' + f.fb + f.bias
      let limit : Int := if f.noInf then 2 ^ f.eb else 2 ^ f.eb - 1
      let pat := biased.toNat * 2 ^ f.fb + (mant - 2 ^ f.fb)
      if biased ≥ limit || (f.noInf && pat == fcanonNan f) then foverflow f env neg
      else fsignBit f neg + pat

/-- FTZ on a result in f64, f32, f16 or bf16 (R165). -/
def fflush (f : Fmt) (ftz : Bool) (p : Nat) : Nat :=
  if ftz && !f.small && (p / 2 ^ f.fb) % 2 ^ f.eb == 0 then fsignBit f ((p / 2 ^ (f.fb + f.eb)) % 2 == 1) else p

/-- FTZ on a source in f64, f32, f16 or bf16 (R165). -/
def fin (f : Fmt) (ftz : Bool) (p : Nat) : FVal := fdecode f (fflush f ftz p)

/-- The pattern of a decoded value in a format, rounded once (R164 to R166); a NaN follows R156 with itself as operand. -/
def fencode (f : Fmt) (env : FEnv) (v : FVal) : Nat :=
  match v with
  | .nan neg p => fnanResult f env.nanp [.nan neg p]
  | .inf neg =>
    if f.noInf then (if env.sat then fmaxPat f neg else fsignBit f neg + fcanonNan f)
    else if f.small && env.sat then fmaxPat f neg else finfPat f neg
  | .fin neg m e => if m = 0 then fsignBit f neg else fflush f env.ftz (froundMag f env neg m e false)

/-- The exact signed mantissa of a finite value at exponent `e0`, which must not exceed its own. -/
def fscaled (e0 : Int) : FVal → Int
  | .fin neg m e => (if neg then -1 else 1) * ((m : Int) * 2 ^ (e - e0).toNat)
  | _ => 0

def fexp : FVal → Int
  | .fin _ m e => if m = 0 then 0 else e
  | _ => 0

def fneg : FVal → FVal
  | .nan n p => .nan n p
  | .inf n => .inf !n
  | .fin n m e => .fin (!n) m e

def fsign : FVal → Bool
  | .nan n _ => n
  | .inf n => n
  | .fin n _ _ => n

def fisZero : FVal → Bool
  | .fin _ m _ => m == 0
  | _ => false

def fisInf : FVal → Bool
  | .inf _ => true
  | _ => false

/-- An exact product; 0 times infinity is invalid and gives a NaN without payload. -/
def fmulExact (a b : FVal) : FVal :=
  match a, b with
  | .nan n p, _ => .nan n p
  | _, .nan n p => .nan n p
  | .inf n, .inf k => .inf (n != k)
  | .inf n, .fin k m _ => if m = 0 then .nan false 0 else .inf (n != k)
  | .fin k m _, .inf n => if m = 0 then .nan false 0 else .inf (n != k)
  | .fin n m e, .fin k l d => .fin (n != k) (m * l) (e + d)

/-- An exact sum of values (R172, R197): NaN if a term is NaN or two infinities differ; a zero sum takes the common sign of its
terms, or +0 (−0 under RDN) where they differ. -/
def fsumExact (rm : Rm) (ts : List FVal) : FVal :=
  match ts.find? fisNan with
  | some v => v
  | none =>
    match ts.filter fisInf with
    | i :: r => if r.all (fun x => fsign x == fsign i) then i else .nan false 0
    | [] =>
      let nz := ts.filter (fun x => !fisZero x)
      let e0 := nz.foldl (fun acc x => min acc (fexp x)) (match nz with | x :: _ => fexp x | [] => 0)
      let tot : Int := nz.foldl (fun acc x => acc + fscaled e0 x) 0
      if tot = 0 then
        let neg :=
          if ts.all fsign && !ts.isEmpty then true
          else if ts.all (fun x => !fsign x) then false
          else rm == .rdn
        .fin neg 0 0
      else .fin (decide (tot < 0)) tot.natAbs e0

/-- A value rounded to a format, with the NaN of R156 taken from the operands. -/
def fresult (f : Fmt) (env : FEnv) (ops : List FVal) (v : FVal) : Nat :=
  match v with
  | .nan _ _ => fnanResult f env.nanp ops
  | .inf neg => finfPat f neg
  | v => fencode f env v

/-- fadd (R197), rounded once. -/
def fadd (f : Fmt) (env : FEnv) (a b : Nat) : Nat :=
  let x := fin f env.ftz a
  let y := fin f env.ftz b
  fresult f env [x, y] (fsumExact env.rm [x, y])

/-- fsub (R197), rounded once. -/
def fsub (f : Fmt) (env : FEnv) (a b : Nat) : Nat :=
  let x := fin f env.ftz a
  let y := fin f env.ftz b
  fresult f env [x, y] (fsumExact env.rm [x, fneg y])

/-- fmul (R197), rounded once. -/
def fmul (f : Fmt) (env : FEnv) (a b : Nat) : Nat :=
  let x := fin f env.ftz a
  let y := fin f env.ftz b
  fresult f env [x, y] (fmulExact x y)

/-- ffma (R171, R197): a * b + c rounded once. -/
def ffma (f : Fmt) (env : FEnv) (a b c : Nat) : Nat :=
  let x := fin f env.ftz a
  let y := fin f env.ftz b
  let z := fin f env.ftz c
  fresult f env [x, y, z] (fsumExact env.rm [fmulExact x y, z])

/-- Exact comparison of two values that are no NaN: −1, 0 or 1; +0 equals −0. -/
def fcompare (a b : FVal) : Int :=
  let rank : FVal → Int
    | .inf neg => if neg then -1 else 1
    | _ => 0
  if rank a != rank b then (if rank a < rank b then -1 else 1)
  else
    match a, b with
    | .fin _ m e, .fin _ l d =>
      let e0 := min (if m = 0 then d else e) (if l = 0 then e else d)
      let x := fscaled e0 a
      let y := fscaled e0 b
      if x < y then -1 else if x = y then 0 else 1
    | _, _ => 0

/-- fmin and fmax (R198): the operand is returned after the input flush; −0 is below +0; one NaN gives the other operand. -/
def fminmax (isMax : Bool) (f : Fmt) (env : FEnv) (a b : Nat) : Nat :=
  let pa := fflush f env.ftz a
  let pb := fflush f env.ftz b
  let x := fdecode f pa
  let y := fdecode f pb
  if fisNan x && fisNan y then fnanResult f env.nanp [x, y]
  else if fisNan x then pb
  else if fisNan y then pa
  else
    let c := fcompare x y
    let aFirst := if c = 0 then (fsign x || !fsign y) else decide (c < 0)
    if aFirst != isMax then pa else pb

/-- The fcmp conditions (R195, R199): eq ne lt le gt ge ord uno. -/
def fcond (f : Fmt) (ftz : Bool) (cc : Nat) (a b : Nat) : Bool :=
  let x := fin f ftz a
  let y := fin f ftz b
  if fisNan x || fisNan y then cc == 1 || cc == 7
  else
    let c := fcompare x y
    match cc with
    | 0 => c == 0
    | 1 => c != 0
    | 2 => decide (c < 0)
    | 3 => decide (c ≤ 0)
    | 4 => decide (c > 0)
    | 5 => decide (c ≥ 0)
    | 6 => true
    | _ => false

/-- The class bit of a stored pattern (R200). -/
def fclassBit (f : Fmt) (p : Nat) : Nat :=
  let frac := p % 2 ^ f.fb
  let ex := (p / 2 ^ f.fb) % 2 ^ f.eb
  match fdecode f p with
  | .nan _ _ => if frac / 2 ^ (f.fb - 1) % 2 == 1 then 9 else 8
  | .inf neg => if neg then 0 else 7
  | .fin neg m _ =>
    if m = 0 then (if neg then 3 else 4)
    else if ex == 0 then (if neg then 2 else 5)
    else (if neg then 1 else 6)

/-- The integer nearest an exact magnitude under a mode; the sign is restored by the caller (R164). -/
def froundInt (rm : Rm) (neg : Bool) (m : Nat) (e : Int) : Nat :=
  if e ≥ 0 then m * 2 ^ e.toNat
  else
    let sh := (-e).toNat
    let kept := m / 2 ^ sh
    if froundUp rm neg (kept % 2 == 1) (m % 2 ^ sh) sh false then kept + 1 else kept

/-- frnd (R201): an integral value in the same format, with the sign of A on a zero result. -/
def frnd (f : Fmt) (env : FEnv) (a : Nat) : Nat :=
  match fin f env.ftz a with
  | .nan n p => fnanResult f env.nanp [.nan n p]
  | .inf neg => finfPat f neg
  | .fin neg m e =>
    let k := froundInt env.rm neg m e
    if k = 0 then fsignBit f neg else froundMag f env neg k 0 false

/-- The instruction modifier sat (R196): the result clamped to [+0, 1], NaN and −0 to +0. -/
def fclamp01 (f : Fmt) (p : Nat) : Nat :=
  match fdecode f p with
  | .nan _ _ => 0
  | v =>
    if fsign v || fisZero v then 0
    else if fcompare v (.fin false 1 0) > 0 then f.bias * 2 ^ f.fb else p

/-- The integer square root, bit by bit below 2^k. -/
def isqrt : Nat → Nat → Nat → Nat
  | 0, _, acc => acc
  | k + 1, n, acc => let t := acc + 2 ^ k; isqrt k n (if t * t ≤ n then t else acc)

/-- frcp (R202, R203), correctly rounded. -/
def frcp (f : Fmt) (env : FEnv) (a : Nat) : Nat :=
  match fin f env.ftz a with
  | .nan n p => fnanResult f env.nanp [.nan n p]
  | .inf neg => fsignBit f neg
  | .fin neg m e =>
    if m = 0 then finfPat f neg
    else
      let k := f.fb + 4 + Nat.log2 m
      fflush f env.ftz (froundMag f env neg (2 ^ k / m) (-(k : Int) - e) (2 ^ k % m != 0))

/-- fsqrt (R202, R203), correctly rounded. -/
def fsqrt (f : Fmt) (env : FEnv) (a : Nat) : Nat :=
  match fin f env.ftz a with
  | .nan n p => fnanResult f env.nanp [.nan n p]
  | .inf neg => if neg then fcanonNan f else finfPat f neg
  | .fin neg m e =>
    if m = 0 then fsignBit f neg
    else if neg then fcanonNan f
    else
      let m2 := if e % 2 = 0 then m else 2 * m
      let e2 := if e % 2 = 0 then e else e - 1
      let k := f.fb + 4
      let n := m2 * 2 ^ (2 * k)
      let s := isqrt (Nat.log2 n / 2 + 1) n 0
      fflush f env.ftz (froundMag f env false s (e2 / 2 - k) (s * s != n))

/-! ## Integers and conversion -/

/-- A w-bit pattern read as signed. -/
def toSigned (w p : Nat) : Int := if p % 2 ^ w < 2 ^ (w - 1) then (p % 2 ^ w : Nat) else (p % 2 ^ w : Nat) - (2 : Int) ^ w

/-- The low w bits of an integer. -/
def wrapInt (w : Nat) (x : Int) : Nat := (x % (2 : Int) ^ w).toNat

/-- An integer clamped to the range of a signed or unsigned w-bit type. -/
def clampInt (signed : Bool) (w : Nat) (x : Int) : Int :=
  if signed then max (-(2 : Int) ^ (w - 1)) (min ((2 : Int) ^ (w - 1) - 1) x)
  else max 0 (min ((2 : Int) ^ w - 1) x)

/-- A float value converted to an integer type (R206): saturating, NaN to 0. -/
def ftoInt (rm : Rm) (signed : Bool) (w : Nat) (v : FVal) : Nat :=
  match v with
  | .nan _ _ => 0
  | .inf neg => wrapInt w (clampInt signed w (if neg then -(2 : Int) ^ 70 else (2 : Int) ^ 70))
  | .fin neg m e =>
    let k : Int := froundInt rm neg m e
    wrapInt w (clampInt signed w (if neg then -k else k))

/-- An exact integer as a value. -/
def fofInt (x : Int) : FVal := .fin (decide (x < 0)) x.natAbs 0

/-- One step of the stochastic-rounding generator (R167). -/
def srStep (x : W32) : W32 :=
  let x := if x = 0 then 0x6A09E667#32 else x
  let x := x ^^^ (x <<< 13)
  let x := x ^^^ (x >>> 17)
  x ^^^ (x <<< 5)

/-- The seed of a lane at launch (R168). -/
def srSeed (taskid teamid grpid lane : Nat) : W32 :=
  let seed := BitVec.ofNat 32 taskid ^^^ (BitVec.ofNat 32 teamid).rotateLeft 11 ^^^ (BitVec.ofNat 32 grpid).rotateLeft 22
    ^^^ BitVec.ofNat 32 (0x9E3779B9 * (lane + 1))
  if seed = 0 then 0x6A09E667 else seed

/-! ## Pecks -/

/-- The value of a code of a peck type, before the scale (R159). -/
def peckCode (pt code : Nat) : FVal :=
  let neg := code ≥ 8
  let k := code % 8
  match pt with
  | 0 => if code < 8 then .fin false code 0 else .fin true (16 - code) 0
  | 1 => .fin neg (([0, 1, 2, 3, 4, 6, 8, 12] : List Nat).getD k 0) (-1)
  | 2 => if k = 0 then .fin neg 0 0 else .fin neg 1 ((k : Int) - 6)
  | _ => if k < 4 then .fin neg k 0 else .fin neg (4 * 2 ^ (k - 4)) 0

/-- The value of a code under a scale byte (R158): PEXP 63 marks a NaN block. -/
def peckValue (scale : Nat) (code : Nat) : FVal :=
  let ex := scale % 64
  if ex = 63 then .nan false (2 ^ 51)
  else
    match peckCode (scale / 64 % 4) code with
    | .fin neg m e => .fin neg m (e + ex - 32)
    | v => v

/-- The eight magnitudes of a sign-magnitude peck type, in units of 2^unit. -/
def peckMags (pt : Nat) : List Nat × Int :=
  match pt with
  | 1 => ([0, 1, 2, 3, 4, 6, 8, 12], -1)
  | 2 => ([0, 1, 2, 4, 8, 16, 32, 64], -5)
  | _ => ([0, 1, 2, 3, 4, 8, 16, 32], 0)

/-- The index of the magnitude that V / D rounds to among rising magnitudes (R208): ties to the even index; beyond the largest
the largest. -/
def quantMag (rm : Rm) (neg : Bool) (v d : Nat) : List Nat → Nat → Nat
  | [], i => i
  | [_], i => i
  | a :: b :: r, i =>
    if v ≥ b * d then quantMag rm neg v d (b :: r) (i + 1)
    else
      let num := v - a * d
      let den := (b - a) * d
      let up :=
        match rm with
        | .rne => decide (2 * num > den) || (2 * num == den && i % 2 == 1)
        | .rtz => false
        | .rup => !neg && num != 0
        | .rdn => neg && num != 0
        | .sr rnd => decide (num * 2 ^ 32 / den + rnd ≥ 2 ^ 32)
      if up then i + 1 else i

/-- quant of R208: the code of a value under a scale byte; 0 for a NaN and in a NaN block. -/
def quantCode (rm : Rm) (scale : Nat) (x : FVal) : Nat :=
  let ex := scale % 64
  let pt := scale / 64 % 4
  if ex = 63 then 0
  else
    match x with
    | .nan _ _ => 0
    | .inf neg => if pt = 0 then (if neg then 8 else 7) else (if neg then 15 else 7)
    | .fin neg m e =>
      if pt = 0 then
        let k := froundInt rm neg m (e - ((ex : Int) - 32))
        if neg then (if k ≥ 8 then 8 else (16 - k) % 16) else min k 7
      else
        let (mags, u) := peckMags pt
        let p := e - ((ex : Int) - 32) - u
        let v := if p ≥ 0 then m * 2 ^ p.toNat else m
        let d := if p ≥ 0 then 1 else 2 ^ (-p).toNat
        (if neg then 8 else 0) + quantMag rm neg v d mags 0

/-- maxcode of R210 for a peck type. -/
def peckMax (pt : Nat) : Nat :=
  match pt with
  | 0 => 7 | 1 => 6 | 2 => 2 | _ => 32

/-- The smallest E from 0 to 62 with M at most maxcode times 2^(E − 32), or 62 (R210). -/
def peckScale (pt : Nat) (v : FVal) : Nat :=
  ((List.range 63).find? fun (ex : Nat) => decide (fcompare v (.fin false (peckMax pt) (Int.ofNat ex - 32)) ≤ 0)).getD 62

end Sys2Proof.Machine
end

