-- ==== Sys2Proof/Machine/Ops.lean ====
section
/-!
DEFINITION. The named operations on registers, lanes, groups, logs and counters; taking a trap and returning from one
(15_traps.md R455 to R461).
-/

namespace Sys2Proof.Machine

/-! ## Tables of the state -/

def State.setGroup (s : State) (gid : Nat) (g : Group) : State := { s with groups := kput s.groups gid g }
def State.modGroup (s : State) (gid : Nat) (f : Group → Group) : State := { s with groups := kmap s.groups gid f }
def State.setTeam (s : State) (t : Nat) (tm : Team) : State := { s with teams := kput s.teams t tm }
def State.modTeam (s : State) (t : Nat) (f : Team → Team) : State := { s with teams := kmap s.teams t f }
def State.setOp (s : State) (k : Nat) (o : Op) : State := { s with ops := kput s.ops k o }
def State.delOp (s : State) (k : Nat) : State := { s with ops := kerase s.ops k }
/-- An operation enters under the next number; numbers rise in acceptance order. -/
def State.addOp (s : State) (o : Op) : State := { s with ops := kput s.ops s.nextOp o, nextOp := s.nextOp + 1 }

/-- Compute die of a core (R12), hub of a die (R13), pair of a core. -/
def dieOf (core : Nat) : Nat := core / 60
def hubOf (die : Nat) : Nat := die / 2
def pairOf (core : Nat) : Nat := core / 2

def State.die (s : State) (d : Nat) : DieRegs := kget {} s.dies d
def State.setDie (s : State) (d : Nat) (r : DieRegs) : State := { s with dies := kset {} s.dies d r }
def State.host (s : State) (h : Nat) : HostCore := kget {} s.hosts h
def State.setHost (s : State) (h : Nat) (c : HostCore) : State := { s with hosts := kset {} s.hosts h c }

/-! ## Registers of a group -/

/-- s0 reads as zero (R114). -/
def Group.getS (g : Group) (n : Nat) : W64 := if n = 0 then 0 else kget 0 g.scal n
/-- A write to s0 is discarded (R50). -/
def Group.setS (g : Group) (n : Nat) (v : W64) : Group := if n = 0 then g else { g with scal := kset 0 g.scal n v }

def Group.lane (g : Group) (l : Nat) : Lane := g.lanes.getD l { live := false }
def Group.modLane (g : Group) (l : Nat) (f : Lane → Lane) : Group := { g with lanes := g.lanes.modify l f }
/-- A change in each lane of a list. -/
def Group.modLanes (g : Group) (ls : List Nat) (f : Nat → Lane → Lane) : Group :=
  { g with lanes := g.lanes.mapIdx fun l ln => if ls.contains l then f l ln else ln }

def Lane.row (ln : Lane) (n : Nat) : W32 := kget 0 ln.rows n
def Lane.setRow (ln : Lane) (n : Nat) (v : W32) : Lane := { ln with rows := kset 0 ln.rows n v }
/-- The poison mark of a row, set or cleared (R472). -/
def Lane.setPoison (ln : Lane) (n : Nat) (b : Bool) : Lane :=
  { ln with poison := if b then (if ln.poison.contains n then ln.poison else ln.poison ++ [n]) else ln.poison.filter fun q => q != n }
/-- A row takes poison from a load (R474). -/
def Lane.loadPoison (ln : Lane) (n : Nat) : Lane := { ln.setPoison n true with upset := ln.upset.filter fun q => q != n }
/-- A row pair, low half in the even row (R44, R111). -/
def Lane.pair (ln : Lane) (n : Nat) : W64 := (ln.row (n + 1) ++ ln.row n : BitVec 64)
def Lane.setPair (ln : Lane) (n : Nat) (v : W64) : Lane :=
  (ln.setRow n (v.extractLsb' 0 32)).setRow (n + 1) (v.extractLsb' 32 32)

/-- f0 reads as 1 (R115). -/
def Lane.flag (ln : Lane) (k : Nat) : Bool := k == 0 || ln.flags.getLsbD k
/-- A write to f0 is discarded (R115). -/
def Lane.setFlag (ln : Lane) (k : Nat) (b : Bool) : Lane :=
  if k = 0 then ln
  else { ln with flags := if b then ln.flags ||| BitVec.ofNat 8 (2 ^ k) else ln.flags &&& ~~~ BitVec.ofNat 8 (2 ^ k) }

def Lane.off (ln : Lane) (k : Nat) : BitVec 12 := kget 0 ln.offs k
def Lane.setOff (ln : Lane) (k : Nat) (v : BitVec 12) : Lane := { ln with offs := kset 0 ln.offs k v }
/-- A nesting counter is written in both files (R467). -/
def Lane.setCnt (ln : Lane) (n : Nat) : Lane := { ln with cnt := n, dup := n }

def Group.index (g : Group) (k : Nat) : Index := kget {} g.ix k
def Group.setIndex (g : Group) (k : Nat) (x : Index) : Group := { g with ix := kset {} g.ix k x }
def Group.counter (g : Group) (k : Nat) : BitVec 16 := kget 0 g.ac k
def Group.setCounter (g : Group) (k : Nat) (v : BitVec 16) : Group := { g with ac := kset 0 g.ac k v }

/-- A lane is eligible when live and not parked (R86), active when also its counter is 0 (R85). -/
def Lane.eligible (ln : Lane) : Bool := ln.live && !ln.parked
def Lane.active (ln : Lane) : Bool := ln.eligible && ln.cnt == 0

/-- The lanes of a group that satisfy a condition, ascending. -/
def Group.lanesWhere (g : Group) (p : Lane → Bool) : List Nat := (List.range g.width).filter fun l => p (g.lane l)
def Group.eligibles (g : Group) : List Nat := g.lanesWhere Lane.eligible
def Group.actives (g : Group) : List Nat := g.lanesWhere Lane.active
def Group.lives (g : Group) : List Nat := g.lanesWhere fun ln => ln.live

/-- The guard in one lane (R34). -/
def guardHolds (gd : Guard) (ln : Lane) : Bool :=
  if gd.flag = 0 then !gd.inv else ln.flag gd.flag.toNat != gd.inv

/-- The participating lanes: active, with a true guard (R34). -/
def Group.parts (g : Group) (gd : Guard) : List Nat := g.lanesWhere fun ln => ln.active && guardHolds gd ln

/-- The lanes of a fault of the instruction word: every active lane, else every eligible lane (R58, R59, R87). -/
def Group.wordLanes (g : Group) : List Nat := if g.actives.isEmpty then g.eligibles else g.actives

/-- A mask with the bits of a lane list set. -/
def laneMask (ls : List Nat) : W64 := ls.foldl (fun m l => m ||| BitVec.ofNat 64 (2 ^ l)) 0

/-- Stall count of a STALL code (R53). -/
def stallCount (c : BitVec 4) : Nat :=
  match c.toNat with
  | 12 => 14 | 13 => 16 | 14 => 20 | 15 => 24 | n => n

/-- The fold of an instruction word into SIG, over bytes 8 to 11 of the word (R466). -/
def sigBit (x : W32) : W32 := (x >>> 1) ^^^ (if x.getLsbD 0 then 0x82F63B78 else 0)
def sigByte (x : W32) (b : Byte) : W32 :=
  sigBit (sigBit (sigBit (sigBit (sigBit (sigBit (sigBit (sigBit (x ^^^ b.setWidth 32))))))))
def sigFold (x : W32) (word : W32) : W32 :=
  sigByte (sigByte (sigByte (sigByte x (word.extractLsb' 0 8)) (word.extractLsb' 8 8)) (word.extractLsb' 16 8))
    (word.extractLsb' 24 8)

/-! ## Error logs, events, counters, alarm -/

/-- CLOCK of a die (R117): arithmetic clocks since cold reset, the dies within 16 counts of each other. -/
def State.dieClock (s : State) (d : Nat) : W64 := BitVec.ofNat 64 (s.clock + (Config.dieSkew d).val)

/-- Parts of a hub clock in which `Platform.hubT` counts: a multiple of every arithmetic rate of R18 in steps of 100 MHz. -/
def hubUnit : Nat := 1113840
/-- Hub clocks since cold reset (R17): 2.0 GHz beside the arithmetic clock's present rate (R18). -/
def State.hubClock (s : State) : Nat := s.plat.hubT / hubUnit
/-- The time of n arithmetic clocks in parts of a hub clock. -/
def State.hubParts (s : State) (n : Nat) : Nat := n * (20 * hubUnit / (s.plat.mhz / 100))

/-- A report on a channel of log `unit` (0 to 3 the dies, 4 and 5 the hubs): pending until the arbiter takes it (R476). -/
def State.report (s : State) (unit chan asid src value : Nat) : State :=
  let lg := kget {} s.logs unit
  let r : Report := { asid := asid, src := src, value := value }
  { s with logs := kput s.logs unit { lg with pend := kput lg.pend chan (kget [] lg.pend chan ++ [r]) } }

/-- A bit of EVPEND of a die is set (R465): 0 FAULT, 1 DROP, 2 ELOG, 3 TEAMF, 4 EXTENT, 5 HOSTREQ. -/
def State.setEvent (s : State) (d bit : Nat) : State :=
  let r := s.die d
  s.setDie d { r with evpend := r.evpend ||| BitVec.ofNat 64 (2 ^ bit) }

/-- Table key of counter n of a core or of a hub (R495). -/
def coreCtr (core n : Nat) : Nat := 8 * core + n
def hubCtr (hub n : Nat) : Nat := 2000 + 16 * hub + n

/-- One counter sees `n` events of a code caused by a tenant (R495, R496); a code without tenant counts only with FILT 0. -/
def Counter.see (c : Counter) (code : Nat) (asid : Option Nat) (n : Nat) : Counter :=
  let on := c.ctl.getLsbD 0 && (c.ctl.extractLsb' 8 8).toNat == code
  let pass := !c.ctl.getLsbD 2 || asid == some (c.ctl.extractLsb' 48 16).toNat
  if on && pass then { c with cnt := c.cnt + BitVec.ofNat 48 n } else c

/-- Events of a core or hub code reach the counters from `first` on (R496). -/
def State.countEv (s : State) (first num code : Nat) (asid : Option Nat) (n : Nat) : State :=
  { s with pmc := s.pmc.map fun e =>
      if first ≤ e.1 ∧ e.1 < first + num then (e.1, e.2.see code asid n) else e }
def State.countCore (s : State) (core code : Nat) (asid : Nat) (n : Nat := 1) : State :=
  s.countEv (coreCtr core 0) 8 code (some asid) n
def State.countHub (s : State) (hub code : Nat) (asid : Option Nat) (n : Nat := 1) : State :=
  s.countEv (hubCtr hub 0) 16 code asid n

/-- An alarm event is entered in the Xaush log with its source, tenant and CLOCK of die C0; at level 1 and above its action is
queued (R492 to R494). -/
def State.alarm (s : State) (source : Nat) (asid : Option Nat) : State :=
  let e : XEvent := { source := source, asid := asid, clock := s.dieClock 0 }
  let lvl := (s.xa.lvl.extractLsb' (2 * source) 2).toNat
  { s with xa := { s.xa with log := s.xa.log ++ [e], queue := if lvl = 0 then s.xa.queue else s.xa.queue ++ [(min lvl 2, e)] } }

/-- A PRIV trap counts toward alarm source 5: 16 of one ASID within 2^20 counts of CLOCK (R492). -/
def State.notePriv (s : State) (asid : Nat) : State :=
  let recent := s.xa.privs.filter fun e => e.1 != asid || decide (s.clock < e.2 + 2 ^ 20)
  let privs := recent ++ [(asid, s.clock)]
  if (privs.filter fun e => e.1 == asid).length ≥ 16 then
    ({ s with xa := { s.xa with privs := privs.filter fun e => e.1 != asid } }).alarm 5 (some asid)
  else { s with xa := { s.xa with privs := privs } }

/-! ## Traps -/

/-- The causes of R456 by name. -/
def cIllegal : Nat := 1
def cPriv : Nat := 2
def cIndex : Nat := 3
def cNest : Nat := 4
def cStall : Nat := 5
def cAlign : Nat := 6
def cAccess : Nat := 7
def cFormat : Nat := 8
def cPoison : Nat := 9
def cSig : Nat := 10
def cDmr : Nat := 11
def cSpill : Nat := 12
def cWlFull : Nat := 13
def cScratch : Nat := 14
def cRemote : Nat := 15
def cSys : Nat := 16
def cBkpt : Nat := 17
def cSecurity : Nat := 18

/-- A trap an instruction raises: the cause, the lanes of the handler's active set with their TVAL, and TPC. -/
structure Trap where
  cause : Nat
  lanes : List (Nat × W64)
  tpc   : W64
  deriving DecidableEq, Repr

/-- An unplaced team of a faulted task is never placed (R461); an image it holds is discarded. -/
def killUnplaced : TeamSlot → TeamSlot
  | .unplaced => .dead
  | .imaged _ => .dead
  | x => x

/-- A team is faulted (R461): its groups halt, unplaced teams of its task are never placed, channel 12 of the die's log takes
TASKID and TEAMID, and the die's TEAMF event is set. TEAM_RETIRE then ends its work and frees it. -/
def State.teamFault (s : State) (t : Nat) : State :=
  match klookup s.teams t with
  | none => s
  | some tm =>
    let s := s.setTeam t { tm with faulted := true, halted := true }
    let s := { s with pool := { s.pool with tasks := kmap s.pool.tasks tm.task fun k =>
      { k with faulted := true,
               slots := k.slots.map killUnplaced } } }
    let s := s.report (dieOf tm.core) 12 tm.asid tm.core ((tm.task % 2 ^ 32) * 2 ^ 16 + tm.teamid % 2 ^ 16)
    s.setEvent (dieOf tm.core) 3

/-- A trap in supervisor mode (R460): the group stops, the die's log takes channel 13 and the team is faulted; a supervisor
service group raises interrupt source 41 instead. -/
def State.doubleTrap (s : State) (gid : Nat) (g : Group) (asid : Nat) : State :=
  let s := s.report (dieOf g.core) 13 asid g.core (g.pc.toNat % 2 ^ 52)
  if g.service then
    { s.modGroup gid (fun g => { g with wait := .stopped }) with pool := { s.pool with irq41 := true } }
  else s.teamFault g.team

/-- The register part of trap entry (R455) for handler lanes `tr.lanes`. The manual gives pc no width: the sum that makes it wraps on 64 bits,
DESIGN CHOICE (log 77). -/
def Group.enterTrap (g : Group) (tr : Trap) (tvbase : W64) : Group :=
  let hs := tr.lanes.map (·.1)
  let el := g.eligibles
  { g with
    lanes := g.lanes.mapIdx fun l ln =>
      if el.contains l then
        let ln := { ln with tnest := ln.cnt, tsrst := ln.sr }
        match tr.lanes.lookup l with
        | some v => { ln.setCnt 0 with tcause := BitVec.ofNat 8 tr.cause, tval := v }
        | none => { ln with parked := true }
      else ln
    tfmode := g.fmode, fmode := 0
    tmask := laneMask hs, tpc := tr.tpc
    ractive := false, sup := true, pend := []
    pc := tvbase + BitVec.ofNat 64 (256 * tr.cause) }

/-- The group takes a trap (R455): a double trap in supervisor mode, a team fault where traps are disabled for the tenant,
else entry at TVBASE + 256 * code with every fixed-latency result written (R56). A lane with an open transaction that traps
is doomed with ILLEGAL first (R329). -/
def State.takeTrap (s : State) (gid : Nat) (tr : Trap) : State :=
  match klookup s.groups gid with
  | none => s
  | some g =>
    let asid := match klookup s.teams g.team with | some t => t.asid | none => 0
    let on := match klookup s.teams g.team with | some t => t.trapsOn | none => true
    let g := { g with lanes := g.lanes.mapIdx fun l ln =>
      if (tr.lanes.lookup l).isSome && ln.tx.isOpen && !ln.tx.doomed then
        { ln with tx := { ln.tx with doomed := true, first := 5, doomAt := 0 } } else ln }
    let s := s.setGroup gid g
    let s := if tr.cause = cPriv then s.notePriv asid else s
    if g.sup then s.doubleTrap gid g asid
    else if !on then s.teamFault g.team
    else s.setGroup gid (g.enterTrap tr (s.die (dieOf g.core)).tvbase)

/-- sret's register part (R458): every live lane takes its saved counter and generator back and is unparked. -/
def Group.leaveTrap (g : Group) : Group :=
  { g with
    lanes := g.lanes.map fun ln =>
      if ln.live then { ln.setCnt ln.tnest with sr := ln.tsrst, parked := false } else ln
    fmode := g.tfmode, sup := false, pc := g.tpc, rfHold := false }

/-- The return from a trap (R458): a TPC that is no multiple of 4 is a double trap with ALIGN. -/
def State.returnTrap (s : State) (gid : Nat) (g : Group) : State :=
  if g.tpc.extractLsb' 0 2 ≠ 0 then
    s.doubleTrap gid g (match klookup s.teams g.team with | some t => t.asid | none => 0)
  else s.setGroup gid g.leaveTrap

/-- The requests of an operation leave the slice queues (R500). -/
def State.dropReqs (s : State) (op : Nat) : State :=
  { s with mem := { s.mem with l2q := s.mem.l2q.filter fun e => e.2.op != op } }

end Sys2Proof.Machine
end

