-- ==== Sys2Proof/Machine/Memory.lean ====
section
/-!
DEFINITION. Global memory at its home (08_memory.md R252 to R254, R273, R274, R279 to R282; 16_tenancy.md R484 to R489;
10_transactions.md R336, R339, R341): storage, the region table, sectors in L2, encryption, poison, and the agents that an
access waits for or aborts.
-/

namespace Sys2Proof.Machine

/-- The canonical form of memory: addresses strictly rising, and no byte listed that equals what an unlisted address reads as, 0. -/
def Memory.wf (m : KMap Byte) : Bool := kcanon 0 m

/-! ## The map -/

/-- The window of a physical address (R252). -/
def windowOf (pa : Nat) : Nat := pa / 2 ^ 48 % 16
def offsetOf (pa : Nat) : Nat := pa % 2 ^ 48
def isDomain (pa : Nat) : Bool := decide (8 ≤ windowOf pa)
def isDevReg (pa : Nat) : Bool := windowOf pa == 6
def sectorOf (pa : Nat) : Nat := pa / 256
def l2LineOf (pa : Nat) : Nat := pa / 1024
def regionOf (pa : Nat) : Nat := pa / 2 ^ 21
/-- A 4-bit chunk of an address and a 2-bit chunk. -/
def chunk4 (pa k : Nat) : Nat := pa / 2 ^ k % 16
def chunk2 (pa k : Nat) : Nat := pa / 2 ^ k % 4

/-- Home quadrant (R252, R274): the window of a local page, Q1 for CXL, a fold for interleaved memory. -/
def quadrantOf (pa : Nat) : Nat :=
  match windowOf pa with
  | 4 => chunk2 pa 10 ^^^ chunk2 pa 18 ^^^ chunk2 pa 26
  | 5 => 1
  | w => w % 4

/-- The slice fold (R274). -/
def sliceOf (pa : Nat) : Nat :=
  16 * quadrantOf pa + (chunk4 pa 10 ^^^ chunk4 pa 14 ^^^ chunk4 pa 18 ^^^ chunk4 pa 22 ^^^ chunk4 pa 26 ^^^ chunk4 pa 30
    ^^^ chunk4 pa 34 ^^^ chunk4 pa 38)

def homeHub (pa : Nat) : Nat := quadrantOf pa / 2
/-- Number of a hub's error log. -/
def hubLog (hub : Nat) : Nat := 4 + hub

def State.ilsize (s : State) : Nat := (s.pkg.ilcfg.extractLsb' 0 7).toNat
def gib : Nat := 2 ^ 30

/-- The extent that holds a CXL address: of one that has been added and one that was released there before, the former (R278). -/
def State.extentOf (s : State) (pa : Nat) : Option Extent :=
  let here (e : Extent) : Bool := decide (e.base ≤ pa ∧ pa < e.base + e.size)
  match s.mem.extents.find? fun e => here e && decide (e.st < 2) with
  | some e => some e
  | none => s.mem.extents.find? here

/-- The reserved last part of an extent: 1/32 of it, rounded up to 2 MiB (R487). -/
def extentData (e : Extent) : Nat := e.size - (e.size / 32 + (2 ^ 21 - 1)) / 2 ^ 21 * 2 ^ 21

/-- Storage stands behind an address (R253, R254, R487). A released extent is no storage here; its reads are poison (R278). -/
def State.hasStorage (s : State) (pa : Nat) : Bool :=
  let off := offsetOf pa
  match windowOf pa with
  | 0 => decide (off < 96 * gib - s.ilsize * gib) || decide (256 * gib ≤ off ∧ off < 512 * gib)
  | 1 => decide (off < 96 * gib - s.ilsize * gib) || decide (256 * gib ≤ off ∧ off < 512 * gib)
  | 2 => decide (off < 96 * gib - s.ilsize * gib) || decide (256 * gib ≤ off ∧ off < 512 * gib)
  | 3 => decide (off < 96 * gib - s.ilsize * gib) || decide (256 * gib ≤ off ∧ off < 512 * gib)
  | 4 => decide (off < 4 * s.ilsize * gib)
  | 5 => match s.extentOf pa with | some e => decide (e.st < 2 ∧ pa < e.base + extentData e) | none => false
  | _ => false

/-- HBM4 storage of a local page (R253, R275). -/
def isHbm (pa : Nat) : Bool := decide (windowOf pa < 4 ∧ offsetOf pa < 96 * gib)

/-- An address of a released extent (R278). -/
def State.released (s : State) (pa : Nat) : Bool :=
  windowOf pa == 5 && (match s.extentOf pa with | some e => e.st == 2 | none => false)

/-! ## Agents -/

/-- Who accesses memory: a lane of a group, a host core, an agent on PCIe or CXL, or an engine of a core. -/
inductive Agent where
  | group (gid core asid : Nat)
  | host (h : Nat)
  | outside
  | engine (core asid : Nat)
  deriving DecidableEq, Repr

/-- The device side of R280. -/
def agentDevice : Agent → Bool
  | .group _ _ _ => true
  | .engine _ _ => true
  | _ => false
/-- The tenant an event is attributed to (R496). -/
def agentAsid : Agent → Nat
  | .group _ _ a => a
  | .engine _ a => a
  | _ => 0
def agentCore : Agent → Option Nat
  | .group _ c _ => some c
  | _ => none

/-! ## Encryption -/

def State.slot (s : State) (k : Nat) : KeySlot := kget {} s.xa.slots k
def State.regionEntry (s : State) (pa : Nat) : Region := kget {} s.mem.regions (regionOf pa)
def State.macTag (s : State) (sec : Nat) : MacTag := kget {} s.mem.tags sec

/-- The tag with which a writeback under a slot leaves a sector (R486, R487). -/
def State.tagFor (s : State) (sec slot : Nat) : MacTag :=
  let k := s.slot slot
  if k.kind = 2 then { key := k.key, ver := (s.regionEntry (sec * 256)).ver } else {}

/-- The authentication key that a key number stands for. -/
def State.authKey (s : State) (n : Nat) : BitVec 256 := (kget 0 s.xa.keys n).extractLsb' 256 256

/-- One byte of the counter-mode key stream of a sector written under a tag (R486). -/
def State.keyByte (s : State) (tag : MacTag) (pa : Nat) : Byte :=
  let dkey := (kget 0 s.xa.keys tag.key).extractLsb' 0 256
  let block : BitVec 128 := (BitVec.ofNat 48 (pa / 16) ++ tag.ver ++ 0#56 : BitVec 128)
  (aes256 dkey block).extractLsb' (8 * (pa % 16)) 8

/-- What a slot decrypts with (R486): its own key stream, or nothing where it holds no key. -/
def State.slotByte (s : State) (slot pa : Nat) : Byte := if (s.slot slot).kind = 2 then s.keyByte (s.tagFor (sectorOf pa) slot) pa else 0

/-- What a fill under a slot meets (R487, R488): a good MAC; clear access to a sector that is stored encrypted; a failed MAC; a good MAC under
the slot's authentication key of data that another data key encrypted. -/
inductive FillCheck where
  | ok | raw | mac | rekey
  deriving DecidableEq, Repr

/-- The tag that a sector has once a dirty copy of it is written back (R486). -/
def State.tagNow (s : State) (sec : Nat) : MacTag :=
  match klookup s.mem.l2 sec with
  | some e => if e.dirty then s.tagFor sec e.slot else s.macTag sec
  | none => s.macTag sec

def State.fillCheck (s : State) (sec slot : Nat) : FillCheck :=
  let tag := s.tagNow sec
  let want := s.tagFor sec slot
  if (s.slot slot).kind = 2 then
    if tag = want then .ok
    else if tag.key ≠ 0 ∧ tag.ver = want.ver ∧ s.authKey tag.key = s.authKey want.key then .rekey else .mac
  else if tag.key = 0 then .ok else .raw

/-! ## Sectors in L2 -/

/-- A dirty sector is written back under its slot and the region's current VER (R486). -/
def State.writeBack (s : State) (sec : Nat) : State :=
  match klookup s.mem.l2 sec with
  | some e =>
    if e.dirty then
      { s with mem := { s.mem with tags := kset {} s.mem.tags sec (s.tagFor sec e.slot), l2 := kput s.mem.l2 sec { e with dirty := false } } }
    else s
  | none => s

/-- A sector leaves L2, written back first where it is dirty. -/
def State.dropSector (s : State) (sec : Nat) : State :=
  let s := s.writeBack sec
  { s with mem := { s.mem with l2 := kerase s.mem.l2 sec } }

/-- Bytes that hold no stated value. -/
def State.openBytes (s : State) (tagNo n : Nat) : List Byte := (List.range n).map fun i => (Config.freeWord s.free (64 * tagNo + i)).setWidth 8

/-- What an access to a sector under a slot finds. -/
inductive Look where
  | ok | poison | mac
  deriving DecidableEq, Repr

/-- The check of an access without its effect: a hit needs the slot that brought the sector in (R488). -/
def State.look (s : State) (sec slot : Nat) : Look :=
  let hit := match klookup s.mem.l2 sec with | some e => e.slot == slot | none => false
  if !hit && s.fillCheck sec slot == .mac then .mac
  else if s.mem.poison.contains sec || s.released (sec * 256) then .poison else .ok

/-- A line leaves L2: a node peer's is dropped (R282). -/
def State.dropLine (s : State) (line : Nat) : State :=
  let s := ((List.range 4).map (4 * line + ·)).foldl (fun s q => s.dropSector q) s
  { s with mem := { s.mem with peer := s.mem.peer.filter fun e => e.1 / 4 != line } }

/-- Room for a sector's line in its set of 16 (R273), sectors of node peers among them (R282): where the set is full, another line of it
leaves; which one is left open. -/
def State.l2Room (s : State) (sec : Nat) : State :=
  let line := sec / 4
  let held := s.mem.l2.map (·.1 / 4) ++ s.mem.peer.map (·.1 / 4)
  let here := (held.filter fun x => x != line && sliceOf (x * 1024) == sliceOf (line * 1024)).dedup
  if held.contains line || here.length < 16 then s
  else
    let mates := here.filter fun x => Config.l2Set x == Config.l2Set line
    if mates.length < 16 then s
    else
      match mates[(Config.freeWord s.free line).toNat % mates.length]? with
      | some x => s.dropLine x
      | none => s

/-- The sector is brought in under a slot: another slot's copy is written back and dropped, a failed MAC installs nothing and is
reported to the alarm (R488). -/
def State.fillSector (s : State) (sec slot asid : Nat) : State :=
  let hub := homeHub (sec * 256)
  let s := s.countHub hub 0x20 (some asid)
  let hit := match klookup s.mem.l2 sec with | some e => e.slot == slot | none => false
  if hit then s
  else
    let s := ((s.dropSector sec).l2Room sec).countHub hub 0x21 (some asid)
    match s.fillCheck sec slot with
    | .mac => (s.countHub hub 0x27 (some asid)).alarm 0 (some asid)
    | .ok => { s with mem := { s.mem with l2 := kput s.mem.l2 sec { dirty := false, slot := slot } } }
    | _ => { s with mem := { s.mem with l2 := kput s.mem.l2 sec { dirty := false, slot := slot, raw := true } } }

/-- A byte at its home, as its sector's mapping shows it; all ones where there is no storage (R253). -/
def State.homeByte (s : State) (pa : Nat) : Byte :=
  if !s.hasStorage pa then 0xFF
  else
    let b := kget 0 s.mem.bytes pa
    match klookup s.mem.l2 (sectorOf pa) with
    | some e => if e.raw then b ^^^ s.keyByte (s.macTag (sectorOf pa)) pa ^^^ s.slotByte e.slot pa else b
    | none => b

def State.homeBytes (s : State) (pa : Nat) : Nat → List Byte
  | 0 => []
  | n + 1 => s.homeByte pa :: s.homeBytes (pa + 1) n

/-- A sector is made ready for a write under a slot: a copy read in clear takes the bytes it shows; where a partial write meets
a failed MAC, the bytes it does not write hold no stated value. -/
def State.ownSector (s : State) (sec slot : Nat) (whole : Bool) : State :=
  let pa := sec * 256
  let fresh : L2Sector := { dirty := true, slot := slot }
  match klookup s.mem.l2 sec with
  | some e =>
    if e.raw then
      { s with mem := { s.mem with bytes := ksetRun 0 s.mem.bytes pa (s.homeBytes pa 256), tags := kerase s.mem.tags sec,
                                   l2 := kput s.mem.l2 sec fresh } }
    else { s with mem := { s.mem with l2 := kput s.mem.l2 sec { e with dirty := true } } }
  | none =>
    let bytes := if whole then s.mem.bytes
      else ksetRun 0 s.mem.bytes pa ((List.range 256).map fun i => (Config.freeWord s.free (pa + i)).setWidth 8)
    { s with mem := { s.mem with bytes := bytes, l2 := kput s.mem.l2 sec fresh } }

/-- The list of replaced bytes with those of a write that is about to happen: kept only while a group is resident (R33). -/
def State.overwritten (s : State) (pa n : Nat) : List Overwrite :=
  if s.groups.isEmpty then [] else { stamp := s.free, pa := pa, old := s.homeBytes pa n } :: s.mem.was

/-- Bytes written at their home within one sector; discarded and logged where there is no storage (R253, R278). `whole` says
that the write covers the sector, which clears its poison (R474). -/
def State.homeWrite (s : State) (pa : Nat) (bs : List Byte) (slot asid : Nat) (whole : Bool) : State :=
  if !s.hasStorage pa then s.report (hubLog (homeHub pa)) 15 asid (sliceOf pa) pa
  else
    let sec := sectorOf pa
    let hub := homeHub pa
    let miss := if (klookup s.mem.l2 sec).isSome then 0 else 1
    let s := if whole then (((s.dropSector sec).countHub hub 0x20 (some asid)).countHub hub 0x21 (some asid) miss)
      else s.fillSector sec slot asid
    let s := (s.l2Room sec).ownSector sec slot whole
    { s with mem := { s.mem with bytes := ksetRun 0 s.mem.bytes pa bs, was := s.overwritten pa bs.length,
                                 poison := if whole then s.mem.poison.filter (fun q => q != sec) else s.mem.poison } }

/-- Sectors held in L2 that satisfy a condition. -/
def State.l2Where (s : State) (p : Nat → L2Sector → Bool) : List Nat := (s.mem.l2.filter fun e => p e.1 e.2).map (·.1)

/-! ## L1 and atomic ownership -/

/-- L1 lines of a core, or of every core, dropped where a condition on the 256-byte line holds (R239, R299). -/
def State.dropL1 (s : State) (p : Nat → Nat → Bool) : State :=
  { s with mem := { s.mem with l1 := s.mem.l1.filter fun x =>
      !(p x.core x.line) || (match klookup s.mem.atom x.line with | some a => a.owner == some x.core | none => false) } }

/-- A core's L1 line, which serves the mappings of the slot that brought it in (R488). -/
def State.l1Line (s : State) (core line slot : Nat) : Option L1Line :=
  s.mem.l1.find? fun x => x.core == core && x.line == line && x.slot == slot

/-- A store of a core updates its L1 line that holds the bytes (R290); one of the whole line clears its poison (R474). -/
def State.l1Store (s : State) (core pa : Nat) (bs : List Byte) : State :=
  { s with mem := { s.mem with l1 := s.mem.l1.map fun x =>
      if x.core == core && x.line == pa / 256 then
        { x with bytes := x.bytes.mapIdx fun i b =>
                   if pa % 256 ≤ i ∧ i < pa % 256 + bs.length then bs.getD (i - pa % 256) b else b
                 bad := x.bad && decide (bs.length < 256) }
      else x } }

/-- A request that is not the owner's revokes the atomic ownership of its line (R303); the owner drops the line. -/
def State.revoke (s : State) (pa : Nat) (core : Option Nat) (asid : Nat) : State :=
  let line := pa / 256
  match klookup s.mem.atom line with
  | some a =>
    match a.owner with
    | some c =>
      if core = some c then s
      else
        let s := s.countCore c 0x0B asid
        { s with mem := { s.mem with
            atom := kput s.mem.atom line { a with owner := none, revokes := s.hubClock :: a.revokes }
            l1 := s.mem.l1.filter fun x => !(x.core == c && x.line == line) } }
    | none => s
  | none => s

/-- A resident team uses a core's local SRAM (R219). -/
def Team.on (t : Team) (core : Nat) : Bool := t.core == core || (t.paired && pairOf t.core == pairOf core)

/-- Lines that a core's L1 holds (R215, R217): 512 KiB less the scratchpad in use and, while a resident team may use transactions, 32 KiB. -/
def State.l1Room (s : State) (core : Nat) : Nat :=
  let ts := (s.teams.filter fun e => e.2.on core).map (·.2)
  (2 ^ 19 - (ts.map (·.sbytes)).sum - (if ts.any (·.txok) then 2 ^ 15 else 0)) / 256

def State.l1Lines (s : State) (core : Nat) : List Nat := (s.mem.l1.filter fun x => x.core == core).map (·.line)

/-- A line leaves a core's L1; one that is held atomic-owned is revoked first (R216, R303). -/
def State.leaveL1 (s : State) (core asid line : Nat) : State :=
  let owned := match klookup s.mem.atom line with | some a => a.owner == some core | none => false
  let s := if owned then s.revoke (line * 256) none asid else s
  { s with mem := { s.mem with l1 := s.mem.l1.filter fun x => !(x.core == core && x.line == line) } }

/-- A line enters a core's L1; where the L1 is full another one leaves, which is left open (R215). -/
def State.l1Put (s : State) (asid : Nat) (x : L1Line) : State :=
  let ls := (s.l1Lines x.core).filter fun l => l != x.line
  let s :=
    if ls.length < s.l1Room x.core then s
    else match ls[(Config.freeWord s.free x.line).toNat % max ls.length 1]? with
      | some l => s.leaveL1 x.core asid l
      | none => s
  { s with mem := { s.mem with l1 := x :: s.mem.l1.filter fun y => !(y.core == x.core && y.line == x.line) } }

/-- A line is filled into a core's L1 from its home (R227). -/
def State.l1Fill (s : State) (core asid line slot : Nat) : State :=
  s.l1Put asid { core := core, line := line, slot := slot, bytes := s.homeBytes (line * 256) 256, bad := s.mem.poison.contains line }

/-- SRAM of a core leaves its L1 (R216, R217): the lines in it, which the manual does not name, and at least those beyond the room left. -/
def State.trimL1 (s : State) (core asid : Nat) : State :=
  let ls := s.l1Lines core
  if ls.isEmpty then s
  else
    let (out, stay) := ls.partition fun l => Config.freeBit s.free l
    (out ++ stay.drop (s.l1Room core)).foldl (fun s l => s.leaveL1 core asid l) s

/-! ## Ownership regions -/

/-- The access is by the side that does not own its region (R279, R280). -/
def State.needsTransfer (s : State) (device : Bool) (pa : Nat) : Bool :=
  let o := (s.regionEntry pa).owner
  decide (windowOf pa < 6) && (if device then o == 1 else o == 0)

/-- The atomic-owned lines of a region are revoked (R303). -/
def State.revokeRegion (s : State) (r asid : Nat) : State :=
  (s.mem.atom.filter fun e => e.2.owner.isSome && regionOf (e.1 * 256) == r).foldl (fun s e => s.revoke (e.1 * 256) none asid) s

/-- Every copy of a region leaves the caches, dirty sectors written back under the current VER (R280, R286). -/
def State.flushRegion (s : State) (r asid : Nat) : State :=
  let s := s.revokeRegion r asid
  let s := (s.l2Where fun sec _ => regionOf (sec * 256) == r).foldl (fun s sec => s.dropSector sec) s
  { s with mem := { s.mem with
      l1 := s.mem.l1.filter fun x => regionOf (x.line * 256) != r
      fcache := s.mem.fcache.filter fun x => regionOf (x.line * 256) != r } }

/-! ## Host transactions and line locks -/

/-- The line of a host core's private caches (R338). -/
def hostLine (pa : Nat) : Nat := pa / 64

/-- A host transaction's signature is hit (R339); some untouched lines alias. -/
def HostCore.hit (c : HostCore) (h line : Nat) (write : Bool) : Bool :=
  c.txOpen && (c.writes.contains line || (write && c.reads.contains line)
    || (Config.signatureAlias h line && !(c.writes.isEmpty && (c.reads.isEmpty || !write))))

/-- The host status word (R343). -/
def hostStatus (c : HostCore) : W64 :=
  BitVec.ofNat 64 (256 * c.code.toNat + (if c.txOpen then 16 else 0) + c.cause)

/-- x0 reads as zero and is never written. -/
def HostCore.setX (c : HostCore) (n : Nat) (v : W64) : HostCore := if n = 0 then c else { c with x := kset 0 c.x n v }
def HostCore.getX (c : HostCore) (n : Nat) : W64 := if n = 0 then 0 else kget 0 c.x n

/-- A host transaction aborts (R341): buffer and signatures dropped, registers restored, status to rd, resumption at the
handler. -/
def HostCore.abort (c : HostCore) (cause : Nat) (code : Byte) : HostCore :=
  let c1 : HostCore := { c with buf := [], reads := [], writes := [], txOpen := false, cause := cause,
                                code := if cause = 9 then code else c.code, x := c.savedX, f := c.savedF }
  { c1.setX c.txRd (hostStatus c1) with pc := c.handler }

/-- The 64-byte lines that n bytes at an address touch (R339). -/
def hostLines (pa n : Nat) : List Nat := (List.range ((pa + n - 1) / 64 + 1 - pa / 64)).map (pa / 64 + ·)

/-- A host transaction has touched a line of a region. -/
def HostCore.inRegion (c : HostCore) (r : Nat) : Bool := c.txOpen && (c.reads ++ c.writes).any fun l => regionOf (l * 64) == r

/-- A transfer (R280): write back and invalidate, then flip OWNER. It is an access to every line of the region that a host transaction
has touched (R339). -/
def State.transfer (s : State) (r asid : Nat) : State :=
  let s := s.flushRegion r asid
  let e := kget {} s.mem.regions r
  let s : State := { s with mem := { s.mem with regions := kset {} s.mem.regions r { e with owner := if e.owner = 0 then 1 else 0 } }
                            hosts := s.hosts.map fun h => if h.2.waitRd.isNone && h.2.inRegion r then (h.1, h.2.abort 1 0) else h }
  s.countHub (homeHub (r * 2 ^ 21)) 0x24 (some asid)

/-- A conflicting access of n bytes aborts every host transaction it hits, the host's own excepted (R339). A transaction that holds a
ticket no longer aborts (R341). A store reservation of another host core ends with a write of its bytes. -/
def State.abortHosts (s : State) (who : Agent) (pa n : Nat) (write : Bool) : State :=
  { s with hosts := s.hosts.map fun e =>
      if who = .host e.1 then e
      else
        let c : HostCore := { e.2 with resv := e.2.resv.filter fun x => !(write && decide (x.1 < pa + n ∧ pa < x.1 + x.2)) }
        (e.1, if c.waitRd.isNone && (hostLines pa n).any (fun l => c.hit e.1 l write) then c.abort 1 0 else c) }

/-- A line lock of the irrevocable lanes excludes the access (R336). -/
def State.lockExcludes (s : State) (who : Agent) (pa : Nat) (write : Bool) : Bool :=
  (match s.tx.lock, who with
   | some g, .group gid _ _ => g != gid
   | some _, _ => true
   | none, _ => false)
    && s.tx.locks.any fun k => k.line == l2LineOf pa && (k.write || write)

/-- Accesses to a slice whose request queue is full wait (R273). -/
def State.sliceFull (s : State) (pa : Nat) : Bool :=
  decide (32 ≤ s.mem.l2q.length) && decide (32 ≤ (s.mem.l2q.filter fun e => e.2.slice == sliceOf pa && !e.2.waiting).length)

/-- The access of n bytes within one L2 line is excluded: by a line lock, or by a host commit that holds a ticket and has not been
applied, at its lines or in a region that would be transferred (R336, R341). -/
def State.accessWaits (s : State) (who : Agent) (pa n : Nat) (write : Bool) : Bool :=
  s.lockExcludes who pa write
    || s.hosts.any fun e => who != .host e.1 && e.2.waitRd.isSome &&
        ((hostLines pa n).any (fun l => e.2.hit e.1 l write)
          || (s.needsTransfer (agentDevice who) pa && e.2.inRegion (regionOf pa)))

/-- No line lock and no host commit excludes anything. -/
def State.openHomes (s : State) : Bool := s.tx.locks.isEmpty && s.hosts.all fun e => e.2.waitRd.isNone

/-- Whether an access to a run of bytes waits, line by line. -/
def State.runWaits (s : State) (who : Agent) (pa n : Nat) (write : Bool) : Bool :=
  !s.openHomes && (List.range ((pa + n - 1) / 256 + 1 - pa / 256)).any fun k => s.accessWaits who ((pa / 256 + k) * 256) 256 write

/-- A run of bytes reaches a slice whose queue is full (R273). -/
def State.runFull (s : State) (pa n : Nat) : Bool :=
  decide (32 ≤ s.mem.l2q.length) &&
    (List.range ((pa + n - 1) / 256 + 1 - pa / 256)).any fun k => s.sliceFull ((pa / 256 + k) * 256)

/-- What every access does at the home before its bytes move: ownership transfer, host conflicts, revocation. -/
def State.touch (s : State) (who : Agent) (pa n : Nat) (write : Bool) : State :=
  let s := if s.needsTransfer (agentDevice who) pa then s.transfer (regionOf pa) (agentAsid who) else s
  (s.abortHosts who pa n write).revoke pa (agentCore who) (agentAsid who)

/-- An access arrives at its home: what every access does there, and for a read the fill, or the report of a missing storage (R253). -/
def State.arrive (s : State) (who : Agent) (pa n slot : Nat) (write : Bool) : State :=
  let s := s.touch who pa n write
  if write then s
  else if s.hasStorage pa then s.fillSector (sectorOf pa) slot (agentAsid who)
  else s.report (hubLog (homeHub pa)) 15 (agentAsid who) (sliceOf pa) pa

/-- A read of bytes within one sector at their home. -/
def State.readAt (s : State) (who : Agent) (pa n slot : Nat) : State × List Byte :=
  let s := s.arrive who pa n slot false
  (s, s.homeBytes pa n)

/-- A write of bytes within one sector at their home; a lane's store also updates its core's L1 line (R290). -/
def State.writeAt (s : State) (who : Agent) (pa : Nat) (bs : List Byte) (slot : Nat) (whole : Bool) : State :=
  let s := (s.arrive who pa bs.length slot true).homeWrite pa bs slot (agentAsid who) whole
  match agentCore who with
  | some c => s.l1Store c pa bs
  | none => s

/-- Bytes of a run that may cross sectors, sector by sector; `fuel` bounds the sectors. -/
def State.readSpan (s : State) (who : Agent) (slot : Nat) : Nat → Nat → Nat → State × List Byte
  | 0, _, _ => (s, [])
  | fuel + 1, pa, n =>
    if n = 0 then (s, [])
    else
      let k := min n (256 - pa % 256)
      let (s1, b) := s.readAt who pa k slot
      let (s2, r) := s1.readSpan who slot fuel (pa + k) (n - k)
      (s2, b ++ r)

def State.readRun (s : State) (who : Agent) (pa slot n : Nat) : State × List Byte := s.readSpan who slot (n / 256 + 2) pa n

/-- Bytes written to a run that may cross sectors; a sector written whole loses its poison (R474). -/
def State.writeSpan (s : State) (who : Agent) (slot : Nat) : Nat → Nat → List Byte → State
  | 0, _, _ => s
  | fuel + 1, pa, bs =>
    if bs.isEmpty then s
    else
      let k := min bs.length (256 - pa % 256)
      (s.writeAt who pa (bs.take k) slot (k == 256)).writeSpan who slot fuel (pa + k) (bs.drop k)

def State.writeRun (s : State) (who : Agent) (slot pa : Nat) (bs : List Byte) : State :=
  s.writeSpan who slot (bs.length / 256 + 2) pa bs

end Sys2Proof.Machine
end

