-- ==== Sys2Proof/Machine/Pool.lean ====
section
/-!
DEFINITION. The ready pool (14_time.md R433 to R443): task records, submission and refusal, readiness, the placement test of
R446, and what a finished task does.
-/

namespace Sys2Proof.Machine

/-! ## Memory of the pool -/

/-- The agent of the pool's own accesses. -/
def poolAgent : Agent := .engine 0 0

/-- An access of the pool waits for an exclusion (R336, R341), or for a slice whose queue is full (R273). -/
def State.poolWaits (s : State) (rs : List (Nat × Nat)) (write : Bool) : Bool :=
  rs.any fun r => s.runWaits poolAgent r.1 r.2 write || s.runFull r.1 r.2

/-- The bitmap at TRAPEN, which a submission reads (R436, R461), is excluded. -/
def State.trapsWait (s : State) : Bool := s.poolWaits [((s.pkg.trapen.extractLsb' 13 39).toNat * 2 ^ 13, 8192)] false

/-- What reads of the pool do at the home (R253, R280, R303, R339). -/
def State.poolReads (s : State) (rs : List (Nat × Nat)) : State := rs.foldl (fun s r => (s.readRun poolAgent r.1 0 r.2).1) s

/-! ## Records -/

/-- Bits [hi:lo] of a number. -/
def bitsOf (n hi lo : Nat) : Nat := n / 2 ^ lo % 2 ^ (hi + 1 - lo)

/-- A footprint word of a task record (R434). -/
def footprintOf (n : Nat) : Footprint :=
  { v := bitsOf n 63 63 == 1, w := bitsOf n 62 62 == 1, size := bitsOf n 61 42, base := bitsOf n 41 0 }

/-- The fields of the 1,024 bits of a record (R433). -/
def recordOf (n : Nat) : Record :=
  { entry := BitVec.ofNat 64 (bitsOf n 63 0), arg := BitVec.ofNat 64 (bitsOf n 127 64), locbase := BitVec.ofNat 64 (bitsOf n 191 128)
    locsize := bitsOf n 223 192, teams := bitsOf n 271 256, groups := bitsOf n 279 272
    width := (match bitsOf n 281 280 with | 0 => 16 | 1 => 32 | 2 => 64 | _ => 0)
    paired := bitsOf n 282 282 == 1, cores := bitsOf n 283 283 == 1, txok := bitsOf n 284 284 == 1
    rows := bitsOf n 299 288, scratch := bitsOf n 311 304, tun := bitsOf n 318 312, prio := bitsOf n 321 320
    host := bitsOf n 322 322 == 1, aff := bitsOf n 327 324, asid := bitsOf n 343 328, key := bitsOf n 355 344
    preds := bitsOf n 375 360
    succ := (List.range (min (bitsOf n 379 376) 8)).map fun k => bitsOf n (415 + 32 * k) (384 + 32 * k)
    fps := (List.range 4).map fun k => footprintOf (bitsOf n (703 + 64 * k) (640 + 64 * k)) }

/-- Largest row counts of R108 with traps disabled and enabled. -/
def rowLimit (width : Nat) (traps : Bool) : Nat := 32768 / max width 1 - (if traps then 32 else 0)

/-- A reserved bit of a record is set (R433). -/
def recordRsv (n : Nat) : Bool :=
  [(1023, 896), (383, 380), (359, 356), (323, 323), (319, 319), (303, 300), (287, 285)].any fun f => bitsOf n f.1 f.2 != 0

/-- MALFORMED of R436; a host task must satisfy R435 instead of the shape limits. -/
def malformedRecord (n : Nat) : Bool :=
  let r := recordOf n
  recordRsv n || decide (bitsOf n 379 376 > 8) || r.entry.toNat % 4 != 0 || r.locsize % 16 != 0
    || (r.locsize != 0 && r.locbase.toNat % 2 ^ 14 != 0) || r.fps.any (fun f => f.v && f.size == 0)
    || (if r.host then r.teams != 1 || bitsOf n 318 272 != 0 || r.locbase != 0 || r.locsize != 0
        else r.width == 0 || r.groups == 0 || decide (r.groups > 32) || r.teams == 0 || r.rows == 0 || r.rows % 16 != 0
          || decide (r.rows > rowLimit r.width false) || decide (r.scratch > 112) || decide (r.tun > 64))

/-! ## The placement test -/

/-- Traps are enabled for an ASID (R461): its bit of the bitmap at TRAPEN. -/
def State.trapsAt (s : State) (asid : Nat) : Nat := (s.pkg.trapen.extractLsb' 13 39).toNat * 2 ^ 13 + asid / 8
def State.trapsFor (s : State) (asid : Nat) : Bool := (s.homeByte (s.trapsAt asid)).getLsbD (asid % 8)

/-- Row-slots of a group (R75). -/
def rowSlots (rows width : Nat) (traps : Bool) : Nat := rows * width / 32 + (if traps then width else 0)

/-- What is in use on a core: groups and row-slots by quarter, scratchpad in 4 KiB units, tun slots, ASIDs of resident teams. -/
structure CoreUse where
  quarters : List (Nat × Nat)
  scratch  : Nat
  tun      : Nat
  asids    : List Nat
  deriving DecidableEq, Repr

/-- An empty core; the service group counts as a team of ASID 0 on core 60n (R505). -/
def emptyUse (core : Nat) : CoreUse :=
  { quarters := [(0, 0), (0, 0), (0, 0), (0, 0)], scratch := 0, tun := 0, asids := if core % 60 = 0 then [0] else [] }

/-- The use of a core. -/
def State.useOf (s : State) (core : Nat) : CoreUse :=
  let gs := (s.groups.map (·.2)).filter fun g => g.core == core
  let ts := (s.teams.map (·.2)).filter fun t => t.on core
  let traps (g : Group) : Bool := match klookup s.teams g.team with | some t => t.trapsOn | none => g.service
  { quarters := (List.range 4).map fun q =>
      let hs := gs.filter fun g => g.quarter == q
      (hs.length, (hs.map fun g => rowSlots g.nrows g.width (traps g)).sum)
    scratch := (ts.map fun t => t.sbytes / 4096).sum, tun := (ts.map fun t => t.tun).sum
    asids := (emptyUse core).asids ++ ts.map (·.asid) }

/-- The quarter with the most free row-slots, the lower-numbered on a tie (R76). -/
def firstQuarter (qs : List (Nat × Nat)) : Nat :=
  let used (q : Nat) : Nat := (qs.getD q (0, 0)).2
  (List.range 4).foldl (fun b q => if used q < used b then q else b) 0

/-- The quarters after one group more is placed on quarter q. -/
def addGroup (qs : List (Nat × Nat)) (q slots : Nat) : List (Nat × Nat) := qs.modify q fun e => (e.1 + 1, e.2 + slots)

/-- The quarters of n groups placed in rotation from q0 (R76). -/
def rotation (qs : List (Nat × Nat)) (q0 n slots : Nat) : List (Nat × Nat) :=
  (List.range n).foldl (fun qs g => addGroup qs ((q0 + g) % 4) slots) qs

/-- A core accepts one team of a record: groups (R75, R76), scratchpad (R215), tun slots (R348). -/
def acceptUse (u : CoreUse) (r : Record) (traps : Bool) : Option CoreUse :=
  let qs := rotation u.quarters (firstQuarter u.quarters) r.groups (rowSlots r.rows r.width traps)
  if qs.all (fun e => decide (e.1 ≤ 8 ∧ e.2 ≤ 1024)) && decide (u.scratch + r.scratch ≤ 112 ∧ u.tun + r.tun ≤ 64) then
    some { quarters := qs, scratch := u.scratch + r.scratch, tun := u.tun + r.tun, asids := r.asid :: u.asids }
  else none

/-- AFF allows a core's quadrant (R433). -/
def affAllows (r : Record) (core : Nat) : Bool := r.aff == 0 || r.aff / 2 ^ dieOf core % 2 == 1

/-- The cores of a team at a place: one core, or both of a pair. -/
def placeCores (paired : Bool) (core : Nat) : List Nat := if paired then [2 * pairOf core, 2 * pairOf core + 1] else [core]

/-- A team fits at a place, given the use of every core: the new use. -/
def tryPlace (use : Nat → CoreUse) (plan : KMap CoreUse) (r : Record) (traps : Bool) (core : Nat) : Option (KMap CoreUse) :=
  let at' (c : Nat) : CoreUse := kget (use c) plan c
  let tenantOk := (at' (2 * pairOf core)).asids.all (· == r.asid) && (at' (2 * pairOf core + 1)).asids.all (· == r.asid)
  if !affAllows r core || !tenantOk then none
  else (placeCores r.paired core).foldl (fun p c =>
      match p with
      | some p => (acceptUse (at' c) r traps).map fun u => kput p c u
      | none => none) (some plan)

/-- The lowest-numbered place of one team more (R446). -/
def nextPlace (use : Nat → CoreUse) (plan : KMap CoreUse) (r : Record) (traps : Bool) : Option (Nat × KMap CoreUse) :=
  let cores := if r.paired then (List.range 120).map (2 * ·) else List.range 240
  cores.findSome? fun c => (tryPlace use plan r traps c).map fun p => (c, p)

/-- Places for n teams at once (R84, R445). -/
def planTeams (use : Nat → CoreUse) (r : Record) (traps : Bool) : Nat → KMap CoreUse → Option (List Nat)
  | 0, _ => some []
  | n + 1, plan =>
    match nextPlace use plan r traps with
    | some (c, p) => (planTeams use r traps n p).map (c :: ·)
    | none => none

/-- SHAPE of R436. -/
def State.badShape (s : State) (r : Record) : Bool :=
  let traps := s.trapsFor r.asid
  !r.host && ((traps && decide (r.rows > rowLimit r.width true))
    || (planTeams emptyUse r traps (if r.cores then r.teams else 1) []).isNone)

/-! ## Submission -/

/-- Two footprints conflict (R434). -/
def fpConflict (a b : Footprint) : Bool :=
  a.v && b.v && (a.w || b.w) && decide (a.base < b.base + b.size ∧ b.base < a.base + a.size)

/-- A task is ready (R441). -/
def State.taskReady (s : State) (id : Nat) : Bool :=
  match klookup s.pool.tasks id with
  | some k =>
    k.preds == 0 && !(s.pool.tasks.any fun e =>
      e.1 != id && decide (e.2.seq < k.seq) && e.2.sub == k.sub && k.record.fps.any fun f => e.2.record.fps.any fun f' => fpConflict f f')
  | none => false

/-- Tasks that have become ready enter their level (R445); `order` 0 stands for a task that has not. -/
def State.noteReady (s : State) : State :=
  s.pool.tasks.foldl (fun s e =>
    if e.2.order = 0 && s.taskReady e.1 then
      let n := s.pool.seq + 1
      { s with pool := { s.pool with seq := n, tasks := kmap s.pool.tasks e.1 fun k => { k with order := n, since := s.clock } } }
    else s) s

/-- The tenant is contained by the alarm, or an erase is in force (R493, R494). -/
def State.contained (s : State) (asid : Nat) : Bool :=
  asid != 0 && (s.xa.erased || s.xa.contained.contains asid || (s.xa.containAll && !s.xa.released.contains asid))

/-- DENIED of R436; `user` is the ASID of a spawn from user mode. -/
def State.submitDenied (s : State) (who : Submitter) (user : Option Nat) (r : Record) : Bool :=
  (r.prio == 0 && (user.isSome || (who == .mailbox && decide (4 ≤ s.xa.stage))))
    || (match user with | some a => r.asid != a | none => false)
    || (r.asid != 0 && !s.xa.kprov) || s.contained r.asid

/-- The lowest TASKID from `n` on that no task holds; `fuel` bounds the search by the pool's size. -/
def freeTaskId (tasks : KMap Task) : Nat → Nat → Nat
  | 0, n => n
  | fuel + 1, n => if (klookup tasks n).isSome then freeTaskId tasks fuel (n % (2 ^ 32 - 1) + 1) else n

/-- Submission of a record (R436, R437): the code and the TASKID. -/
def State.submit (s : State) (who : Submitter) (user : Option Nat) (recAddr : Nat) (bytes : List Byte) : State × Nat × Nat :=
  let n := leNat bytes
  let r := recordOf n
  if malformedRecord n then (s, 2, 0)
  else
  let s := s.poolReads [(s.trapsAt r.asid, 1)]
  if s.submitDenied who user r then (s, 4, 0)
  else if s.badShape r then (s, 3, 0)
  else if s.pool.tasks.length ≥ 4096 then (s, 1, 0)
  else
    let id := freeTaskId s.pool.tasks (s.pool.tasks.length + 1) s.pool.nextId
    let k : Task := { record := r, recAddr := recAddr, sub := who, seq := s.pool.seq + 1, preds := r.preds, level := r.prio,
                      since := s.clock, order := 0, slots := List.replicate r.teams .unplaced }
    let p := { s.pool with tasks := kput s.pool.tasks id k, nextId := id % (2 ^ 32 - 1) + 1, seq := s.pool.seq + 1 }
    ({ s with pool := p }.noteReady, 0, id)

/-! ## Finishing -/

/-- A successor's count falls by one; one that is absent or at 0 is logged at hub H0 (R442). -/
def State.lowerPreds (s : State) (asid id : Nat) : State :=
  match klookup s.pool.tasks id with
  | some k =>
    if k.preds = 0 then s.report (hubLog 0) 15 asid 0 id
    else { s with pool := { s.pool with tasks := kput s.pool.tasks id { k with preds := k.preds - 1 } } }.noteReady
  | none => s.report (hubLog 0) 15 asid 0 id

/-- A task finishes (R442): its successors' counts, unless it was faulted (R461), and its entry is freed. -/
def State.finishTask (s : State) (id : Nat) : State :=
  match klookup s.pool.tasks id with
  | some k =>
    let s := if k.faulted then s else k.record.succ.foldl (fun s x => s.lowerPreds k.record.asid x) s
    { s with pool := { s.pool with tasks := kerase s.pool.tasks id } }.noteReady
  | none => s

end Sys2Proof.Machine
end

