-- ==== Sys2Proof/Machine/Devices.lean ====
section
/-!
DEFINITION. The registers of the device-register window (08_memory.md R252): HTDONE (14_time.md R444), Xaush (16_tenancy.md R490 to
R493), the event counters (R495) and the capability list (R497).
-/

namespace Sys2Proof.Machine

/-- A register of the window, named by the address of its 8-byte word. -/
inductive DevReg where
  | none | htdone | caps (off : Nat) | ctl (k : Nat) | count (k : Nat)
  | kcmd | kstat | karg | kprov | almcfg | almrel
  deriving DecidableEq, Repr

/-- A counter word of a core or hub block (R495). -/
def counterReg (n off : Nat) (key : Nat → Nat) : DevReg :=
  if off / 16 < n then (if off % 16 = 0 then .ctl (key (off / 16)) else .count (key (off / 16))) else .none

/-- The register at an offset of the window that is a multiple of 8. -/
def devRegAt (off : Nat) : DevReg :=
  if off = 0x1000 then .htdone
  else if 0x20000 ≤ off ∧ off < 0x20090 then .caps (off - 0x20000)
  else if 0x100000 ≤ off ∧ off < 0x100000 + 0x100 * 240 then
    counterReg 8 ((off - 0x100000) % 0x100) (coreCtr ((off - 0x100000) / 0x100))
  else if 0x120000 ≤ off ∧ off < 0x120200 then
    counterReg 16 ((off - 0x120000) % 0x100) (hubCtr ((off - 0x120000) / 0x100))
  else if off = 0x300000 then .kcmd
  else if off = 0x300008 then .kstat
  else if off = 0x300010 then .karg
  else if off = 0x300018 then .kprov
  else if off = 0x300020 then .almcfg
  else if off = 0x300028 then .almrel
  else .none

/-! ## The capability list -/

/-- Entries of R497: ID and body. -/
def capsEntries : List (Nat × W64) :=
  [(0x01, 0x0000003000F00002), (0x02, 0x1000), (0x10, 0x4003), (0x11, 0xF), (0x12, 1), (0x20, 0x0000003001002020), (0x30, 0x101),
   (0x31, 0x12), (0x40, 0x03C00412)]

/-- The word at an offset of the list (R497): header with VER 1 and LEN 1, then the body; all ones outside (R498). -/
def capsWord (off : Nat) : W64 :=
  if off % 8 ≠ 0 ∨ off ≥ 0x90 then 0xFFFFFFFFFFFFFFFF
  else
    let e := capsEntries.getD (off / 16) (0, 0)
    let next := if off / 16 = 8 then 0 else off / 16 * 16 + 16
    if off % 16 = 8 then e.2 else BitVec.ofNat 64 (next * 2 ^ 32 + 2 ^ 24 + 2 ^ 16 + e.1)

/-! ## Xaush -/

/-- KARG holds SHARED, OWNER and SLOT; its reserved bits read zero (R490). -/
def kargMask : W64 := 0x1FFFF0FFF
def kargSlot (v : W64) : Nat := (v.extractLsb' 0 12).toNat

/-- KCMD (R490): refused with ERR for slot 0, OP 3 and a LOAD under an erase; else the command is in progress. -/
def State.kcommand (s : State) (op : Nat) (v : W64) : State :=
  if s.xa.kbusy.isSome then s
  else if kargSlot s.xa.karg = 0 ∨ op = 3 ∨ (op = 2 ∧ (s.xa.erased ∨ v.extractLsb' 52 12 ≠ 0)) then
    { s with xa := { s.xa with kerr := true } }
  else
    let k : KOp := match op with | 0 => .clear | 1 => .plain | _ => .load ((v.extractLsb' 12 40).toNat * 2 ^ 12)
    { s with xa := { s.xa with kerr := false, kbusy := some (k, s.xa.karg) } }

/-- KPROV (R491). -/
def State.writeKprov (s : State) (v : W64) : State :=
  if v.getLsbD 0 && s.xa.kbusy.isNone && !s.xa.erased then { s with xa := { s.xa with kprov := true } } else s

/-- Level of an alarm source in LVL (R492). -/
def lvlField (v : BitVec 12) (k : Nat) : Nat := (v.extractLsb' (2 * k) 2).toNat

/-- ALMCFG (R492): while LOCK is set each level only rises. -/
def State.writeAlmcfg (s : State) (v : W64) : State :=
  let new := v.extractLsb' 0 12
  let lvl : BitVec 12 := if s.xa.lock then
      BitVec.ofNat 12 (((List.range 6).map fun k => max (lvlField s.xa.lvl k) (lvlField new k) * 4 ^ k).sum)
    else new
  { s with xa := { s.xa with lvl := lvl, lock := s.xa.lock || v.getLsbD 63 } }

/-- An image that the alarm held is let go. -/
def releaseSlot (x : TeamSlot) : TeamSlot :=
  match x with
  | .imaged im => .imaged { im with held := false }
  | y => y

/-- ALMREL (R493): the tenant's containment ends, and its held teams, those still on a core among them, may be placed again. -/
def State.releaseTenant (s : State) (asid : Nat) : State :=
  { s with
    xa := { s.xa with contained := s.xa.contained.filter (fun a => a != asid), released := asid :: s.xa.released }
    teams := s.teams.map fun e => if e.2.asid = asid then (e.1, { e.2 with hold := false }) else e
    pool := { s.pool with tasks := s.pool.tasks.map fun e =>
      if e.2.record.asid = asid then (e.1, { e.2 with slots := e.2.slots.map releaseSlot }) else e } }

/-! ## HTDONE and the counters -/

/-- A store of a TASKID to HTDONE finishes that host task (R444). -/
def State.hostDone (s : State) (v : W64) : State :=
  let id := (v.extractLsb' 0 32).toNat
  match klookup s.pool.tasks id with
  | some k => if k.record.host && k.posted then s.finishTask id else s
  | none => s

/-- Counter words (R495). -/
def ctlMask : W64 := 0xFFFF00000000FF07
def State.counterAt (s : State) (k : Nat) : Counter := kget {} s.pmc k
def State.setCounterAt (s : State) (k : Nat) (c : Counter) : State := { s with pmc := kset {} s.pmc k c }

/-! ## Access -/

/-- The value of a register's word; an address that names none reads zero (R252). -/
def State.devWord (s : State) (off : Nat) : W64 :=
  match devRegAt off with
  | .caps o => capsWord o
  | .ctl k => (s.counterAt k).ctl
  | .count k => (s.counterAt k).cnt.setWidth 64
  | .kstat => BitVec.ofNat 64 ((if s.xa.kerr then 2 else 0) + (if s.xa.kbusy.isSome then 1 else 0))
  | .karg => s.xa.karg
  | .kprov => if s.xa.kprov then 1 else 0
  | .almcfg => (if s.xa.lock then 0x8000000000000000 else 0) ||| s.xa.lvl.setWidth 64
  | _ => 0

/-- A write of a register's whole word (R5, R7). -/
def State.setDevWord (s : State) (off : Nat) (v : W64) : State :=
  match devRegAt off with
  | .htdone => s.hostDone v
  | .ctl k => s.setCounterAt k { s.counterAt k with ctl := v &&& ctlMask }
  | .count k => s.setCounterAt k { s.counterAt k with cnt := v.extractLsb' 0 48 }
  | .kcmd => s.kcommand (v.extractLsb' 8 2).toNat v
  | .karg => { s with xa := { s.xa with karg := v &&& kargMask } }
  | .kprov => s.writeKprov v
  | .almcfg => s.writeAlmcfg v
  | .almrel => s.releaseTenant (v.extractLsb' 0 16).toNat
  | _ => s

/-- Bytes read from the window, word by word. -/
def State.devRead (s : State) (pa n : Nat) : List Byte :=
  (List.range n).map fun i =>
    let o := offsetOf pa + i
    (s.devWord (o / 8 * 8)).extractLsb' (8 * (o % 8)) 8

/-- A store to the window: an aligned 8-byte word is one register write; a narrower store keeps the rest of the word, and does
not act on HTDONE, which takes an 8-byte store (R444). -/
def State.devWriteWord (s : State) (off : Nat) (bs : List Byte) : State :=
  let w := off / 8 * 8
  if bs.length < 8 ∧ devRegAt w = .htdone then s
  else
    let old := leBytes 8 (s.devWord w).toNat
    let new := old.mapIdx fun i b => if off % 8 ≤ i ∧ i < off % 8 + bs.length then bs.getD (i - off % 8) b else b
    s.setDevWord w (BitVec.ofNat 64 (leNat new))
/-- Bytes written to the window, word by word in ascending order. -/
def State.devWriteRun (s : State) (off : Nat) (bs : List Byte) : Nat → State
  | 0 => s
  | fuel + 1 =>
    if bs.isEmpty then s
    else
      let k := 8 - off % 8
      (s.devWriteWord off (bs.take k)).devWriteRun (off + k) (bs.drop k) fuel

def State.devWrite (s : State) (pa : Nat) (bs : List Byte) : State := s.devWriteRun (offsetOf pa) bs (bs.length / 8 + 2)

end Sys2Proof.Machine
end

