-- ==== Sys2Proof/Machine/Links.lean ====
section
/-!
DEFINITION. Packets leaving on the Cornaos links (13_engines.md R419 to R421, R426 to R429): routes, flits, requests that wait for
an answer.
-/

namespace Sys2Proof.Machine

/-- Fields of FABCFG (R420). -/
def State.pkgId (s : State) : Nat := (s.pkg.fabcfg.extractLsb' 0 8).toNat
def State.nodeOn (s : State) : Bool := s.pkg.fabcfg.getLsbD 9
def State.peer (s : State) (i : Nat) : Nat := (s.pkg.fabcfg.extractLsb' (16 + 8 * i) 8).toNat
/-- Packages at the far end of links 15 to 17; a field equal to PKGID connects none (R420). -/
def State.peers (s : State) : List Nat := if s.nodeOn then ([0, 1, 2].map s.peer).filter fun p => p != s.pkgId else []

def State.link (s : State) (k : Nat) : Link := kget {} s.net.links k
def State.setLink (s : State) (k : Nat) (x : Link) : State := { s with net := { s.net with links := kset {} s.net.links k x } }

/-- Links that traffic to a package uses (R14, R421). -/
def State.linksTo (s : State) (dst : Nat) : List Nat :=
  if s.peers.contains dst then [15, 16, 17].filter fun k => s.peer (k - 15) == dst
  else List.range (if s.nodeOn then 15 else 18)

/-- A link reaches its far end (R421). -/
def linkReaches (x : Link) : Bool := x.state == 2 || x.state == 3 || x.state == 4 || (x.state == 1 && x.wasUp)

/-- Links that reach a package; a plane's own link to it must reach it too (R429). -/
def State.routes (s : State) (dst : Nat) : List Nat :=
  (s.linksTo dst).filter fun k => linkReaches (s.link k) && !(kget [] s.net.down k).contains dst

/-- Data flits that follow a packet's header (R426); requests, error answers and count-only packets carry no data. -/
def packetFlits (p : Packet) : Nat :=
  if p.stat ≠ 0 then 0
  else match p.op with
    | .readReq => 0
    | .write => if p.len ≤ 192 then 0 else (p.len + 255) / 256
    | .delivery => if p.len ≤ 192 then 0 else (p.len + 255) / 256
    | _ => (p.len + 255) / 256

/-- Whether a packet's bytes travel in its header flit (R426). -/
def inlineData (p : Packet) : Bool := p.stat == 0 && (p.op == .write || p.op == .delivery) && decide (p.len ≤ 192)

/-- The flits of a packet; sequence numbers are given as they are sent. -/
def flitsOf (p : Packet) : List Flit :=
  let mk (b : FlitBody) : Flit := { body := b, seq := 0, av := false, ack := 0, cred := 0 }
  let n := packetFlits p
  if n = 0 then [mk (.header p)]
  else mk (.header { p with data := [] })
    :: (List.range n).map fun i => mk (.data ((p.data.drop (256 * i)).take 256))

/-- A packet is given to a link; it is held while the link trains (R421). -/
def State.giveLink (s : State) (k : Nat) (p : Packet) : State :=
  let x := s.link k
  if x.state = 1 then s.setLink k { x with held := x.held ++ [p] } else s.setLink k { x with outQ := x.outQ ++ flitsOf p }

/-- The link for a package: the preferred one where it reaches, else any that does; the choice is free (R421). -/
def State.pickLink (s : State) (dst : Nat) (prefer : Option Nat) : Option Nat :=
  let rs := s.routes dst
  let any := rs[(Config.freeWord s.free 0).toNat % max rs.length 1]?
  match prefer with
  | some k => if rs.contains k then some k else any
  | none => any

/-- A packet is sent where a link reaches its package. -/
def State.sendPacket (s : State) (p : Packet) : State :=
  match s.pickLink p.dst none with
  | some k => s.giveLink k p
  | none => s

/-- A request number that no outstanding request uses. -/
def State.freeRid (s : State) : Option Nat :=
  let r := s.net.nextRid % 4096
  if s.net.outs.all fun o => o.rid != r then some r
  else ((List.range 4096).map fun i => (r + i) % 4096).find? fun r => s.net.outs.all fun o => o.rid != r

/-- A packet that wants an answer is given to a link; none while every request number is in use. -/
def State.requestOn (s : State) (p : Packet) (kind : OutKind) (k : Nat) : Option (State × Nat) :=
  match s.freeRid with
  | some r =>
    let o : Outstanding := { rid := r, dst := p.dst, via := k, kind := kind, addr := p.addr, len := p.len }
    let s := { s with net := { s.net with nextRid := r + 1, outs := s.net.outs ++ [o] } }
    some (s.giveLink k { p with rid := r, src := s.pkgId }, r)
  | none => none

/-- A packet that wants an answer is sent; none where no link reaches the package. -/
def State.request (s : State) (p : Packet) (kind : OutKind) (prefer : Option Nat) : Option (State × Nat) :=
  match s.pickLink p.dst prefer with
  | some k => s.requestOn p kind k
  | none => none

/-- A packet with every field at rest. -/
def packetOf (op : PacketOp) (dst addr len : Nat) (data : List Byte) (key : Nat) (btag : W64) : Packet :=
  { op := op, src := 0, dst := dst, addr := addr, len := len, data := data, btag := btag, key := key, group := 0, elt := 0, rid := 0, stat := 0 }

end Sys2Proof.Machine
end

