-- ==== Sys2Proof/Machine/Operands.lean ====
section
/-!
DEFINITION. Operand fields (02_code.md R34 to R52, 04_rows.md R119 to R125): kinds, part selects, row pairs, scalars,
immediates, index windows, the encoding rules of R58 and the items that the scoreboard follows.
-/

namespace Sys2Proof.Machine

/-! ## Types -/

/-- Width in bits of a type (R38); the width of the container for packed types. -/
def tyWidth : Ty → Nat
  | .i8 => 8 | .n8 => 8 | .e4m3 => 8 | .e5m2 => 8
  | .i16 => 16 | .n16 => 16 | .f16 => 16 | .bf16 => 16
  | .i64 => 64 | .n64 => 64 | .f64 => 64 | .f32x2 => 64
  | _ => 32

/-- A type that uses an even/odd row pair (R44). -/
def tyPair (ty : Ty) : Bool := tyWidth ty == 64

/-- A signed integer type. -/
def tySigned : Ty → Bool
  | .i8 => true | .i16 => true | .i32 => true | .i64 => true | .i8x4 => true
  | _ => false

/-- Width of one element and number of elements in the container (R153). -/
def tyElem : Ty → Nat × Nat
  | .f16x2 => (16, 2) | .bf16x2 => (16, 2)
  | .e4m3x4 => (8, 4) | .e5m2x4 => (8, 4) | .i8x4 => (8, 4) | .n8x4 => (8, 4)
  | .f32x2 => (32, 2)
  | ty => (tyWidth ty, 1)

/-- The float format of a type's elements (R154). -/
def tyFmt : Ty → Option Fmt
  | .f16 => some fmtF16 | .f16x2 => some fmtF16
  | .bf16 => some fmtBf16 | .bf16x2 => some fmtBf16
  | .f32 => some fmtF32 | .f32x2 => some fmtF32
  | .f64 => some fmtF64
  | .e4m3 => some fmtE4m3 | .e4m3x4 => some fmtE4m3
  | .e5m2 => some fmtE5m2 | .e5m2x4 => some fmtE5m2
  | _ => none

def tyReserved : Ty → Bool
  | .reserved _ => true
  | _ => false

/-- `n` copies of a `w`-bit value. -/
def copies (w : Nat) (v : Nat) : Nat → Nat
  | 0 => 0
  | n + 1 => v % 2 ^ w + 2 ^ w * copies w v n

/-- The value of an immediate for a type (R46). -/
def immValue (ty : Ty) (v : BitVec 19) : W64 :=
  let n := v.toNat
  match ty with
  | .f32 => BitVec.ofNat 64 (n * 2 ^ 13)
  | .f64 => BitVec.ofNat 64 (n * 2 ^ 45)
  | .f32x2 => BitVec.ofNat 64 (copies 32 (n * 2 ^ 13) 2)
  | .f16 => BitVec.ofNat 64 (n % 2 ^ 16)
  | .bf16 => BitVec.ofNat 64 (n % 2 ^ 16)
  | .f16x2 => BitVec.ofNat 64 (copies 16 n 2)
  | .bf16x2 => BitVec.ofNat 64 (copies 16 n 2)
  | .e4m3 => BitVec.ofNat 64 (n % 2 ^ 8)
  | .e5m2 => BitVec.ofNat 64 (n % 2 ^ 8)
  | .e4m3x4 => BitVec.ofNat 64 (copies 8 n 4)
  | .e5m2x4 => BitVec.ofNat 64 (copies 8 n 4)
  | .i8x4 => BitVec.ofNat 64 (copies 8 n 4)
  | .n8x4 => BitVec.ofNat 64 (copies 8 n 4)
  | .q4 => BitVec.ofNat 64 (copies 4 n 8)
  | ty => BitVec.ofNat 64 ((v.signExtend 64).toNat % 2 ^ tyWidth ty)

/-- The bits that R46 requires to be zero are zero. -/
def immFits (ty : Ty) (v : BitVec 19) : Bool :=
  match ty with
  | .f16 => decide (v.toNat < 2 ^ 16) | .bf16 => decide (v.toNat < 2 ^ 16)
  | .f16x2 => decide (v.toNat < 2 ^ 16) | .bf16x2 => decide (v.toNat < 2 ^ 16)
  | .e4m3 => decide (v.toNat < 2 ^ 8) | .e5m2 => decide (v.toNat < 2 ^ 8)
  | .e4m3x4 => decide (v.toNat < 2 ^ 8) | .e5m2x4 => decide (v.toNat < 2 ^ 8)
  | .q4 => decide (v.toNat < 2 ^ 4)
  | _ => true

/-- The signed value of an immediate. -/
def immInt (v : BitVec 19) : Int := v.toInt

/-! ## Fields -/

/-- What an instruction's description accepts in a typed operand field (R41): the kinds, the type that gives its width and
part select, `dup` for the row pair of a `.pair` form (R196), `span` rows from the resolved row, `align` a multiple that
the row number must be, `raw` where R46 does not apply to an immediate, and `spanPc` where a span past the declared rows has
the instruction's address as TVAL (R58). -/
structure Opnd where
  row   : Bool := false
  ind   : Bool := false
  scal  : Bool := false
  imm   : Bool := false
  ty    : Ty := .b32
  dup   : Bool := false
  span  : Nat := 1
  align : Nat := 1
  raw   : Bool := false
  spanPc : Bool := false
  deriving DecidableEq, Repr

/-- A field of an instruction: all zeros, a typed operand, or a register of a class with `n` registers (R41). -/
inductive Fld where
  | zero
  | op (o : Opnd)
  | cls (n : Nat)
  deriving DecidableEq, Repr

/-- Rows that one value of an operand occupies. -/
def opndPair (o : Opnd) : Bool := tyPair o.ty || o.dup
def opndRows (o : Opnd) : Nat := max o.span (if opndPair o then 2 else 1)

/-- Field shapes that the instruction tables name. -/
def fRow (ty : Ty) : Fld := .op { row := true, ind := true, ty := ty }
def fDirect (ty : Ty) : Fld := .op { row := true, ty := ty }
def fScal : Fld := .op { scal := true, ty := .n64 }
def fScalImm (ty : Ty) : Fld := .op { scal := true, imm := true, ty := ty }
def fDst (ty : Ty) : Fld := .op { row := true, ind := true, scal := true, ty := ty }
def fSrc (ty : Ty) : Fld := .op { row := true, ind := true, scal := true, imm := true, ty := ty }
def fImm : Fld := .op { imm := true, raw := true }
def fScalRaw : Fld := .op { scal := true, imm := true, raw := true, ty := .n64 }
/-- ADDR of R224: a scalar or a 64-bit row operand. -/
def fAddr : Fld := .op { row := true, ind := true, scal := true, ty := .n64 }

def isScal : Operand → Bool
  | .scal _ _ => true
  | _ => false
def isImm : Operand → Bool
  | .imm _ => true
  | _ => false
def isRow : Operand → Bool
  | .row _ _ _ => true
  | _ => false
def isInd : Operand → Bool
  | .ind _ _ _ _ => true
  | _ => false

/-- A field of all zeros (R40). -/
def isZero : Operand → Bool
  | .row n part rsv => n == 0 && part == 0 && rsv == 0
  | _ => false

/-- A verdict on a field: accepted, or broken with the TVAL that the broken rule names (none: the instruction's address). -/
inductive Verdict where
  | ok
  | bad (tval : Option W64)
  deriving DecidableEq, Repr

/-- The first of two verdicts that is broken. -/
def Verdict.and : Verdict → Verdict → Verdict
  | .ok, v => v
  | .bad t, _ => .bad t

def must (b : Bool) : Verdict := if b then .ok else .bad none

/-- The part select of a field for a type (R43). -/
def partOk (ty : Ty) (part : Nat) : Bool :=
  match tyWidth ty with
  | 16 => decide (part < 2)
  | 8 => true
  | _ => part == 0

/-- A direct row number names a row of the group (R42). -/
def rowOk (g : Group) (n : Nat) : Bool := decide (n < g.nrows) || (g.sup && decide (2016 ≤ n))

/-- The rules of R40 to R44 on one typed operand, in that order. -/
def opndVerdict (g : Group) (isD : Bool) (o : Opnd) (f : Operand) : Verdict :=
  match f with
  | .row n part rsv =>
    (must (rsv == 0)).and <| (must o.row).and <|
    (if rowOk g n.toNat then Verdict.ok else .bad (some (n.setWidth 64))).and <|
    (must (partOk o.ty part.toNat && !(o.dup && part != 0))).and <|
    must (!(opndPair o && n.toNat % 2 == 1) && n.toNat % o.align == 0)
  | .ind _ _ _ part =>
    (must o.ind).and <| must (partOk o.ty part.toNat && !(o.dup && part != 0))
  | .scal _ rsv => (must (rsv == 0)).and (must o.scal)
  | .imm _ => (must (!isD)).and (must o.imm)

/-- The rules of R40 to R44 on one field. -/
def fldVerdict (g : Group) (isD : Bool) (fl : Fld) (f : Operand) : Verdict :=
  match fl with
  | .zero => must (isZero f)
  | .op o => opndVerdict g isD o f
  | .cls k =>
    match f with
    | .row n part rsv => must (part == 0 && rsv == 0 && decide (n.toNat < k))
    | _ => .bad none

/-- R46 on one field. -/
def immVerdict (fl : Fld) (f : Operand) : Verdict :=
  match fl, f with
  | .op o, .imm v => must (o.raw || immFits o.ty v)
  | _, _ => .ok

/-- A row span from a direct row stays below the declared row count; TVAL names the first row past the count, or for `spanPc` the
instruction's address (R58, R141, R214, R373, R401). The rules speak of the declared count alone, so a span that starts in the trap rows breaks them in supervisor
mode too: DESIGN CHOICE (log 63). Rows that R44 or R226 align are no such span. -/
def spanVerdict (g : Group) (fl : Fld) (f : Operand) : Verdict :=
  match fl, f with
  | .op o, .row n _ _ =>
    if o.align < o.span ∧ g.nrows < n.toNat + o.span then .bad (if o.spanPc then none else some (BitVec.ofNat 64 g.nrows)) else .ok
  | _, _ => .ok

/-! ## Resolution -/

/-- The stored row of a direct row number: supervisor code names the trap rows 2,016 to 2,047 (R42, R110). -/
def rowKey (g : Group) (n : Nat) : Nat := if g.sup ∧ 2016 ≤ n then n + 32 else n

/-- rowof of R120. -/
def rowOfInt (g : Group) (ix : BitVec 4) (disp : BitVec 12) (l : Nat) : Int :=
  let x := g.index ix.toNat
  (x.base.toNat : Int) + ((g.lane l).off ix.toNat).toNat + disp.toInt

/-- The first row of an operand in a lane. -/
def rowOf (g : Group) (f : Operand) (l : Nat) : Nat :=
  match f with
  | .row n _ _ => rowKey g n.toNat
  | .ind ix _ disp _ => (rowOfInt g ix disp l).toNat
  | _ => 0

def partOf : Operand → Nat
  | .row _ part _ => part.toNat
  | .ind _ _ _ part => part.toNat
  | _ => 0

/-- The failing row of an indirect operand in a lane (R44, R120, R121, R226): the resolved row where its parity or multiple is
wrong, else the lowest row of the span outside the window. -/
def indFail (g : Group) (o : Opnd) (f : Operand) (l : Nat) : Option Int :=
  match f with
  | .ind ix _ disp _ =>
    let x := g.index ix.toNat
    let r := rowOfInt g ix disp l
    let lo : Int := x.base.toNat
    let hi : Int := lo + x.bound.toNat
    if (opndPair o && r % 2 != 0) || r % o.align != 0 then some r
    else ((List.range (opndRows o)).map fun (k : Nat) => r + (k : Int)).find? fun q => decide (q < lo ∨ hi ≤ q)
  | _ => none

/-- TVAL of INDEX_BOUND (R121). -/
def indexTval (opnd ix : Nat) (row : Int) : W64 :=
  BitVec.ofNat 64 (opnd * 2 ^ 20 + ix * 2 ^ 16 + (row % 65536).toNat)

def ixOf : Operand → Nat
  | .ind ix _ _ _ => ix.toNat
  | _ => 0

/-! ## Reading and writing -/

/-- The container value in a lane's rows from row `r` (R43, R44): a part of a row, a row, or a pair. -/
def laneRead (ty : Ty) (dup : Bool) (part : Nat) (ln : Lane) (r : Nat) : W64 :=
  if tyPair ty || dup then ln.pair r
  else
    match tyWidth ty with
    | 16 => BitVec.ofNat 64 ((ln.row r).toNat / 2 ^ (16 * part) % 2 ^ 16)
    | 8 => BitVec.ofNat 64 ((ln.row r).toNat / 2 ^ (8 * part) % 2 ^ 8)
    | _ => (ln.row r).setWidth 64

/-- A part of a row replaced (R43). -/
def setPart (w part : Nat) (old : W32) (v : Nat) : W32 :=
  let m : W32 := BitVec.ofNat 32 ((2 ^ w - 1) * 2 ^ (w * part))
  (old &&& ~~~m) ||| (BitVec.ofNat 32 (v % 2 ^ w * 2 ^ (w * part)) &&& m)

/-- A write of a container value to a lane's rows; a full write clears poison, a partial one keeps it (R472). -/
def laneWrite (ty : Ty) (dup : Bool) (part : Nat) (ln : Lane) (r : Nat) (v : W64) : Lane :=
  if tyPair ty || dup then { ln.setPair r v with poison := ln.poison.filter fun q => q != r && q != r + 1 }
  else
    match tyWidth ty with
    | 16 => ln.setRow r (setPart 16 part (ln.row r) v.toNat)
    | 8 => ln.setRow r (setPart 8 part (ln.row r) v.toNat)
    | _ => { ln.setRow r (v.setWidth 32) with poison := ln.poison.filter fun q => q != r }

/-- A scalar as a source of a type (R45); the 32 bits are given to both rows of a `.pair` form. -/
def scalRead (ty : Ty) (dup : Bool) (v : W64) : W64 :=
  if dup then BitVec.ofNat 64 (copies 32 v.toNat 2) else BitVec.ofNat 64 (v.toNat % 2 ^ tyWidth ty)

/-- The value of an operand in a lane (R43 to R46). -/
def readOp (g : Group) (o : Opnd) (f : Operand) (l : Nat) : W64 :=
  match f with
  | .row _ part _ => laneRead o.ty o.dup part.toNat (g.lane l) (rowOf g f l)
  | .ind _ _ _ part => laneRead o.ty o.dup part.toNat (g.lane l) (rowOf g f l)
  | .scal n _ => scalRead o.ty o.dup (g.getS n.toNat)
  | .imm v =>
    if o.raw then v.setWidth 64
    else if o.dup then BitVec.ofNat 64 (copies 32 (immValue o.ty v).toNat 2)
    else immValue o.ty v

/-- A vector result in a lane (R43, R44). -/
def writeOp (g : Group) (o : Opnd) (f : Operand) (l : Nat) (v : W64) (ln : Lane) : Lane :=
  laneWrite o.ty o.dup (partOf f) ln (rowOf g f l) v

/-- A uniform result in a scalar: sign-extended for i types, else zero-extended (R49). -/
def scalWrite (ty : Ty) (v : W64) : W64 :=
  let w := tyWidth ty
  if tySigned ty && (tyElem ty).2 == 1 then BitVec.ofInt 64 (toSigned w v.toNat) else BitVec.ofNat 64 (v.toNat % 2 ^ w)

/-- A scalar or an immediate read as a plain number, the immediate sign-extended to 64 bits. -/
def readNum (g : Group) (f : Operand) : W64 :=
  match f with
  | .scal n _ => g.getS n.toNat
  | .imm v => v.signExtend 64
  | _ => 0

/-- A scalar, or an immediate read as 19 unsigned bits. -/
def readRaw (g : Group) (f : Operand) : W64 :=
  match f with
  | .scal n _ => g.getS n.toNat
  | .imm v => v.setWidth 64
  | _ => 0

def scalNum : Operand → Nat
  | .scal n _ => n.toNat
  | _ => 0
def clsNum : Operand → Nat
  | .row n _ _ => n.toNat
  | _ => 0

/-- The value of a parameter word (R51). -/
def pwordValue (g : Group) : PWord → W64
  | .lit v => v.setWidth 64
  | .sub sreg add => g.getS sreg.toNat + add.signExtend 64

/-- The values of a parameter block; zeros where there is none. -/
def paramValues (g : Group) (h : Head) : W64 × W64 × W64 × W64 :=
  match h.params with
  | some p => (pwordValue g p.w0, pwordValue g p.w1, pwordValue g p.w2, pwordValue g p.w3)
  | none => (0, 0, 0, 0)

def pwordScal : PWord → List Nat
  | .lit _ => []
  | .sub sreg _ => [sreg.toNat]

/-- The literal 0x0000_0000 as a parameter word. -/
def litZero (w : PWord) : Bool := w == .lit 0

/-! ## Items followed by the scoreboard -/

/-- The scalar register of a field, as an item. -/
def scalItems : Operand → List Item
  | .scal n _ => if n = 0 then [] else [.scal n.toNat]
  | _ => []

/-- Every row that an operand may touch: its span, or its whole window (R54, R125). -/
def opndItems (g : Group) (o : Opnd) (f : Operand) : List Item :=
  match f with
  | .row n _ _ => (List.range (opndRows o)).map fun k => .row (rowKey g n.toNat + k)
  | .ind ix _ _ _ =>
    let x := g.index ix.toNat
    (List.range x.bound.toNat).map fun k => .row (x.base.toNat + k)
  | f => scalItems f

def fldItems (g : Group) (fl : Fld) (f : Operand) : List Item :=
  match fl with
  | .op o => opndItems g o f
  | _ => []

def flagItems (k : Nat) : List Item := if k = 0 then [] else [.flag k]

end Sys2Proof.Machine
end

