-- ==== Sys2Proof/Machine/Issue.lean ====
section
/-!
DEFINITION. Issue of one device instruction: the checks in the order of R60, the early-consumer rule of R55, and how an effect
settles (post-increment, program counter, signature, stall count, trap, wait).
-/

namespace Sys2Proof.Machine

/-- Whether an instruction takes a parameter block (R52). -/
inductive PNeed where
  | never | must | may
  deriving DecidableEq, Repr

/-- How an instruction uses its D field: as a destination, as a source only, as both (the third source C of
R184), or as the name of rows of another group (R148). -/
inductive DUse where
  | write | read | both | other
  deriving DecidableEq, Repr

/-- What an instruction's description fixes before its effect: opcode, accepted types and modifiers, fields, block, guard, form
rule (`form` says that R47 and R48 apply), its own last ILLEGAL_OP rules, further items it reads and writes, its fixed latency
L and occupancy O (0: variable), and the classes it belongs to: supervisor-only (R59), access instruction (R319, R510), ending
a restart region (R470), acting without an active lane (R87). `judged` lists the items whose value an ILLEGAL_OP rule of its own reads
(R58); `skipIx` is an index register it writes (R123); `cross` says that A is read in other lanes (R139); `packs` says that it writes
as many lanes from lane 0 on as participate (R147); `mute` that it raises nothing but ILLEGAL_OP and INDEX_BOUND (R234);
`poisonLast` that its own causes come before POISON of a register (R232, R417); `afterTend` that it waits for the group's commits (R504). -/
structure Shape where
  major  : Nat
  minor  : Nat
  tyOk   : Bool := true
  modsOk : Bool := true
  d      : Fld := .zero
  a      : Fld := .zero
  b      : Fld := .zero
  dUse   : DUse := .write
  params : PNeed := .never
  always : Bool := false
  form   : Bool := false
  extra  : Verdict := .ok
  reads  : List Item := []
  writes : List Item := []
  lat    : Nat × Nat := (0, 0)
  uniLat : Nat := 0
  super  : Bool := false
  access : Bool := false
  region : Bool := false
  inactive : Bool := false
  judged : List Item := []
  skipIx : Option Nat := none
  cross  : Bool := false
  packs  : Bool := false
  mute   : Bool := false
  poisonLast : Bool := false
  afterTend : Bool := false
  deriving DecidableEq, Repr

/-- What a meaning works with: the group as its operands read it, the instruction, its participating lanes, whether it is in
uniform form, and the clock of its issue. -/
structure Ctx where
  gid : Nat
  g   : Group
  h   : Head
  ps  : List Nat
  uni : Bool
  t   : Nat
  deriving DecidableEq, Repr

/-- The result of an instruction's effect. `retry` waits at issue with nothing changed; `block` has begun and waits; `after` is
a trap that saves the next address; `poison` is a lane consuming poisoned data (R471, R474); `stop` is a state as it stands. -/
inductive Effect where
  | done (s : State)
  | jump (s : State) (pc : W64)
  | trap (cause : Nat) (lanes : List (Nat × W64))
  | poison (lanes : List (Nat × W64))
  | after (s : State) (cause : Nat) (lanes : List (Nat × W64))
  | retry
  | block (s : State) (w : Wait)
  | stop (s : State)
  deriving DecidableEq, Repr

/-! ## Checks -/

/-- Uniform form: D a scalar and every used source a scalar or an immediate (R47). -/
def isUniform (sh : Shape) (h : Head) : Bool :=
  let src (fl : Fld) (f : Operand) := match fl with | .op _ => isScal f || isImm f | _ => true
  isScal h.d && src sh.a h.a && src sh.b h.b

def formVerdict (sh : Shape) (h : Head) : Verdict := must (!(sh.form && isScal h.d && !isUniform sh h))

def paramVerdict (sh : Shape) (h : Head) : Verdict :=
  match sh.params with
  | .never => must h.params.isNone
  | .must => must h.params.isSome
  | .may => .ok

/-- ILLEGAL_OP in the order of R58, then the immediates of R46, the row spans and the instruction's own rules. -/
def illegal (sh : Shape) (g : Group) (h : Head) : Verdict :=
  (must (!(h.guard.inv && h.guard.flag == 0) && !(sh.always && h.guard.flag != 0))).and <|
  (must (sh.tyOk && !tyReserved h.ty)).and <| (must sh.modsOk).and <|
  (fldVerdict g true sh.d h.d).and <| (fldVerdict g false sh.a h.a).and <| (fldVerdict g false sh.b h.b).and <|
  (paramVerdict sh h).and <| (formVerdict sh h).and <|
  (immVerdict sh.a h.a).and <| (immVerdict sh.b h.b).and <|
  (spanVerdict g sh.d h.d).and <| (spanVerdict g sh.a h.a).and <| (spanVerdict g sh.b h.b).and sh.extra

/-- Items read: the guard flag (R502), the sources, C, the substituted scalars (R51) and the instruction's own. -/
def itemsRead (sh : Shape) (g : Group) (h : Head) : List Item :=
  flagItems h.guard.flag.toNat ++ fldItems g sh.a h.a ++ fldItems g sh.b h.b
    ++ (match sh.dUse with | .read => fldItems g sh.d h.d | .both => fldItems g sh.d h.d | _ => [])
    ++ (match h.params with
        | some p => (pwordScal p.w0 ++ pwordScal p.w1 ++ pwordScal p.w2 ++ pwordScal p.w3).filterMap fun n =>
            if n = 0 then none else some (.scal n)
        | none => [])
    ++ sh.reads

/-- Items written. -/
def itemsWritten (sh : Shape) (g : Group) (h : Head) : List Item :=
  (match sh.dUse with | .write => fldItems g sh.d h.d | .both => fldItems g sh.d h.d | _ => []) ++ sh.writes

/-- The scoreboard holds an item busy that the instruction touches (R54). -/
def busyHit (sh : Shape) (g : Group) (h : Head) : Bool :=
  !g.busy.isEmpty && (let its := itemsRead sh g h ++ itemsWritten sh g h; g.busy.any fun b => its.contains b.item)

/-- The producers to which the instruction is early (R55). -/
def earlyPends (g : Group) (t : Nat) (its : List Item) : List Pend := g.pend.filter fun p => decide (t < p.due) && its.contains p.item

/-- Value of an item in a lane (lane 0 for a scalar), and its replacement. -/
def itemVal (g : Group) (it : Item) (l : Nat) : W64 :=
  match it with
  | .row n => ((g.lane l).row n).setWidth 64
  | .scal n => g.getS n
  | .flag k => if (g.lane l).flag k then 1 else 0
def setItem (g : Group) (it : Item) (l : Nat) (v : W64) : Group :=
  match it with
  | .row n => g.modLane l fun ln => ln.setRow n (v.setWidth 32)
  | .scal n => g.setS n v
  | .flag k => g.modLane l fun ln => ln.setFlag k (v != 0)

/-- The choices of R55 for one item, lane by lane: where the free bit is set the lane takes the listed value. -/
def pickItem (n k : Nat) (it : Item) : List (Nat × W64) → Group → Group
  | [], g => g
  | (l, v) :: r, g => pickItem n k it r (if Config.freeBit n (64 * k + l) then setItem g it l v else g)

/-- The group as an early consumer reads it (R55): newest producer first. -/
def earlyView (n : Nat) : Nat → List Pend → Group → Group
  | _, [], g => g
  | k, p :: r, g => pickItem n k p.item p.olds (earlyView n (k + 1) r g)

/-- An item as it stood in `g0`, in some of the lanes, by a free bit for each: value and poison mark. -/
def keepItem (n k : Nat) (g0 : Group) (it : Item) : List Nat → Group → Group
  | [], g => g
  | l :: r, g =>
    let was (g : Group) : Group :=
      match it with
      | .row q => g.modLane l fun ln => (ln.setRow q ((g0.lane l).row q)).setPoison q ((g0.lane l).poison.contains q)
      | it => setItem g it l (itemVal g0 it l)
    keepItem n k g0 it r (if Config.freeBit n (64 * k + l) then was g else g)

/-- An early consumer's own writes (R55): in each lane that the producer writes, its result, which stands in `g0`, may be the final one. -/
def earlyWrites (n : Nat) (g0 : Group) : Nat → List Pend → Group → Group
  | _, [], g => g
  | k, p :: r, g => earlyWrites n g0 (k + 1) r (keepItem n k g0 p.item (p.olds.map Prod.fst) g)

/-- A variable-latency consumer that writes an item before an earlier result for it is due (R55): the choice is made when it writes. -/
def noteLate (early : List Pend) (g0 g1 : Group) : Group :=
  match early with
  | [] => g1
  | _ =>
    let held := g1.busy.filter fun b => !g0.busy.contains b
    { g1 with late := g1.late ++ early.flatMap fun p =>
        (held.filter fun b => b.item == p.item).map fun b => { op := b.op, item := p.item, lanes := p.olds.map Prod.fst } }

/-- Busy items of an operation are released (R54). -/
def Group.release (g : Group) (op : Nat) : Group :=
  { g with busy := g.busy.filter (fun b => b.op != op), late := g.late.filter fun x => x.op != op }

/-- The operation `op` has written items, which turned `g0` into `g1`: for an item that it wrote early either result may stand (R55). -/
def Group.blend (n op : Nat) (g0 g1 : Group) : Group :=
  (g1.late.filter fun x => x.op == op).zipIdx.foldl (fun g e => keepItem n (2000 + e.2) g0 e.1.item e.1.lanes g) g1

/-- As `blend`, the operation's last items: its busy items are released (R54). -/
def Group.land (n op : Nat) (g0 g1 : Group) : Group := (g0.blend n op g1).release op

/-- The number under which the items of a waiting instruction stand among those written early. -/
def heldOp : Nat := 2 ^ 64

/-- A waiting instruction that writes an item before an earlier result for it is due (R55): the choice is made when it writes. -/
def noteHeld (early : List Pend) (g : Group) : Group :=
  match early with
  | [] => g
  | _ => { g with late := (g.late.filter fun x => x.op != heldOp) ++ early.map fun p => { op := heldOp, item := p.item, lanes := p.olds.map Prod.fst } }

/-- Operand checks in the order A, B, D (R121): number of the operand, its field and its shape. -/
def indexOps (sh : Shape) (h : Head) : List (Nat × Opnd × Operand) :=
  (match sh.a with | .op o => [(1, o, h.a)] | _ => []) ++ (match sh.b with | .op o => [(2, o, h.b)] | _ => [])
    ++ (match sh.d with | .op o => [(0, o, h.d)] | _ => [])

/-- The INDEX_BOUND failure of a lane, with its TVAL (R121). -/
def indexFail (g : Group) (l : Nat) : List (Nat × Opnd × Operand) → Option W64
  | [] => none
  | (k, o, f) :: r =>
    match indFail g o f l with
    | some q => some (indexTval k (ixOf f) q)
    | none => indexFail g l r

def indexFails (sh : Shape) (g : Group) (h : Head) (ls : List Nat) : List (Nat × W64) :=
  if isInd h.a || isInd h.b || isInd h.d then
    ls.filterMap fun l => (indexFail g l (indexOps sh h)).map fun v => (l, v)
  else []

/-- A poisoned row among a lane's sources, in the form of R121 (R472, R474). -/
def poisonFail (sh : Shape) (g : Group) (h : Head) (l : Nat) : Option W64 :=
  let ops := (indexOps sh h).filter fun e =>
    if e.1 = 0 then sh.dUse == .read || sh.dUse == .both else !(e.1 == 1 && sh.cross)
  ops.findSome? fun e =>
    if isRow e.2.2 || isInd e.2.2 then
      ((List.range (opndRows e.2.1)).map fun k => rowOf g e.2.2 l + k).findSome? fun r =>
        if (g.lane l).poison.contains r then some (indexTval e.1 (ixOf e.2.2) r) else none
    else none

def poisonFails (sh : Shape) (g : Group) (h : Head) (ls : List Nat) : List (Nat × W64) :=
  ls.filterMap fun l =>
    if (g.lane l).poison.isEmpty then none else (poisonFail sh g h l).map fun v => (l, v)

/-! ## Settling -/

/-- The index registers that post-increment (R122). -/
def postIxs (h : Head) : List Nat :=
  let p : Operand → List Nat := fun f => match f with | .ind ix post _ _ => if post then [ix.toNat] else [] | _ => []
  (p h.d ++ p h.a ++ p h.b).dedup

/-- Post-increment, once per register (R122), a register that the instruction writes excepted (R123). -/
def postInc (g : Group) (ixs : List Nat) (ls : List Nat) : Group :=
  match ixs with
  | [] => g
  | k :: r =>
    postInc (g.modLanes ls fun _ ln => ln.setOff k (ln.off k + (g.index k).step.signExtend 12)) r ls

/-- Bits [95:64] of the word. -/
def wordHigh (major minor : Nat) (h : Head) : W32 :=
  (BitVec.ofNat 8 major ++ BitVec.ofNat 4 minor ++ BitVec.ofBool h.guard.inv ++ h.guard.flag ++ h.stall
    ++ BitVec.ofBool h.yield ++ BitVec.ofBool h.reuse ++ h.ty.code ++ h.mods : BitVec 32)

/-- The word folds into SIG in user mode, sigchk and bkpt excepted (R466). -/
def foldSig (g : Group) (user : Bool) (major minor : Nat) (h : Head) : W32 :=
  if user && !(major == 0xF0 && (minor == 2 || minor == 3)) then sigFold g.sig (wordHigh major minor h) else g.sig

/-- Length of an instruction in bytes (R29). -/
def headLen (h : Head) : W64 := if h.params.isSome then 28 else 12

/-- An instruction that takes effect: post-increment, the new program counter, SIG, and the stall count (R53). -/
def Group.advance (g : Group) (user : Bool) (major minor : Nat) (h : Head) (ixs ls : List Nat) (t : Nat) (pc : W64) : Group :=
  let g := postInc g ixs ls
  { g with pc := pc, sig := foldSig g user major minor h, readyAt := t + max (stallCount h.stall) 1,
           wait := .none, held := none }

/-- The lanes in which an instruction of fixed latency writes an item (lane 0 for a scalar): of a row, those whose destination it is. -/
def wroteLanes (sh : Shape) (c : Ctx) (it : Item) : List Nat :=
  match it with
  | .scal _ => [0]
  | .flag _ => c.ps
  | .row n =>
    (if sh.packs then List.range c.ps.length else c.ps).filter fun l =>
      decide (rowOf c.g c.h.d l ≤ n ∧ n < rowOf c.g c.h.d l + (match sh.d with | .op o => opndRows o | _ => 1))

/-- Clocks from the first pass of an instruction to the write of its fixed-latency result: L on the scalar unit, else L, and the occupancy
more for the second pass of a group of width 64 (R180); 0 for a variable latency. -/
def resultClocks (sh : Shape) (c : Ctx) (width : Nat) : Nat :=
  if c.uni || (isScal c.h.d && sh.uniLat != 0) then sh.uniLat
  else if sh.lat.1 = 0 then 0 else sh.lat.1 + (if width = 64 then sh.lat.2 else 0)

/-- A fixed-latency result that a later instruction could still meet early (R55); `g0` is the group before. -/
def newPends (sh : Shape) (c : Ctx) (g0 : Group) : List Pend :=
  let lat := resultClocks sh c g0.width
  if lat ≤ max (stallCount c.h.stall) 1 || c.ps.isEmpty then []
  else
    (itemsWritten sh c.g c.h).map fun it =>
      { due := c.t + lat, item := it, olds := (wroteLanes sh c it).map fun l => (l, itemVal g0 it l) }

/-- The group after an effect: early writes settled, later early consumers prepared, and the instruction advanced. -/
def settleGroup (sh : Shape) (c : Ctx) (n : Nat) (g0 g1 : Group) (pc : W64) : Group :=
  let early := earlyPends g0 c.t (itemsWritten sh c.g c.h)
  let g2 := noteLate early g0 (earlyWrites n g0 1000 early g1)
  let g3 := { g2 with pend := g2.pend.filter (fun (p : Pend) => decide (c.t < p.due)) ++ newPends sh c g0 }
  let g4 := if sh.region && !c.ps.isEmpty then { g3 with ractive := false } else g3
  let ixs := (postIxs c.h).filter fun k => sh.skipIx != some k
  g4.advance (!g0.sup) sh.major sh.minor c.h ixs c.ps c.t pc

/-- Requests that an instruction waiting at issue has sent are taken back (R501). -/
def State.dropSent (s : State) (gid : Nat) (g : Group) : State :=
  match g.sent with
  | some op => (s.dropReqs op).modGroup gid fun g => { g with sent := none }
  | none => s

/-- The words fetched for an instruction are done with. -/
def Group.dropFetched (g : Group) : Group := { g with far := [], fetched := [] }

/-- A trap taken at the instruction, which has no effect (R60). -/
def trapAt (s : State) (gid : Nat) (g : Group) (cause : Nat) (lanes : List (Nat × W64)) : State :=
  ((s.dropSent gid g).takeTrap gid { cause := cause, lanes := lanes, tpc := g.pc }).modGroup gid fun g =>
    { g.dropFetched with readyAt := s.clock + 1 }

/-- Loaded poison is discarded (R471): what the register file itself has lost stays poisoned. -/
def Lane.dropLoaded (ln : Lane) : Lane := { ln with poison := ln.poison.filter fun q => ln.upset.contains q }
def Group.dropLoaded (g : Group) : Group := { g with lanes := g.lanes.map Lane.dropLoaded, poisPend := [] }

/-- The region's restarts are used up (R471): the cause is raised, and loaded poison is discarded. -/
def Group.endRegion (g : Group) : Group := { g.dropLoaded with ractive := false }

/-- A restart of the open restart region (R471). -/
def Group.restart (g : Group) (t : Nat) : Group :=
  { g with
    rcnt := g.rcnt + 1
    lanes := g.lanes.map fun ln => if ln.eligible then ln.setCnt ln.regCnt else ln
    sig := g.rsig, nesterr := false, pc := g.rentry, pend := [], readyAt := t + 1, far := [], fetched := [] }

/-- A lane consumes poison or sigchk fails (R471): a restart while the region has restarts left, else the cause; the restart
waits until every result the group has issued is written. -/
def failOrRestart (s : State) (gid : Nat) (g : Group) (asid : Nat) (fail : State → State) : State :=
  if !g.ractive then fail s
  else if !g.busy.isEmpty then s
  else if g.rcnt.toNat ≥ g.rrlim.toNat then fail (s.modGroup gid Group.endRegion)
  else (s.setGroup gid (g.dropLoaded.restart s.clock)).report (dieOf g.core) 14 asid g.core (g.rentry.toNat % 2 ^ 52)

/-- The tenant of a group (R255); 0 for a service group (R464). -/
def State.asidOf (s : State) (g : Group) : Nat := match klookup s.teams g.team with | some t => t.asid | none => 0

/-- The state an effect leaves. In supervisor mode every trap stops the group at its instruction (R460). -/
def settle (sh : Shape) (c : Ctx) (g0 : Group) (s : State) : Effect → State
  | .done s' => s'.modGroup c.gid fun g1 => settleGroup sh c s.free g0 g1 (g0.pc + headLen c.h)
  | .jump s' pc => s'.modGroup c.gid fun g1 => settleGroup sh c s.free g0 g1 pc
  | .trap cause lanes => trapAt s c.gid g0 cause lanes
  | .poison lanes =>
    failOrRestart s c.gid { g0 with ractive := g0.ractive && !sh.region } (s.asidOf g0) fun s =>
      trapAt (s.modGroup c.gid fun g => { g with poisPend := [] }) c.gid g0 cPoison lanes
  | .after s' cause lanes =>
    if g0.sup then trapAt s c.gid g0 cause lanes
    else
      let s1 := s'.modGroup c.gid fun g1 => settleGroup sh c s.free g0 g1 (g0.pc + headLen c.h)
      s1.takeTrap c.gid { cause := cause, lanes := lanes, tpc := g0.pc + headLen c.h }
  | .retry => s
  | .block s' w => s'.modGroup c.gid fun g1 =>
      let early := earlyPends g0 c.t (itemsWritten sh c.g c.h)
      let g2 := noteHeld early (noteLate early g0 g1)
      { g2 with wait := w, ractive := g2.ractive && !sh.region,
                held := some { major := sh.major, minor := sh.minor, head := c.h, lanes := c.ps } }
  | .stop s' => s'

/-- A waiting instruction takes effect (R78): the group advances past it. -/
def Group.completeHeld (g : Group) (t : Nat) : Group :=
  match g.held with
  | none => { g with wait := .none }
  | some hd => g.advance (!g.sup) hd.major hd.minor hd.head (postIxs hd.head) hd.lanes t (g.pc + headLen hd.head)

/-- Whether the scoreboard or a fence holds the instruction at issue (R54, R319). -/
def waitsAtIssue (sh : Shape) (g : Group) (h : Head) : Bool :=
  busyHit sh g h || (sh.access && g.fence.isSome)

/-- A commit of the group has not written its flag (R504). -/
def State.committing (s : State) (gid : Nat) : Bool :=
  s.tx.commits.any fun c => match c.who with | .group k _ _ _ _ => k == gid | .host _ => false

/-- What holds an instruction at issue: the scoreboard, a fence, or for tstat a commit of its group. -/
def State.issueWaits (s : State) (sh : Shape) (gid : Nat) (g : Group) (h : Head) : Bool :=
  waitsAtIssue sh g h || (sh.afterTend && s.committing gid)

/-- What the effect works with when no earlier result is met early. -/
def plainCtx (sh : Shape) (gid : Nat) (g : Group) (h : Head) (t : Nat) : Ctx :=
  { gid := gid, g := g, h := h, ps := g.parts h.guard, uni := sh.form && isUniform sh h, t := t }

/-- A cause that the instruction's own effect raises as ILLEGAL_OP for a value read at issue, or as INDEX_BOUND in every participating
lane for a window that it would write (R135, R136), comes before the causes of its operands (R58, R60). -/
def causeFirst (causes : List Nat) (e other : Effect) : Effect :=
  match e with
  | .trap cause lanes => if causes.contains cause then .trap cause lanes else other
  | _ => other

/-- The checks on the operands and the effect, on the group as its operands read it. -/
def effectIn (sh : Shape) (c : Ctx) (s : State) (body : Ctx → State → Effect) : Effect :=
  match indexFails sh c.g c.h c.ps with
  | f :: fs => causeFirst [cIllegal, cIndex] (body c s) (.trap cIndex (f :: fs))
  | [] =>
    match (if sh.mute || sh.poisonLast then [] else poisonFails sh c.g c.h c.ps) with
    | f :: fs => causeFirst [cIllegal, cIndex] (body c s) (.poison (f :: fs))
    | [] => body c s

/-- The guard flag is among the items met early (R55). -/
def guardEarly (h : Head) (early : List Pend) : Bool := early.any fun p => (flagItems h.guard.flag.toNat).contains p.item

/-- A value that an ILLEGAL_OP rule of the instruction reads is itself early (R55, R58). -/
def judgedEarly (sh : Shape) (early : List Pend) : Bool := early.any fun p => sh.judged.contains p.item

/-- An early consumer with GCTL.CHK set traps (R55): some lane participates, or an early guard leaves open which active lanes do, or, by the
model's choice (log 21), the instruction acts where no lane is active (R87). -/
def stalls (sh : Shape) (c : Ctx) (early : List Pend) : Bool :=
  !c.ps.isEmpty || (sh.inactive && c.g.actives.isEmpty) || (guardEarly c.h early && !c.g.actives.isEmpty)

/-- STALL_SHORT (R55): in the participating lanes; by the model's choice (log 21) in every active lane where the guard itself is early, and in
every eligible lane where none is active. A value that is itself early is
not read, so that no rule about it can come first. -/
def stallEffect (sh : Shape) (c : Ctx) (s : State) (body : Ctx → State → Effect) (early : List Pend) : Effect :=
  let stall : Effect := .trap cStall ((if c.ps.isEmpty || guardEarly c.h early then c.g.wordLanes else c.ps).map fun l => (l, c.g.pc))
  if judgedEarly sh early then stall else causeFirst [cIllegal] (body c s) stall

/-- What the effect works with: the group as an early consumer with GCTL.CHK clear reads it (R55). -/
def readCtx (sh : Shape) (gid : Nat) (g : Group) (h : Head) (s : State) (early : List Pend) : Ctx :=
  match early with
  | [] => plainCtx sh gid g h s.clock
  | ps => plainCtx sh gid (earlyView s.free 0 ps g) h s.clock

/-- A supervisor-only instruction in user mode: PRIV (R59), which only ILLEGAL_OP precedes (R60), also where that rests on a value; a value
that is itself early under GCTL.CHK is not read. -/
def privEffect (sh : Shape) (gid : Nat) (g : Group) (h : Head) (s : State) (body : Ctx → State → Effect) : Ctx × Effect :=
  let c := plainCtx sh gid g h s.clock
  let priv : Effect := .trap cPriv (g.wordLanes.map fun l => (l, g.pc))
  if sh.judged.isEmpty then (c, priv)
  else if s.issueWaits sh gid g h then (c, .retry)
  else
    let early := earlyPends g s.clock (itemsRead sh g h)
    if g.gctl.getLsbD 0 && judgedEarly sh early then (c, priv)
    else (c, causeFirst [cIllegal] (body (if g.gctl.getLsbD 0 then c else readCtx sh gid g h s early) s) priv)

/-- A cause that an operation in flight has left for the group's lanes is raised outside a handler (R419, R474, R488; logs 49 and 66): ACCESS first,
then SECURITY. -/
def Group.lateCause (g : Group) : Option (Nat × KMap W64) :=
  if g.sup && !g.service then none
  else if !g.accPend.isEmpty then some (cAccess, g.accPend)
  else if !g.secPend.isEmpty then some (cSecurity, g.secPend)
  else none

/-- Poison that no row can hold is consumed outside a handler (R474). -/
def Group.latePoisoned (g : Group) : Bool := !g.poisPend.isEmpty && (!g.sup || g.service)

/-- The effect of an instruction at issue: a pending cause (R457), then the causes in the order of R60, then its own effect. -/
def effectOf (sh : Shape) (gid : Nat) (g : Group) (h : Head) (s : State) (body : Ctx → State → Effect) : Ctx × Effect :=
  let c := plainCtx sh gid g h s.clock
  match g.dmrPend with
  | some (ls, key) => (c, .trap cDmr (ls.map fun l => (l, key)))
  | none =>
  if !g.rfPend.isEmpty && !g.rfHold then (c, .trap cRemote g.rfPend)
  else
  match g.lateCause with
  | some (k, ls) => (c, .trap k ls)
  | none =>
  if g.latePoisoned then (c, .poison g.poisPend)
  else
  match illegal sh g h with
  | .bad tv => (c, .trap cIllegal (g.wordLanes.map fun l => (l, tv.getD g.pc)))
  | .ok =>
  if sh.super && !g.sup then privEffect sh gid g h s body
  else if s.issueWaits sh gid g h then (c, .retry)
  else if g.pend.isEmpty then (c, effectIn sh c s body)
  else
    match earlyPends g s.clock (itemsRead sh g h ++ itemsWritten sh g h) with
    | [] => (c, effectIn sh c s body)
    | p :: ps =>
      if g.gctl.getLsbD 0 && !sh.mute then
        if stalls sh c (p :: ps) then (c, stallEffect sh c s body (p :: ps)) else (c, effectIn sh c s body)
      else
        let v := readCtx sh gid g h s (p :: ps)
        (v, effectIn sh v s body)

/-- A pending cause is consumed as it is raised (R457): DMR_MISMATCH first, REMOTE_FAIL then staying pending until after sret; then a
cause that an operation in flight has left. Poison stays until it is raised or the region restarts (R471). -/
def dropPending (s : State) (gid : Nat) (g : Group) : State :=
  if g.dmrPend.isSome then s.modGroup gid fun g => { g with dmrPend := none, rfHold := !g.rfPend.isEmpty }
  else if !g.rfPend.isEmpty && !g.rfHold then s.modGroup gid fun g => { g with rfPend := [] }
  else
    match g.lateCause with
    | some (k, _) => s.modGroup gid fun g => if k = cAccess then { g with accPend := [] } else { g with secPend := [] }
    | none => s

/-- One device instruction of the acting group. -/
def issue (sh : Group → Shape) (h : Head) (body : Ctx → State → Effect) (s : State) : Host.Outcome State Fault Refusal :=
  match s.cur with
  | .group gid =>
    match klookup s.groups gid with
    | some g =>
      let r := effectOf (sh g) gid g h s body
      .next (settle (sh g) r.1 g (dropPending s gid g) r.2)
    | none => .fault .noAgent
  | _ => .fault .noAgent

end Sys2Proof.Machine
end

