-- ==== Sys2Proof/Machine/Flags.lean ====
section
/-!
DEFINITION. Flag and compare results (06_pipes.md R186, R189, R194; 04_rows.md R115, R143) and the two shapes of an
arithmetic effect: lane by lane, or once on the scalar unit (02_code.md R47, R49).
-/

namespace Sys2Proof.Machine

/-- A flag written in the participating lanes (R115). -/
def Group.setFlags (g : Group) (ls : List Nat) (k : Nat) (f : Nat → Bool) : Group :=
  g.modLanes ls fun l ln => ln.setFlag k (f l)

/-- Integer conditions of icmp (R187): eq ne lt le gt ge. -/
def icond (cc : Nat) (a b : Int) : Bool :=
  match cc with
  | 0 => a == b | 1 => a != b | 2 => decide (a < b) | 3 => decide (a ≤ b) | 4 => decide (a > b) | _ => decide (a ≥ b)

/-- An integer pattern as its type reads it: signed for i types (R188). -/
def intOf (ty : Ty) (w : Nat) (p : Nat) : Int := if tySigned ty then toSigned w p else (p % 2 ^ w : Nat)

/-- Carry-out of an addition at width w (R189). -/
def carryOut (w a b cin : Nat) : Bool := decide (2 ^ w ≤ a % 2 ^ w + b % 2 ^ w + cin)

/-- The lowest lane of a list, 0 for none. -/
def lowest (ls : List Nat) : Nat := ls.headD 0

/-- Operand shapes of a field; a field that is no typed operand has the shape of a plain row. -/
def opndOf : Fld → Opnd
  | .op o => o
  | _ => {}

/-- Reads of A, B and of D as a source, in a lane. -/
def Ctx.readA (c : Ctx) (sh : Shape) (l : Nat) : W64 := readOp c.g (opndOf sh.a) c.h.a l
def Ctx.readB (c : Ctx) (sh : Shape) (l : Nat) : W64 := readOp c.g (opndOf sh.b) c.h.b l
def Ctx.readD (c : Ctx) (sh : Shape) (l : Nat) : W64 := readOp c.g (opndOf sh.d) c.h.d l

/-- A vector result written in the participating lanes through D. -/
def Ctx.writeVec (c : Ctx) (sh : Shape) (f : Nat → W64) (g : Group) : Group :=
  g.modLanes c.ps fun l ln => writeOp c.g (opndOf sh.d) c.h.d l (f l) ln

/-- A scalar result of D's type (R49). -/
def Ctx.writeScal (c : Ctx) (sh : Shape) (v : W64) (g : Group) : Group :=
  g.setS (scalNum c.h.d) (scalWrite (opndOf sh.d).ty v)

/-- An effect on the acting group only. -/
def Ctx.onGroup (c : Ctx) (s : State) (f : Group → Group) : Effect := .done (s.modGroup c.gid f)

/-- A computed value: in each participating lane, or once in uniform form (R35, R47). -/
def compute (sh : Group → Shape) (f : Nat → Nat → Nat → Nat) (c : Ctx) (s : State) : Effect :=
  let sh := sh c.g
  let v (l : Nat) : W64 :=
    BitVec.ofNat 64 (f (c.readA sh l).toNat (c.readB sh l).toNat (if sh.dUse == .write then 0 else (c.readD sh l).toNat))
  if c.ps.isEmpty then .done s
  else if c.uni then c.onGroup s (c.writeScal sh (v 0))
  else c.onGroup s (c.writeVec sh v)

/-- A test: a flag of each participating lane, or a scalar 0 or 1 in uniform form (R186). -/
def test (sh : Group → Shape) (f : Nat → Nat → Bool) (c : Ctx) (s : State) : Effect :=
  let sh := sh c.g
  let v (l : Nat) : Bool := f (c.readA sh l).toNat (c.readB sh l).toNat
  if c.ps.isEmpty then .done s
  else if c.uni then c.onGroup s fun g => g.setS (scalNum c.h.d) (if v 0 then 1 else 0)
  else c.onGroup s fun g => g.setFlags c.ps (clsNum c.h.d) v

/-- A result per element of width w: element k of up to three sources gives element k of D (R153, R185). -/
def mapElems (w : Nat) (f : Nat → Nat → Nat → Nat) : Nat → Nat → Nat → Nat → Nat
  | 0, _, _, _ => 0
  | n + 1, a, b, c =>
    f (a % 2 ^ w) (b % 2 ^ w) (c % 2 ^ w) % 2 ^ w
      + 2 ^ w * mapElems w f n (a / 2 ^ w) (b / 2 ^ w) (c / 2 ^ w)

end Sys2Proof.Machine
end

