-- ==== Sys2Proof/Machine/Integer.lean ====
section
/-!
DEFINITION. The integer, logic, bit and compare instructions (06_pipes.md R187 to R194).
-/

namespace Sys2Proof.Machine

def tyInt (ty : Ty) : Bool := [Ty.i8, .n8, .i16, .n16, .i32, .n32, .i64, .n64, .i8x4, .n8x4].contains ty
def tyMul (ty : Ty) : Bool := [Ty.i16, .n16, .i32, .n32, .i64, .n64].contains ty
def tySgn (ty : Ty) : Bool := [Ty.i8, .i16, .i32, .i64, .i8x4].contains ty
def tyLog (ty : Ty) : Bool := [Ty.b32, .i32, .n32, .i64, .n64].contains ty
def tyCmp (ty : Ty) : Bool := [Ty.i8, .n8, .i16, .n16, .i32, .n32, .i64, .n64].contains ty
def ty3264 (ty : Ty) : Bool := [Ty.i32, .n32, .i64, .n64].contains ty

/-- Latency and occupancy of the integer and logic pipe (R180). -/
def intLat (ty : Ty) : Nat × Nat := if tyPair ty then (6, 2) else (4, 1)
def mulLat (ty : Ty) : Nat × Nat := if tyPair ty then (10, 8) else (6, 2)

/-- A two-source integer instruction of R187 with no modifier. -/
def intShape (major minor : Nat) (h : Head) (tyOk : Bool) : Shape :=
  { major := major, minor := minor, tyOk := tyOk, modsOk := h.mods == 0, d := fDst h.ty, a := fSrc h.ty, b := fSrc h.ty,
    form := true, lat := intLat h.ty, uniLat := 4 }

/-- A two-source instruction with the modifier sat in bit 0. -/
def satShape (minor : Nat) (h : Head) (tyOk : Bool) : Shape :=
  { intShape 0x10 minor h tyOk with modsOk := decide (h.mods.toNat < 2) }

/-- A multiply of R187. -/
def mulShape (minor : Nat) (h : Head) : Shape :=
  { intShape 0x10 minor h (tyMul h.ty) with lat := mulLat h.ty, uniLat := if tyPair h.ty then 8 else 6 }

/-- One element of R188: the exact integer, clamped or taken modulo 2^w. -/
def intElem (ty : Ty) (w : Nat) (sat : Bool) (op : Int → Int → Int → Int) (a b c : Nat) : Nat :=
  let x := op (intOf ty w a) (intOf ty w b) (intOf ty w c)
  wrapInt w (if sat then clampInt (tySigned ty) w x else x)

/-- The container result of R188. -/
def intOp (h : Head) (sat : Bool) (op : Int → Int → Int → Int) (a b c : Nat) : Nat :=
  let (w, n) := tyElem h.ty
  mapElems w (intElem h.ty w sat op) n a b c

/-- sat of the instruction word (R188). -/
def satBit (h : Head) : Bool := h.mods.getLsbD 0

/-- IADD (R188). -/
def execIadd (h : Head) (s : State) : Host.Outcome State Fault Refusal :=
  issue (fun _ => satShape 0 h (tyInt h.ty)) h
    (compute (fun _ => satShape 0 h (tyInt h.ty)) (intOp h (satBit h) fun a b _ => a + b)) s

/-- ISUB (R188). -/
def execIsub (h : Head) (s : State) : Host.Outcome State Fault Refusal :=
  issue (fun _ => satShape 1 h (tyInt h.ty)) h
    (compute (fun _ => satShape 1 h (tyInt h.ty)) (intOp h (satBit h) fun a b _ => a - b)) s

/-- IMUL (R188). -/
def execImul (h : Head) (s : State) : Host.Outcome State Fault Refusal :=
  issue (fun _ => mulShape 2 h) h (compute (fun _ => mulShape 2 h) (intOp h false fun a b _ => a * b)) s

/-- IMULH (R188): the high half of the product. -/
def execImulh (h : Head) (s : State) : Host.Outcome State Fault Refusal :=
  issue (fun _ => mulShape 3 h) h
    (compute (fun _ => mulShape 3 h) (intOp h false fun a b _ => a * b / (2 : Int) ^ tyWidth h.ty)) s

def imadShape (h : Head) : Shape := { mulShape 4 h with dUse := .both }
/-- IMAD (R184, R188). -/
def execImad (h : Head) (s : State) : Host.Outcome State Fault Refusal :=
  issue (fun _ => imadShape h) h (compute (fun _ => imadShape h) (intOp h false fun a b c => a * b + c)) s

/-- IMIN (R188). -/
def execImin (h : Head) (s : State) : Host.Outcome State Fault Refusal :=
  issue (fun _ => intShape 0x10 5 h (tyInt h.ty)) h
    (compute (fun _ => intShape 0x10 5 h (tyInt h.ty)) (intOp h false fun a b _ => min a b)) s

/-- IMAX (R188). -/
def execImax (h : Head) (s : State) : Host.Outcome State Fault Refusal :=
  issue (fun _ => intShape 0x10 6 h (tyInt h.ty)) h
    (compute (fun _ => intShape 0x10 6 h (tyInt h.ty)) (intOp h false fun a b _ => max a b)) s

def unSatShape (minor : Nat) (h : Head) : Shape := { satShape minor h (tySgn h.ty) with b := .zero }
/-- IABS (R188). -/
def execIabs (h : Head) (s : State) : Host.Outcome State Fault Refusal :=
  issue (fun _ => unSatShape 7 h) h (compute (fun _ => unSatShape 7 h) (intOp h (satBit h) fun a _ _ => |a|)) s

/-- INEG (R188). -/
def execIneg (h : Head) (s : State) : Host.Outcome State Fault Refusal :=
  issue (fun _ => unSatShape 8 h) h (compute (fun _ => unSatShape 8 h) (intOp h (satBit h) fun a _ _ => -a)) s

/-- The flag number in MODS[2:0]. -/
def modFlag (h : Head) : Nat := h.mods.toNat % 8

def iaddcShape (h : Head) : Shape :=
  { intShape 0x10 9 h (ty3264 h.ty) with modsOk := decide (h.mods.toNat < 8),
                                          reads := flagItems (modFlag h), writes := flagItems (modFlag h) }

/-- IADDC (R189): in uniform form the carry-in is the lowest participating lane's, and every participating lane takes the
carry-out. -/
def execIaddc (h : Head) (s : State) : Host.Outcome State Fault Refusal :=
  issue (fun _ => iaddcShape h) h
    (fun c s =>
      let sh := iaddcShape h
      let w := tyWidth h.ty
      let k := modFlag h
      let cin (l : Nat) : Nat := if k != 0 && (c.g.lane l).flag k then 1 else 0
      let a (l : Nat) : Nat := (c.readA sh l).toNat
      let b (l : Nat) : Nat := (c.readB sh l).toNat
      if c.ps.isEmpty then .done s
      else if c.uni then
        let ci := cin (lowest c.ps)
        c.onGroup s fun g => (c.writeScal sh (BitVec.ofNat 64 ((a 0 + b 0 + ci) % 2 ^ w)) g).setFlags c.ps k
          fun _ => carryOut w (a 0) (b 0) ci
      else
        c.onGroup s fun g => (c.writeVec sh (fun l => BitVec.ofNat 64 ((a l + b l + cin l) % 2 ^ w)) g).setFlags c.ps k
          fun l => carryOut w (a l) (b l) (cin l)) s

/-! ## Logic and shifts -/

def logShape (minor : Nat) (h : Head) : Shape := intShape 0x11 minor h (tyLog h.ty)
def bitMask (h : Head) : Nat := 2 ^ tyWidth h.ty - 1

/-- AND (R190). -/
def execAndb (h : Head) (s : State) : Host.Outcome State Fault Refusal :=
  issue (fun _ => logShape 0 h) h (compute (fun _ => logShape 0 h) fun a b _ => a &&& b) s

/-- OR (R190). -/
def execOrb (h : Head) (s : State) : Host.Outcome State Fault Refusal :=
  issue (fun _ => logShape 1 h) h (compute (fun _ => logShape 1 h) fun a b _ => a ||| b) s

/-- XOR (R190). -/
def execXorb (h : Head) (s : State) : Host.Outcome State Fault Refusal :=
  issue (fun _ => logShape 2 h) h (compute (fun _ => logShape 2 h) fun a b _ => a ^^^ b) s

def notShape (h : Head) : Shape := { logShape 3 h with b := .zero }
/-- NOT (R190). -/
def execNotb (h : Head) (s : State) : Host.Outcome State Fault Refusal :=
  issue (fun _ => notShape h) h (compute (fun _ => notShape h) fun a _ _ => bitMask h - a) s

/-- ANDN (R190). -/
def execAndn (h : Head) (s : State) : Host.Outcome State Fault Refusal :=
  issue (fun _ => logShape 4 h) h (compute (fun _ => logShape 4 h) fun a b _ => a &&& (bitMask h - b)) s

/-- The shift count: the low 32 bits of B (R190). -/
def shiftCount (b : Nat) : Nat := b % 2 ^ 32

/-- SHL (R190). -/
def execShl (h : Head) (s : State) : Host.Outcome State Fault Refusal :=
  issue (fun _ => logShape 5 h) h
    (compute (fun _ => logShape 5 h) fun a b _ =>
      if shiftCount b < tyWidth h.ty then a * 2 ^ shiftCount b % 2 ^ tyWidth h.ty else 0) s

/-- SHR (R190). -/
def execShr (h : Head) (s : State) : Host.Outcome State Fault Refusal :=
  issue (fun _ => logShape 6 h) h
    (compute (fun _ => logShape 6 h) fun a b _ => if shiftCount b < tyWidth h.ty then a / 2 ^ shiftCount b else 0) s

/-- sar of R190: A read as signed whatever the type. -/
def sarValue (w a n : Nat) : Nat :=
  if n < w then wrapInt w (toSigned w a / (2 : Int) ^ n) else if toSigned w a < 0 then 2 ^ w - 1 else 0

/-- SAR (R190). -/
def execSar (h : Head) (s : State) : Host.Outcome State Fault Refusal :=
  issue (fun _ => logShape 7 h) h
    (compute (fun _ => logShape 7 h) fun a b _ => sarValue (tyWidth h.ty) a (shiftCount b)) s

/-- A w-bit value rotated left (R190). -/
def rotValue (w a n : Nat) : Nat := a * 2 ^ (n % w) % 2 ^ w + a / 2 ^ (w - n % w)

/-- ROT (R190). -/
def execRot (h : Head) (s : State) : Host.Outcome State Fault Refusal :=
  issue (fun _ => logShape 8 h) h
    (compute (fun _ => logShape 8 h) fun a b _ => rotValue (tyWidth h.ty) a (shiftCount b)) s

/-! ## Bits and compares -/

/-- The number of one bits below bit n. -/
def popBits (a : Nat) : Nat → Nat
  | 0 => 0
  | n + 1 => a / 2 ^ n % 2 + popBits a n

/-- The leading zero bits of an n-bit value. -/
def leadZeros (a : Nat) : Nat → Nat
  | 0 => 0
  | n + 1 => if a / 2 ^ n % 2 = 1 then 0 else 1 + leadZeros a n

/-- Bits 0 to n − 1 in reverse order (R191). -/
def revBits : Nat → Nat → Nat
  | 0, _ => 0
  | n + 1, a => a % 2 * 2 ^ n + revBits n (a / 2)

/-- popc and clz: a 32-bit result (R191). -/
def countShape (minor : Nat) (h : Head) : Shape :=
  { intShape 0x12 minor h (tyLog h.ty) with b := .zero, d := fDst .n32 }

/-- POPC (R191). -/
def execPopc (h : Head) (s : State) : Host.Outcome State Fault Refusal :=
  issue (fun _ => countShape 0 h) h (compute (fun _ => countShape 0 h) fun a _ _ => popBits a (tyWidth h.ty)) s

/-- CLZ (R191). -/
def execClz (h : Head) (s : State) : Host.Outcome State Fault Refusal :=
  issue (fun _ => countShape 1 h) h (compute (fun _ => countShape 1 h) fun a _ _ => leadZeros a (tyWidth h.ty)) s

def brevShape (h : Head) : Shape := { intShape 0x12 2 h (tyLog h.ty) with b := .zero }
/-- BREV (R191). -/
def execBrev (h : Head) (s : State) : Host.Outcome State Fault Refusal :=
  issue (fun _ => brevShape h) h (compute (fun _ => brevShape h) fun a _ _ => revBits (tyWidth h.ty) a) s

/-- bfx of R192. -/
def bfxValue (ty : Ty) (a b : Nat) : Nat :=
  let w := tyWidth ty
  let p := b % 256
  let n := min (b / 256 % 256) w
  let f := (intOf ty w a / (2 : Int) ^ p) % (2 : Int) ^ n
  wrapInt w (if tySigned ty && decide (n > 0) && f / (2 : Int) ^ (n - 1) % 2 == 1 then f - (2 : Int) ^ n else f)

/-- BFX (R192). -/
def execBfx (h : Head) (s : State) : Host.Outcome State Fault Refusal :=
  issue (fun _ => intShape 0x12 3 h (ty3264 h.ty)) h
    (compute (fun _ => intShape 0x12 3 h (ty3264 h.ty)) fun a b _ => bfxValue h.ty a b) s

/-- bfi of R192, bit by bit below bit i. -/
def bfiValue (p n a c : Nat) : Nat → Nat
  | 0 => 0
  | i + 1 => (if p ≤ i ∧ i < p + n then a / 2 ^ (i - p) % 2 else c / 2 ^ i % 2) * 2 ^ i + bfiValue p n a c i

def bfiShape (h : Head) : Shape := { intShape 0x12 4 h (tyLog h.ty) with dUse := .both }
/-- BFI (R184, R192). -/
def execBfi (h : Head) (s : State) : Host.Outcome State Fault Refusal :=
  issue (fun _ => bfiShape h) h
    (compute (fun _ => bfiShape h) fun a b c => bfiValue (b % 256) (b / 256 % 256) a c (tyWidth h.ty)) s

/-- One byte of prmb (R193). -/
def prmbByte (a c s : Nat) : Nat :=
  let x := (if s / 4 % 2 = 0 then a else c) / 256 ^ (s % 4) % 256
  match s / 8 % 4 with
  | 0 => x
  | 1 => if x ≥ 128 then 255 else 0
  | 2 => 0
  | _ => 255

/-- prmb of R193 over four selectors. -/
def prmbValue (a c b : Nat) : Nat :=
  prmbByte a c (b % 256) + 256 * prmbByte a c (b / 256 % 256) + 65536 * prmbByte a c (b / 65536 % 256)
    + 16777216 * prmbByte a c (b / 16777216 % 256)

def prmbShape (h : Head) : Shape := { intShape 0x12 5 h (h.ty == .b32) with dUse := .both }
/-- PRMB (R184, R193). -/
def execPrmb (h : Head) (s : State) : Host.Outcome State Fault Refusal :=
  issue (fun _ => prmbShape h) h (compute (fun _ => prmbShape h) fun a b c => prmbValue a c b) s

/-- D of a compare: a scalar in uniform form, else a flag (R186). -/
def flagOrScal (h : Head) : Fld := if isScal h.d then fScal else .cls 8
def flagWrites (h : Head) : List Item := if isScal h.d then [] else flagItems (clsNum h.d)

def icmpShape (h : Head) : Shape :=
  { intShape 0x12 6 h (tyCmp h.ty) with modsOk := decide (h.mods.toNat < 6), d := flagOrScal h, writes := flagWrites h }
/-- ICMP (R194). -/
def execIcmp (h : Head) (s : State) : Host.Outcome State Fault Refusal :=
  issue (fun _ => icmpShape h) h
    (test (fun _ => icmpShape h) fun a b =>
      icond h.mods.toNat (intOf h.ty (tyWidth h.ty) a) (intOf h.ty (tyWidth h.ty) b)) s

end Sys2Proof.Machine
end

