-- ==== Sys2Proof/Machine/Special.lean ====
section
/-!
DEFINITION. The approximated functions of the special-function unit (06_pipes.md R202, R203): their special values, and the bits of the unit,
which are free within the bound of R202. The exact value is computed in fixed point with 256 fraction bits, far finer than any bound.
-/

namespace Sys2Proof.Machine

/-- The special values of the special-function unit (R203); none where the value is an approximation. `fn` is the minor code:
1 frsq, 3 fexp2, 4 flog2, 5 fsin, 6 fcos, 7 ftanh. -/
def fspecial (fn : Nat) (f : Fmt) (env : FEnv) (v : FVal) : Option Nat :=
  let one := f.bias * 2 ^ f.fb
  let two := (f.bias + 1) * 2 ^ f.fb
  match v with
  | .nan n p => some (fnanResult f env.nanp [.nan n p])
  | .inf neg =>
    match fn with
    | 1 => some (if neg then fcanonNan f else 0)
    | 3 => some (if neg then 0 else finfPat f false)
    | 4 => some (if neg then fcanonNan f else finfPat f false)
    | 7 => some (fsignBit f neg + one)
    | _ => some (fcanonNan f)
  | .fin neg m e =>
    if m = 0 then
      match fn with
      | 1 => some (finfPat f neg)
      | 3 => some one
      | 4 => some (finfPat f true)
      | 6 => some one
      | _ => some (fsignBit f neg)
    else if neg && (fn == 1 || fn == 4) then some (fcanonNan f)
    else if fcompare (.fin neg m e) (.fin false 1 0) == 0 then
      match fn with
      | 1 => some one
      | 3 => some two
      | 4 => some 0
      | _ => none
    else none

/-! ## Exact values in fixed point -/

/-- One in the fixed point of this file. -/
def fxOne : Nat := 2 ^ 256

/-- Pi and the natural logarithm of 2. -/
def fxPi : Nat := 0x3243f6a8885a308d313198a2e03707344a4093822299f31d0082efa98ec4e6c89
def fxLn2 : Nat := 0xb17217f7d1cf79abc9e3b39803f2f6af40f343267298b62d8a0d175b8baafa2b

/-- m * 2^e in fixed point. -/
def fxOf (m : Nat) (e : Int) : Nat := if 0 ≤ e + 256 then m * 2 ^ (e + 256).toNat else m / 2 ^ (-(e + 256)).toNat

def fxMul (x y : Nat) : Nat := x * y / fxOne

/-- exp of t below 1: the series to 80 terms, innermost first. -/
def fxExp (t : Nat) : Nat := (List.range 80).foldl (fun acc k => fxOne + fxMul t acc / (80 - k)) fxOne

/-- 2 to the power of a fixed-point value of either sign. -/
def fxExp2 (neg : Bool) (x : Nat) : Nat :=
  let n := x / fxOne
  let f := x % fxOne
  let y := fxExp (fxMul f fxLn2)
  if neg then fxOne * fxOne / (y * 2 ^ n) else y * 2 ^ n

/-- The natural logarithm of z from 1 to 2, as twice the series of artanh. -/
def fxLn (z : Nat) : Nat :=
  let w := (z - fxOne) * fxOne / (z + fxOne)
  let w2 := fxMul w w
  ((List.range 90).foldl (fun (p : Nat × Nat) k => (p.1 + 2 * p.2 / (2 * k + 1), fxMul p.2 w2)) (0, w)).1

/-- The series of sine (`k0` 1) or cosine (`k0` 0) of t, to 80 terms. -/
def fxSeries (k0 t : Nat) : Int :=
  ((List.range 80).foldl (fun (p : Int × Nat) k =>
      (if k % 2 = 0 then p.1 + p.2 else p.1 - p.2, fxMul (fxMul p.2 t) t / ((2 * k + k0 + 1) * (2 * k + k0 + 2))))
    (0, if k0 = 1 then t else fxOne)).1

/-- The exact value of a function of (-1)^neg * m * 2^e, in fixed point, where R202 bounds it. -/
def specialRef (fn : Nat) (neg : Bool) (m : Nat) (e : Int) : Int :=
  let x := fxOf m e
  match fn with
  | 1 => (isqrt 400 (2 ^ (512 - e).toNat / m) 0 : Nat)
  | 3 => (fxExp2 neg x : Nat)
  | 4 =>
    let top : Int := (Nat.log2 m : Int) + e
    top * (fxOne : Int) + (fxLn (fxOf m (e - top)) * fxOne / fxLn2 : Nat)
  | 5 => let v := fxSeries 1 (x % (2 * fxPi)); if neg then -v else v
  | 6 => fxSeries 0 (x % (2 * fxPi))
  | _ =>
    let y := fxExp2 false (2 * (min x (64 * fxOne)) * fxOne / fxLn2)
    let v : Int := ((y - fxOne) * fxOne / (y + fxOne) : Nat)
    if neg then -v else v

/-! ## Bounds -/

/-- One unit in the last place of an f32 result, in fixed point. -/
def fxUlp (r : Int) : Nat := fxOf 1 ((max ((Nat.log2 r.natAbs : Int) - 256) (-126)) - 23)

/-- The bound of R202 for a result whose exact value is `r`; `small` says that |A| < 2^-4. -/
def fxBound (fn : Nat) (small : Bool) (r : Int) : Nat :=
  let u := fxUlp r
  match fn with
  | 1 => u
  | 3 => 2 * u
  | 4 => if r.natAbs < fxOne then max (2 * u) (2 ^ 234) else 2 * u
  | 7 => if small then max (2 * u) (2 ^ 234) else 2 * u
  | _ => 2 ^ 234

/-- An f32 pattern is within a bound of a value; the fixed point's own error, below 2^-40 of the bound, is allowed for. -/
def fxWithin (r : Int) (bound : Nat) (p : Nat) : Bool :=
  match fdecode fmtF32 p with
  | .fin neg m e =>
    let y : Int := if neg then -(fxOf m e : Int) else fxOf m e
    decide ((y - r).natAbs ≤ bound + bound / 2 ^ 40)
  | _ => false

/-- The bits of an approximated function for the f32 pattern of (-1)^neg * m * 2^e, m not 0 (R202): any within the bound, the same for the
same input. fexp2 overflows from 2^128 on, and reaches +0 at 2^-150 (R164, R203); fsin and fcos of an input above 2^20 are any
value in [-1, 1]. -/
@[irreducible] def specialBits (fn : Nat) (neg : Bool) (m : Nat) (e : Int) (x : Nat) : Nat :=
  let free := (Config.specialF32 fn (BitVec.ofNat 32 x)).toNat
  let size (k : Int) : Int := fcompare (.fin false m e) (.fin false 1 k)
  if fn = 3 && !neg && decide (0 ≤ size 7) then finfPat fmtF32 false
  else if fn = 3 && neg && decide (0 ≤ fcompare (.fin false m e) (.fin false 150 0)) then 0
  else if (fn = 5 || fn = 6) && decide (0 < size 20) then (if fxWithin 0 fxOne free then free else 0)
  else
    let r := specialRef fn neg m e
    if fxWithin r (fxBound fn (decide (size (-4) < 0)) r) free then free
    else froundMag fmtF32 { rm := .rne, ftz := false, nanp := false, sat := false } (decide (r < 0)) r.natAbs (-256) false

/-- A special function (R202, R203): the special value, else the unit's bits for the f32 input; an f16 or bf16 result is the f32 result rounded
under RNE. -/
def fspecialFn (fn : Nat) (f : Fmt) (env : FEnv) (a : Nat) : Nat :=
  let v := fin f env.ftz a
  match fspecial fn f env v with
  | some p => p
  | none =>
    match v with
    | .fin neg m e =>
      let y := specialBits fn neg m e (fencode fmtF32 { env with rm := .rne, ftz := false } v)
      if f.fb = 23 then fflush f env.ftz y else fencode f { env with rm := .rne } (fdecode fmtF32 y)
    | _ => fcanonNan f

end Sys2Proof.Machine
end

