-- ==== Sys2Proof/Machine/Float.lean ====
section
/-!
DEFINITION. The floating-point and special-function instructions (06_pipes.md R195 to R203).
-/

namespace Sys2Proof.Machine

def tyFp (ty : Ty) : Bool := [Ty.f16, .bf16, .f32, .f64, .f16x2, .bf16x2, .f32x2].contains ty
def tyFs (ty : Ty) : Bool := [Ty.f16, .bf16, .f32, .f64].contains ty
def tyTr (ty : Ty) : Bool := [Ty.f16, .bf16, .f32, .f16x2, .bf16x2].contains ty

/-- The modifier pair, and whether the type accepts it (R196). -/
def pairBit (h : Head) : Bool := h.mods.getLsbD 4
def pairOk (h : Head) : Bool := !pairBit h || h.ty == .f16x2 || h.ty == .bf16x2

/-- The rounding modifier rm (R196): 0 takes FMODE.RM. -/
def rmField (h : Head) : Nat := h.mods.toNat % 8
def rmEnv (h : Head) (fmode : W32) : FEnv :=
  match rmField h with
  | 1 => { fenv fmode with rm := .rne }
  | 2 => { fenv fmode with rm := .rtz }
  | 3 => { fenv fmode with rm := .rup }
  | 4 => { fenv fmode with rm := .rdn }
  | _ => fenv fmode

/-- The format of a type's elements; f32 for types that are no float. -/
def fmtOf (ty : Ty) : Fmt := (tyFmt ty).getD fmtF32

/-- A float operand field, a row pair with `.pair` (R196). -/
def fpFld (h : Head) (scal imm : Bool) : Fld :=
  .op { row := true, ind := true, scal := scal, imm := imm, ty := h.ty, dup := pairBit h }

/-- A float instruction of R195. -/
def fpShape (major minor : Nat) (h : Head) (tyOk modsOk : Bool) : Shape :=
  { major := major, minor := minor, tyOk := tyOk, modsOk := modsOk, d := fpFld h true false, a := fpFld h true true,
    b := fpFld h true true, form := true, lat := if h.ty == .f64 then (10, 4) else (5, 1),
    uniLat := if h.ty == .f64 then 8 else 5 }

/-- Number and width of the elements of an instruction, both rows counted with `.pair`. -/
def fpElems (h : Head) : Nat × Nat :=
  let (w, n) := tyElem h.ty
  (w, if pairBit h then 2 * n else n)

/-- An element operation on the whole container. -/
def fpOp (h : Head) (f : Nat → Nat → Nat → Nat) (a b c : Nat) : Nat := mapElems (fpElems h).1 f (fpElems h).2 a b c

/-- The modifier sat (R196). -/
def fpSat (h : Head) (y : Nat) : Nat := if h.mods.getLsbD 3 then fclamp01 (fmtOf h.ty) y else y

/-- rm, sat and pair as fadd takes them. -/
def rspOk (h : Head) : Bool := decide (rmField h ≤ 4) && pairOk h
def arithShape (minor : Nat) (h : Head) : Shape := fpShape 0x30 minor h (tyFp h.ty) (rspOk h)

/-- FADD (R197). -/
def execFadd (h : Head) (s : State) : Host.Outcome State Fault Refusal :=
  issue (fun _ => arithShape 0 h) h
    (fun c s => compute (fun _ => arithShape 0 h)
      (fpOp h fun a b _ => fpSat h (fadd (fmtOf h.ty) (rmEnv h c.g.fmode) a b)) c s) s

/-- FSUB (R197). -/
def execFsub (h : Head) (s : State) : Host.Outcome State Fault Refusal :=
  issue (fun _ => arithShape 1 h) h
    (fun c s => compute (fun _ => arithShape 1 h)
      (fpOp h fun a b _ => fpSat h (fsub (fmtOf h.ty) (rmEnv h c.g.fmode) a b)) c s) s

/-- FMUL (R197). -/
def execFmul (h : Head) (s : State) : Host.Outcome State Fault Refusal :=
  issue (fun _ => arithShape 2 h) h
    (fun c s => compute (fun _ => arithShape 2 h)
      (fpOp h fun a b _ => fpSat h (fmul (fmtOf h.ty) (rmEnv h c.g.fmode) a b)) c s) s

def ffmaShape (h : Head) : Shape := { arithShape 3 h with dUse := .both }
/-- FFMA (R171, R184, R197). -/
def execFfma (h : Head) (s : State) : Host.Outcome State Fault Refusal :=
  issue (fun _ => ffmaShape h) h
    (fun c s => compute (fun _ => ffmaShape h)
      (fpOp h fun a b d => fpSat h (ffma (fmtOf h.ty) (rmEnv h c.g.fmode) a b d)) c s) s

def mnmxShape (minor : Nat) (h : Head) : Shape :=
  fpShape 0x30 minor h (tyFp h.ty) (decide (h.mods.toNat % 16 = 0) && pairOk h)

/-- FMIN (R198). -/
def execFmin (h : Head) (s : State) : Host.Outcome State Fault Refusal :=
  issue (fun _ => mnmxShape 4 h) h
    (fun c s => compute (fun _ => mnmxShape 4 h)
      (fpOp h fun a b _ => fminmax false (fmtOf h.ty) (fenv c.g.fmode) a b) c s) s

/-- FMAX (R198). -/
def execFmax (h : Head) (s : State) : Host.Outcome State Fault Refusal :=
  issue (fun _ => mnmxShape 5 h) h
    (fun c s => compute (fun _ => mnmxShape 5 h)
      (fpOp h fun a b _ => fminmax true (fmtOf h.ty) (fenv c.g.fmode) a b) c s) s

/-- fcmp and fclass: a flag, or a scalar in uniform form (R186). -/
def fcmpShape (minor : Nat) (h : Head) (modsOk : Bool) : Shape :=
  { fpShape 0x30 minor h (tyFs h.ty) modsOk with d := flagOrScal h, a := fSrc h.ty, b := fSrc h.ty, writes := flagWrites h }

/-- FCMP (R199). -/
def execFcmp (h : Head) (s : State) : Host.Outcome State Fault Refusal :=
  issue (fun _ => fcmpShape 6 h (decide (h.mods.toNat < 8))) h
    (fun c s => test (fun _ => fcmpShape 6 h (decide (h.mods.toNat < 8)))
      (fcond (fmtOf h.ty) (fenv c.g.fmode).ftz h.mods.toNat) c s) s

def fclassShape (h : Head) (g : Group) : Shape :=
  { fcmpShape 7 h (h.mods == 0) with b := fScalRaw, extra := must (!isImm h.b || decide ((readRaw g h.b).toNat < 1024)) }
/-- FCLASS (R200): the stored pattern, without any flush. -/
def execFclass (h : Head) (s : State) : Host.Outcome State Fault Refusal :=
  issue (fclassShape h) h (test (fclassShape h) fun a b => b / 2 ^ fclassBit (fmtOf h.ty) a % 2 == 1) s

def frndShape (h : Head) : Shape :=
  { fpShape 0x30 8 h (tyFp h.ty) (rspOk h && !h.mods.getLsbD 3) with b := .zero }
/-- FRND (R201). -/
def execFrnd (h : Head) (s : State) : Host.Outcome State Fault Refusal :=
  issue (fun _ => frndShape h) h
    (fun c s => compute (fun _ => frndShape h) (fpOp h fun a _ _ => frnd (fmtOf h.ty) (rmEnv h c.g.fmode) a) c s) s

/-! ## The special-function unit -/

/-- frcp and fsqrt take rm and f64 as well (R195). -/
def sfuShape (minor : Nat) (h : Head) (rm : Bool) : Shape :=
  { fpShape 0x31 minor h (tyTr h.ty || (rm && h.ty == .f64)) (if rm then decide (h.mods.toNat ≤ 4) else h.mods == 0) with
    b := .zero
    lat := if h.ty == .f64 then (24, 16) else if (tyElem h.ty).2 = 2 then (12, 8) else (12, 4)
    uniLat := if h.ty == .f64 then 24 else 12 }

/-- FRCP (R202, R203). -/
def execFrcp (h : Head) (s : State) : Host.Outcome State Fault Refusal :=
  issue (fun _ => sfuShape 0 h true) h
    (fun c s => compute (fun _ => sfuShape 0 h true) (fpOp h fun a _ _ => frcp (fmtOf h.ty) (rmEnv h c.g.fmode) a) c s) s

/-- FSQRT (R202, R203). -/
def execFsqrt (h : Head) (s : State) : Host.Outcome State Fault Refusal :=
  issue (fun _ => sfuShape 2 h true) h
    (fun c s => compute (fun _ => sfuShape 2 h true) (fpOp h fun a _ _ => fsqrt (fmtOf h.ty) (rmEnv h c.g.fmode) a) c s) s

/-- The value of an approximated function, the same for the same input (R178, R202). -/
def approx (fn : Nat) (h : Head) (c : Ctx) (s : State) : Effect :=
  compute (fun _ => sfuShape fn h false) (fpOp h fun a _ _ => fspecialFn fn (fmtOf h.ty) (fenv c.g.fmode) a) c s

/-- FRSQ (R202, R203). -/
def execFrsq (h : Head) (s : State) : Host.Outcome State Fault Refusal :=
  issue (fun _ => sfuShape 1 h false) h (approx 1 h) s
/-- FEXP2 (R202, R203). -/
def execFexp2 (h : Head) (s : State) : Host.Outcome State Fault Refusal :=
  issue (fun _ => sfuShape 3 h false) h (approx 3 h) s
/-- FLOG2 (R202, R203). -/
def execFlog2 (h : Head) (s : State) : Host.Outcome State Fault Refusal :=
  issue (fun _ => sfuShape 4 h false) h (approx 4 h) s
/-- FSIN (R202, R203). -/
def execFsin (h : Head) (s : State) : Host.Outcome State Fault Refusal :=
  issue (fun _ => sfuShape 5 h false) h (approx 5 h) s
/-- FCOS (R202, R203). -/
def execFcos (h : Head) (s : State) : Host.Outcome State Fault Refusal :=
  issue (fun _ => sfuShape 6 h false) h (approx 6 h) s
/-- FTANH (R202, R203). -/
def execFtanh (h : Head) (s : State) : Host.Outcome State Fault Refusal :=
  issue (fun _ => sfuShape 7 h false) h (approx 7 h) s

end Sys2Proof.Machine
end

