-- ==== Sys2Proof/Machine/Convert.lean ====
section
/-!
DEFINITION. Conversion, pecks and narrow dot products (06_pipes.md R204 to R213).
-/

namespace Sys2Proof.Machine

/-! ## cvt -/

def tyScalConv (ty : Ty) : Bool :=
  [Ty.i8, .n8, .i16, .n16, .i32, .n32, .i64, .n64, .f16, .bf16, .f32, .f64, .e4m3, .e5m2].contains ty
def tyTwo (ty : Ty) : Bool := [Ty.f16x2, .bf16x2, .f32x2].contains ty
def tyFour (ty : Ty) : Bool := [Ty.e4m3x4, .e5m2x4, .i8x4, .n8x4].contains ty

/-- The pairs of R205. -/
def cvtPair (st dt : Ty) : Bool :=
  (tyScalConv st && tyScalConv dt && (st != dt || (tyFmt st).isSome)) || (tyTwo st && tyTwo dt)
    || (tyFour st && tyFour dt && (st != dt || (tyFmt st).isSome))

/-- One element converted (R206). -/
def cvtElem (st dt : Ty) (env : FEnv) (p : Nat) : Nat :=
  let ws := (tyElem st).1
  let wd := (tyElem dt).1
  let rmInt : Rm := match env.rm with | .sr _ => .rne | r => r
  match tyFmt st, tyFmt dt with
  | some fs, some fd => fencode fd env (fin fs env.ftz p)
  | some fs, none => ftoInt rmInt (tySigned dt) wd (fin fs env.ftz p)
  | none, some fd => fencode fd env (fofInt (intOf st ws p))
  | none, none => wrapInt wd (intOf st ws p)

/-- The elements in ascending order, each under SR taking one generator step (R167). -/
def cvtElems (st dt : Ty) (env : FEnv) (sr : Bool) : Nat → Nat → W32 → Nat × W32
  | 0, _, x => (0, x)
  | n + 1, a, x =>
    let x1 := if sr then srStep x else x
    let env1 := if sr then { env with rm := .sr x1.toNat } else env
    let e := cvtElem st dt env1 (a % 2 ^ (tyElem st).1)
    let r := cvtElems st dt env sr n (a / 2 ^ (tyElem st).1) x1
    (e + 2 ^ (tyElem dt).1 * r.1, r.2)

/-- Destinations to which SR applies (R206, R207). -/
def srDest (dt : Ty) : Bool := [Ty.bf16, .f16, .e4m3, .e5m2, .bf16x2, .f16x2, .e4m3x4, .e5m2x4].contains dt

def cvtShape (minor : Nat) (h : Head) : Shape :=
  let st := Ty.ofCode h.mods
  let wide := tyPair st || tyPair h.ty
  { major := 0x50, minor := minor, modsOk := cvtPair st h.ty && (minor == 0 || srDest h.ty),
    d := fDst h.ty, a := fSrc st, form := true, lat := if wide then (6, 2) else (5, 1), uniLat := if wide then 6 else 5 }

/-- A conversion, with SR where `sr` holds; in uniform form the lowest participating lane's generator steps (R206, R207). -/
def convert (minor : Nat) (h : Head) (sr : Bool) (c : Ctx) (s : State) : Effect :=
  let sh := cvtShape minor h
  let st := Ty.ofCode h.mods
  let v (l : Nat) (src : Nat) : Nat × W32 :=
    cvtElems st h.ty (fenv c.g.fmode) sr (tyElem h.ty).2 (c.readA sh src).toNat (c.g.lane l).sr
  if c.ps.isEmpty then .done s
  else if c.uni then
    let m := lowest c.ps
    c.onGroup s fun g => (c.writeScal sh (BitVec.ofNat 64 (v m 0).1) g).modLane m fun ln => { ln with sr := (v m 0).2 }
  else
    c.onGroup s fun g =>
      (c.writeVec sh (fun l => BitVec.ofNat 64 (v l l).1) g).modLanes c.ps fun l ln => { ln with sr := (v l l).2 }

/-- CVT (R206). -/
def execCvt (h : Head) (s : State) : Host.Outcome State Fault Refusal :=
  issue (fun _ => cvtShape 0 h) h (fun c s => convert 0 h (fmodeSr c.g.fmode && srDest h.ty) c s) s

/-- CVTSR (R207). -/
def execCvtsr (h : Head) (s : State) : Host.Outcome State Fault Refusal :=
  issue (fun _ => cvtShape 1 h) h (convert 1 h true) s

/-! ## Pecks -/

/-- Value c of a lane's source rows of qpack and qscale (R208): f32 in row A + c, or bf16x2 in row A + c/2. -/
def peckSrc (ftz b16 : Bool) (ln : Lane) (r k : Nat) : FVal :=
  if b16 then fin fmtBf16 ftz ((ln.row (r + k / 2)).toNat / 2 ^ (16 * (k % 2)) % 2 ^ 16)
  else fin fmtF32 ftz (ln.row (r + k)).toNat

/-- The rows of a peck source. -/
def fPeckSrc (b16 : Bool) : Fld := .op { row := true, ty := .b32, span := if b16 then 4 else 8 }

/-- Byte k of a row. -/
def rowByte (w : W32) (k : Nat) : Nat := w.toNat / 256 ^ k % 256

def qpackShape (h : Head) : Shape :=
  { major := 0x51, minor := 0, tyOk := h.ty == .q4, modsOk := decide (h.mods.toNat < 8), d := fRow .q4,
    a := fPeckSrc (h.mods.getLsbD 2), b := fRow .b32, lat := (8, 8) }

/-- Eight codes in ascending order, each under SR taking one generator step (R208). -/
def qpackCodes (rm : Rm) (sr : Bool) (scale : Nat) (src : Nat → FVal) : Nat → Nat → W32 → Nat × W32
  | 0, _, x => (0, x)
  | n + 1, k, x =>
    let x1 := if sr then srStep x else x
    let e := quantCode (if sr then .sr x1.toNat else rm) scale (src k)
    let r := qpackCodes rm sr scale src n (k + 1) x1
    (e + 16 * r.1, r.2)

/-- QPACK (R208). -/
def execQpack (h : Head) (s : State) : Host.Outcome State Fault Refusal :=
  issue (fun _ => qpackShape h) h
    (fun c s =>
      let sh := qpackShape h
      let env := fenv c.g.fmode
      let v (l : Nat) : Nat × W32 :=
        let ln := c.g.lane l
        qpackCodes env.rm (fmodeSr c.g.fmode) (rowByte ((c.readB sh l).setWidth 32) (h.mods.toNat % 4))
          (fun k => peckSrc env.ftz (h.mods.getLsbD 2) ln (rowOf c.g h.a l) k) 8 0 ln.sr
      c.onGroup s fun g =>
        (c.writeVec sh (fun l => BitVec.ofNat 64 (v l).1) g).modLanes c.ps fun l ln => { ln with sr := (v l).2 }) s

def qunpackShape (h : Head) : Shape :=
  { major := 0x51, minor := 1, tyOk := h.ty == .f32 || h.ty == .f16x2 || h.ty == .bf16x2,
    modsOk := decide (h.mods.toNat < 4), d := .op { row := true, ty := .b32, span := if h.ty == .f32 then 8 else 4 },
    a := fRow .b32, b := fRow .b32, lat := (8, 8) }

/-- A decoded code in a format (R158, R160): canonical in a NaN block. -/
def peckTo (f : Fmt) (env : FEnv) (scale code : Nat) : Nat :=
  match peckValue scale code with
  | .nan _ _ => fcanonNan f
  | v => fencode f env v

/-- Consecutive rows of a lane written. -/
def Lane.setRows (ln : Lane) (r : Nat) : List W32 → Lane
  | [] => ln
  | v :: vs => ({ ln.setRow r v with poison := ln.poison.filter (· != r) } : Lane).setRows (r + 1) vs

/-- QUNPACK (R209). -/
def execQunpack (h : Head) (s : State) : Host.Outcome State Fault Refusal :=
  issue (fun _ => qunpackShape h) h
    (fun c s =>
      let sh := qunpackShape h
      let env := fenv c.g.fmode
      let f := fmtOf h.ty
      let rows (l : Nat) : List W32 :=
        let codes := (c.readA sh l).toNat
        let scale := rowByte ((c.readB sh l).setWidth 32) (h.mods.toNat % 4)
        let e (k : Nat) : Nat := peckTo f env scale (codes / 16 ^ k % 16)
        if h.ty == .f32 then (List.range 8).map fun k => BitVec.ofNat 32 (e k)
        else (List.range 4).map fun j => BitVec.ofNat 32 (e (2 * j) + 65536 * e (2 * j + 1))
      c.onGroup s fun g => g.modLanes c.ps fun l ln => ln.setRows (rowOf c.g h.d l) (rows l)) s

def qscaleShape (h : Head) : Shape :=
  { major := 0x51, minor := 2, tyOk := h.ty == .q4, d := fRow .q4, a := fPeckSrc (h.mods.getLsbD 4), lat := (8, 8) }

/-- The scale exponent of a block (R210) from its 32 values. -/
def blockExp (pt : Nat) (vs : List FVal) : Nat :=
  if vs.any fisNan then 63
  else if vs.any fisInf then 62
  else
    let abs : FVal → FVal := fun v => match v with | .fin _ m e => .fin false m e | v => v
    peckScale pt (vs.foldl (fun m v => if fcompare (abs v) m > 0 then abs v else m) (.fin false 0 0))

/-- Lanes that read row r in a source lane where it is poisoned (R139, R474); TVAL in the form of R121, operand 1. -/
def crossPoison (c : Ctx) (src : Nat → List (Nat × Nat)) : List (Nat × W64) :=
  if c.g.lanes.all fun ln => ln.poison.isEmpty then []
  else c.ps.filterMap fun l =>
    (src l).findSome? fun e => if (c.g.lane e.1).poison.contains e.2 then some (l, indexTval 1 0 e.2) else none

/-- Poison first (R474), else the effect. -/
def orPoison (ls : List (Nat × W64)) (e : Effect) : Effect :=
  match ls with
  | [] => e
  | _ => .poison ls

/-- The lanes and rows of a block's 32 values (R210). -/
def blockRows (r : Nat) (b16 : Bool) (l : Nat) : List (Nat × Nat) :=
  (List.range 4).flatMap fun i => (List.range (if b16 then 4 else 8)).map fun k => (l / 4 * 4 + i, r + k)

/-- QSCALE (R210): the values of all four lanes of a block count, whether they participate or not; so does their poison (R474). -/
def execQscale (h : Head) (s : State) : Host.Outcome State Fault Refusal :=
  issue (fun _ => qscaleShape h) h
    (fun c s =>
      let env := fenv c.g.fmode
      let k := h.mods.toNat % 4
      let pt := h.mods.toNat / 4 % 4
      let r := rowOf c.g h.a 0
      let byte (l : Nat) : Nat :=
        64 * pt + blockExp pt ((List.range 32).map fun i =>
          peckSrc env.ftz (h.mods.getLsbD 4) (c.g.lane (l / 4 * 4 + i / 8)) r (i % 8))
      orPoison (crossPoison c fun l => blockRows r (h.mods.getLsbD 4) l)
        (c.onGroup s fun g => g.modLanes c.ps fun l ln =>
          let d := rowOf c.g h.d l
          ln.setRow d (setPart 8 k (ln.row d) (byte l)))) s

/-! ## Narrow dot products -/

def fTwoRows : Fld := .op { row := true, ty := .b32, span := 2 }
def qdotShape (h : Head) : Shape :=
  { major := 0x52, minor := 0, tyOk := h.ty == .f32, modsOk := decide (h.mods.toNat < 16), d := fRow .f32, a := fTwoRows,
    b := fTwoRows, dUse := .both, lat := (6, 1) }

/-- An exact sum of products and C rounded once to f32 (R211 to R213). R156 orders NaN operands A, B, C and not the elements of one: the model takes
all elements of A in ascending order, then those of B, then C. DESIGN CHOICE (log 69). -/
def dotRound (env : FEnv) (as bs : List FVal) (cv : FVal) : Nat :=
  fresult fmtF32 env (as ++ bs ++ [cv]) (fsumExact env.rm ((as.zip bs).map (fun p => fmulExact p.1 p.2) ++ [cv]))

/-- QDOT (R211). -/
def execQdot (h : Head) (s : State) : Host.Outcome State Fault Refusal :=
  issue (fun _ => qdotShape h) h
    (fun c s =>
      let sh := qdotShape h
      let env := fenv c.g.fmode
      let dec (l r k : Nat) : List FVal :=
        let ln := c.g.lane l
        (List.range 8).map fun i => peckValue (rowByte (ln.row (r + 1)) k) ((ln.row r).toNat / 16 ^ i % 16)
      c.onGroup s (c.writeVec sh fun l =>
        BitVec.ofNat 64 (dotRound env (dec l (rowOf c.g h.a l) (h.mods.toNat % 4)) (dec l (rowOf c.g h.b l) (h.mods.toNat / 4))
          (fin fmtF32 env.ftz (c.readD sh l).toNat)))) s

/-- The type as which dot8 reads B with x set (R212). -/
def dotOther : Ty → Ty
  | .i8x4 => .n8x4 | .n8x4 => .i8x4 | .e4m3x4 => .e5m2x4 | .e5m2x4 => .e4m3x4 | ty => ty

def dot8Shape (h : Head) : Shape :=
  { major := 0x52, minor := 1, tyOk := tyFour h.ty, modsOk := decide (h.mods.toNat < 2), d := fRow .b32, a := fRow h.ty,
    b := fSrc h.ty, dUse := .both, lat := (6, 1) }

/-- dot8 of R212 on one lane's containers. -/
def dot8Value (env : FEnv) (ta tb : Ty) (a b cv : Nat) : Nat :=
  match tyFmt ta, tyFmt tb with
  | some fa, some fb =>
    dotRound env ((List.range 4).map fun k => fdecode fa (a / 256 ^ k % 256))
      ((List.range 4).map fun k => fdecode fb (b / 256 ^ k % 256)) (fin fmtF32 env.ftz cv)
  | _, _ =>
    wrapInt 32 (((List.range 4).map fun k => intOf ta 8 (a / 256 ^ k % 256) * intOf tb 8 (b / 256 ^ k % 256)).sum + (cv : Int))

/-- DOT8 (R212). -/
def execDot8 (h : Head) (s : State) : Host.Outcome State Fault Refusal :=
  issue (fun _ => dot8Shape h) h
    (fun c s => compute (fun _ => dot8Shape h)
      (dot8Value (fenv c.g.fmode) h.ty (if h.mods.getLsbD 0 then dotOther h.ty else h.ty)) c s) s

def dot16Shape (h : Head) : Shape :=
  { major := 0x52, minor := 2, tyOk := h.ty == .f16x2 || h.ty == .bf16x2, modsOk := h.mods == 0, d := fRow .f32, a := fRow h.ty,
    b := fSrc h.ty, dUse := .both, lat := (6, 1) }

/-- DOT16 (R213). -/
def execDot16 (h : Head) (s : State) : Host.Outcome State Fault Refusal :=
  issue (fun _ => dot16Shape h) h
    (fun c s => compute (fun _ => dot16Shape h)
      (fun a b d =>
        let env := fenv c.g.fmode
        let e (x k : Nat) : FVal := fin (fmtOf h.ty) env.ftz (x / 65536 ^ k % 65536)
        dotRound env [e a 0, e a 1] [e b 0, e b 1] (fin fmtF32 env.ftz d)) c s) s

end Sys2Proof.Machine
end

