-- ==== Sys2Proof/Machine/Moves.lean ====
section
/-!
DEFINITION. Moves, special registers, index registers and remote deposit (04_rows.md R117 to R138, R148 to R151).
-/

namespace Sys2Proof.Machine

def ty32 (ty : Ty) : Bool := [Ty.b32, .i32, .n32, .f32, .f16x2, .bf16x2, .e4m3x4, .e5m2x4, .i8x4, .n8x4].contains ty
def ty64 (ty : Ty) : Bool := [Ty.i64, .n64, .f64, .f32x2].contains ty
/-- The types "32/64" of R128. -/
def tyRow (ty : Ty) : Bool := ty32 ty || ty64 ty

def movShape (h : Head) : Shape :=
  { major := 0x60, minor := 0, modsOk := h.mods == 0, d := fDst h.ty, a := fSrc h.ty, form := true, lat := (4, 1), uniLat := 4 }
/-- MOV (R130). -/
def execMov (h : Head) (s : State) : Host.Outcome State Fault Refusal :=
  issue (fun _ => movShape h) h (compute (fun _ => movShape h) fun a _ _ => a) s

def movwShape (h : Head) : Shape :=
  { major := 0x60, minor := 1, tyOk := [Ty.b32, .i32, .n32, .f32, .i64, .n64, .f64].contains h.ty, modsOk := h.mods == 0,
    d := fDst h.ty, params := .must, form := true, lat := (4, 1), uniLat := 4,
    extra := must (match h.params with | some p => litZero p.w3 | none => true) }
/-- The value of movw (R131). -/
def movwValue (v0 v1 v2 : W64) : Nat := v0.toNat % 2 ^ 31 + v1.toNat % 2 ^ 31 * 2 ^ 31 + v2.toNat % 4 * 2 ^ 62
/-- MOVW (R131). -/
def execMovw (h : Head) (s : State) : Host.Outcome State Fault Refusal :=
  issue (fun _ => movwShape h) h
    (fun c s =>
      let (v0, v1, v2, _) := paramValues c.g h
      compute (fun _ => movwShape h) (fun _ _ _ => movwValue v0 v1 v2) c s) s

def selShape (h : Head) : Shape :=
  { major := 0x60, minor := 2, modsOk := decide (h.mods.toNat < 16), d := fDst h.ty, a := fSrc h.ty, b := fSrc h.ty, form := true,
    lat := (4, 1), uniLat := 4, reads := flagItems (modFlag h) }
/-- SEL (R132): in uniform form the flag is the lowest participating lane's. -/
def execSel (h : Head) (s : State) : Host.Outcome State Fault Refusal :=
  issue (fun _ => selShape h) h
    (fun c s =>
      let sh := selShape h
      let pick (l src : Nat) : W64 :=
        if (c.g.lane l).flag (modFlag h) != h.mods.getLsbD 3 then c.readA sh src else c.readB sh src
      if c.ps.isEmpty then .done s
      else if c.uni then c.onGroup s (c.writeScal sh (pick (lowest c.ps) 0))
      else c.onGroup s (c.writeVec sh fun l => pick l l)) s

/-! ## Special registers -/

/-- TXST (R342): TICKET, OPEN, HOLD. -/
def txst (s : State) (gid : Nat) (g : Group) : W64 :=
  g.ticket.setWidth 64 ||| (if g.hasTx then 0x100000000 else 0) ||| (if s.tx.lock == some gid then 0x200000000 else 0)

/-- NGROUP: groups in the team, 2G if paired (R117). -/
def State.ngroup (s : State) (g : Group) : Nat :=
  match klookup s.teams g.team with | some t => if t.paired then 2 * t.ngroup else t.ngroup | none => 1

/-- The value of a special register in a lane (R117); none for an unassigned number. -/
def specialValue (s : State) (gid : Nat) (g : Group) (l n : Nat) : Option W64 :=
  let nat (v : Nat) : Option W64 := some (BitVec.ofNat 64 (v % 2 ^ 32))
  let team (f : Team → Nat) : Option W64 := nat (match klookup s.teams g.team with | some t => f t | none => 0)
  match n with
  | 0 => nat l
  | 1 => nat g.grpid
  | 2 => team (·.teamid)
  | 3 => team (·.task)
  | 4 => nat g.width
  | 5 => nat g.core
  | 6 => nat (pairOf g.core)
  | 7 => nat g.quarter
  | 8 => nat (s.ngroup g)
  | 9 => some (s.dieClock (dieOf g.core))
  | 16 => some (g.fmode.setWidth 64)
  | 17 => some g.gctl
  | 18 => some (txst s gid g)
  | 19 => some g.txcfg
  | 20 => some (g.sig.setWidth 64)
  | 21 => some ((g.lane l).sr.setWidth 64)
  | 24 => some ((g.counter 0).setWidth 64)
  | 25 => some ((g.counter 1).setWidth 64)
  | 26 => some ((g.counter 2).setWidth 64)
  | 27 => some ((g.counter 3).setWidth 64)
  | _ => none

/-- The assigned numbers (R117), the lane-scope ones and the writable ones. -/
def specialAssigned (n : Nat) : Bool := decide (n ≤ 9) || (decide (16 ≤ n) && decide (n ≤ 21)) || (decide (24 ≤ n) && decide (n ≤ 27))
def specialLane (n : Nat) : Bool := n == 0 || n == 21
def specialRw (n : Nat) : Bool := n == 16 || n == 17 || n == 19 || n == 21

/-- With D a scalar sget and xst take the uniform latency that R180 lists for them, although R47 makes an instruction with an A of kind 00 a
vector one: DEDUCED (log 70). -/
def sgetShape (h : Head) : Shape :=
  { major := 0x61, minor := 0, tyOk := h.ty == .b32, modsOk := h.mods == 0,
    d := .op { row := true, ind := true, scal := true, ty := .b32 }, a := .cls 256, lat := (4, 1), uniLat := 4,
    extra := must (specialAssigned (clsNum h.a) && !(specialLane (clsNum h.a) && isScal h.d)) }
/-- SGET (R133). -/
def execSget (h : Head) (s : State) : Host.Outcome State Fault Refusal :=
  issue (fun _ => sgetShape h) h
    (fun c s =>
      let v (l : Nat) : W64 := (specialValue s c.gid c.g l (clsNum h.a)).getD 0
      if c.ps.isEmpty then .done s
      else if isScal h.d then c.onGroup s fun g => g.setS (scalNum h.d) (v 0)
      else c.onGroup s (c.writeVec (sgetShape h) v)) s

/-- A write of a special register (R7, R118, R134, R163, R342): reserved bits are ignored. -/
def setSpecial (g : Group) (n : Nat) (v : W64) : Group :=
  match n with
  | 16 => { g with fmode := v.setWidth 32 &&& 0x3F }
  | 17 => { g with gctl := v &&& 1 }
  | 19 => { g with txcfg := v &&& 0xFF }
  | _ => g

def ssetShape (h : Head) : Shape :=
  { major := 0x61, minor := 1, tyOk := h.ty == .b32, modsOk := h.mods == 0, d := .cls 256, a := fSrc .b32,
    extra := must (specialRw (clsNum h.d) && (clsNum h.d == 21 || isScal h.a || isImm h.a)) }
/-- SSET (R134): the write is interlocked. -/
def execSset (h : Head) (s : State) : Host.Outcome State Fault Refusal :=
  issue (fun _ => ssetShape h) h
    (fun c s =>
      if c.ps.isEmpty then .done s
      else if clsNum h.d = 21 then
        c.onGroup s fun g => g.modLanes c.ps fun l ln => { ln with sr := (c.readA (ssetShape h) l).setWidth 32 }
      else c.onGroup s fun g => setSpecial g (clsNum h.d) (c.readA (ssetShape h) 0)) s

/-! ## Index registers -/

/-- INDEX_BOUND for a window written by xset or xld: operand 3, base + bound as supplied (R121). -/
def windowTrap (c : Ctx) (k : Nat) (sum : Nat) : Effect := .trap cIndex (c.ps.map fun l => (l, indexTval 3 k sum))

/-- Offsets of the participating lanes from A mod 4,096. -/
def offsetsFromA (c : Ctx) (sh : Shape) (k : Nat) (g : Group) : Group :=
  g.modLanes c.ps fun l ln => ln.setOff k ((c.readA sh l).setWidth 12)

def xsetShape (h : Head) : Shape :=
  { major := 0x62, minor := 0, tyOk := h.ty == .b32, modsOk := decide (h.mods.toNat < 2), d := .cls 16,
    a := if h.mods.getLsbD 0 then .zero else fSrc .b32, params := .must, skipIx := some (clsNum h.d),
    extra := must (match h.params with | some p => litZero p.w3 | none => true) }
/-- XSET (R135). -/
def execXset (h : Head) (s : State) : Host.Outcome State Fault Refusal :=
  issue (fun _ => xsetShape h) h
    (fun c s =>
      let (v0, v1, v2, _) := paramValues c.g h
      let k := clsNum h.d
      let base := v0.toNat
      let bound := v1.toNat
      if c.ps.isEmpty then .done s
      else if base > 2047 ∨ bound > 4095 ∨ base + bound > c.g.nrows then windowTrap c k (base + bound)
      else c.onGroup s fun g =>
        let g := g.setIndex k { base := BitVec.ofNat 11 base, bound := BitVec.ofNat 12 bound, step := v2.setWidth 8 }
        if h.mods.getLsbD 0 then g else offsetsFromA c (xsetShape h) k g) s

def xldShape (h : Head) : Shape :=
  { major := 0x62, minor := 1, tyOk := h.ty == .b32, modsOk := h.mods == 0, d := .cls 16, a := fSrc .b32, b := fScal,
    skipIx := some (clsNum h.d) }
/-- XLD (R136). -/
def execXld (h : Head) (s : State) : Host.Outcome State Fault Refusal :=
  issue (fun _ => xldShape h) h
    (fun c s =>
      let u := readNum c.g h.b
      let k := clsNum h.d
      let sum := (u.extractLsb' 0 11).toNat + (u.extractLsb' 11 12).toNat
      if c.ps.isEmpty then .done s
      else if u.extractLsb' 31 33 ≠ 0 ∨ sum > c.g.nrows then windowTrap c k sum
      else c.onGroup s fun g =>
        offsetsFromA c (xldShape h) k
          (g.setIndex k { base := u.extractLsb' 0 11, bound := u.extractLsb' 11 12, step := u.extractLsb' 23 8 })) s

/-- The packed form IXU of an index register (R119). -/
def ixuOf (x : Index) : W64 := (0#33 ++ x.step ++ x.bound ++ x.base : BitVec 64)

def xstShape (h : Head) : Shape :=
  { major := 0x62, minor := 2, tyOk := h.ty == .b32, modsOk := h.mods == 0, d := fDst .b32, a := .cls 16, lat := (4, 1), uniLat := 4 }
/-- XST (R137). -/
def execXst (h : Head) (s : State) : Host.Outcome State Fault Refusal :=
  issue (fun _ => xstShape h) h
    (fun c s =>
      let k := clsNum h.a
      if c.ps.isEmpty then .done s
      else if isScal h.d then c.onGroup s fun g => g.setS (scalNum h.d) (ixuOf (c.g.index k))
      else c.onGroup s (c.writeVec (xstShape h) fun l => ((c.g.lane l).off k).setWidth 64)) s

def xaddShape (h : Head) : Shape :=
  { major := 0x62, minor := 3, tyOk := h.ty == .b32, modsOk := h.mods == 0, d := .cls 16, a := fSrc .b32,
    skipIx := some (clsNum h.d) }
/-- XADD (R138): the sum modulo 4,096 takes only the low 12 bits of the signed addend. -/
def execXadd (h : Head) (s : State) : Host.Outcome State Fault Refusal :=
  issue (fun _ => xaddShape h) h
    (fun c s => c.onGroup s fun g => g.modLanes c.ps fun l ln =>
      ln.setOff (clsNum h.d) (ln.off (clsNum h.d) + (c.readA (xaddShape h) l).setWidth 12)) s

/-! ## Remote deposit -/

/-- A group of a team by its GRPID. -/
def State.groupOf (s : State) (team grpid : Nat) : Option Nat :=
  (s.groups.find? fun e => e.2.team == team && e.2.grpid == grpid).map (·.1)

/-- A group has ended when every lane has retired (R74). -/
def Group.ended (g : Group) : Bool := !(g.lanes.any (·.live))

def rwrShape (h : Head) : Shape :=
  { major := 0x64, minor := 0, tyOk := h.ty == .b32, modsOk := decide (h.mods.toNat < 4), d := fDirect .b32, a := fRow .b32,
    b := fScalRaw, dUse := .other, region := true }
/-- RWR (R148, R149): B is compared with GRPID whole, all 64 bits of a scalar and an immediate sign-extended, since the instruction takes no
type: DESIGN CHOICE (log 64). The deposit travels, and REMOTE_DEPOSIT_ARRIVE delivers it. -/
def execRwr (h : Head) (s : State) : Host.Outcome State Fault Refusal :=
  issue (fun _ => rwrShape h) h
    (fun c s =>
      let n := readNum c.g h.b
      if c.ps.isEmpty then .done s
      else
        match s.groupOf c.g.team n.toNat with
        | some t =>
          if (match klookup s.groups t with | some g => g.ended | none => true) then
            .trap cAccess (c.ps.map fun l => (l, n))
          else
            .done (s.addOp (.deposit { src := c.gid, dst := t, row := rowOf c.g h.d 0, ctr := h.mods.toNat,
                                       vals := c.ps.map fun l => (l, (c.readA (rwrShape h) l).setWidth 32) }))
        | none => .trap cAccess (c.ps.map fun l => (l, n))) s

/-- An older deposit of the same source to the same target is still on its way. -/
def depositBlocked (s : State) (k src dst : Nat) : Bool :=
  s.ops.any fun e =>
    match e.2 with
    | .deposit d => decide (e.1 < k) && d.src == src && d.dst == dst
    | _ => false

/-- What an earlier fixed-latency producer of a deposited row still holds for a lane: nothing where the deposit is the last write, else
the deposited value, which an early reader may still find before the producer's result (R55, R150). -/
def settlePend (t row l : Nat) (v : Option W64) (p : Pend) : Pend :=
  if p.item = .row row ∧ t < p.due then
    { p with olds := match v with
        | none => p.olds.filter fun e => e.1 != l
        | some v => p.olds.map fun e => if e.1 = l then (l, v) else e }
  else p

/-- One lane's value lands in row `row` of the target (R148), whole and without poison (R472). Where an earlier fixed-latency result for it is
not yet due, either write may be the last (R150). -/
def Group.depositLane (g : Group) (n t row l : Nat) (v : W32) : Group :=
  let racing := g.pend.any fun p => p.item == .row row && decide (t < p.due) && (p.olds.lookup l).isSome
  if racing && Config.freeBit n (3000 + l) then { g with pend := g.pend.map (settlePend t row l (some (v.setWidth 64))) }
  else
    let g1 := g.modLane l fun ln => (ln.setRow row v).setPoison row false
    { g1 with pend := g1.pend.map (settlePend t row l none) }

/-- Values of a deposit land in the lanes listed; they are discarded where the target has ended (R148). -/
def State.landLanes (s : State) (d : Deposit) (vals : KMap W32) : State :=
  match klookup s.groups d.dst with
  | none => s
  | some g => if g.ended then s else s.setGroup d.dst (vals.foldl (fun g e => g.depositLane s.free s.clock d.row e.1 e.2) g)

/-- The rest of the deposit and then its count reach the target (R148); both are discarded where the target has ended. -/
def State.deliver (s : State) (k : Nat) (d : Deposit) : State :=
  ((s.delOp k).landLanes d d.vals).modGroup d.dst fun g => if g.ended then g else g.setCounter d.ctr (g.counter d.ctr + 1)

/-- One lane of a deposit in flight lands before the others (R150). -/
def State.landLane (s : State) (k lane : Nat) : State :=
  match klookup s.ops k with
  | some (.deposit d) =>
    match klookup d.vals lane with
    | some v =>
      if depositBlocked s k d.src d.dst then s
      else (s.setOp k (.deposit { d with vals := kerase d.vals lane })).landLanes d [(lane, v)]
    | none => s
  | _ => s

/-- REMOTE_DEPOSIT_ARRIVE (R148, R149): in issue order for one source and target. -/
def execRemoteDepositArrive (dep : Nat) (s : State) : Host.Outcome State Fault Refusal :=
  match klookup s.ops dep with
  | some (.deposit d) => .next (if depositBlocked s dep d.src d.dst then s else s.deliver dep d)
  | _ => .next s

def awaitShape (h : Head) (g : Group) : Shape :=
  { major := 0x64, minor := 1, tyOk := h.ty == .b32, modsOk := h.mods == 0, d := .cls 4, a := fScalRaw, region := true,
    extra := must (!isImm h.a || decide ((readRaw g h.a).toNat < 65536)) }
/-- AWAIT (R151). -/
def execAwaitc (h : Head) (s : State) : Host.Outcome State Fault Refusal :=
  issue (awaitShape h) h
    (fun c s =>
      let k := clsNum h.d
      let n := (readRaw c.g h.a).toNat % 65536
      if c.ps.isEmpty || n == 0 then .done s
      else if n ≤ (c.g.counter k).toNat then c.onGroup s fun g => g.setCounter k (g.counter k - BitVec.ofNat 16 n)
      else .block s (.await k n)) s

/-- A group of a halted team does not act. -/
def State.groupHalted (s : State) (g : Group) : Bool :=
  match klookup s.teams g.team with | some t => t.halted | none => false

/-- AWAIT_SATISFIED (R151): the test and the subtraction are one step. -/
def execAwaitSatisfied (gid : Nat) (s : State) : Host.Outcome State Fault Refusal :=
  match klookup s.groups gid with
  | some g =>
    match g.wait with
    | .await k n =>
      if n ≤ (g.counter k).toNat && !s.groupHalted g then
        .next (s.setGroup gid ((g.setCounter k (g.counter k - BitVec.ofNat 16 n)).completeHeld s.clock))
      else .next s
    | _ => .next s
  | none => .next s

end Sys2Proof.Machine
end

