-- ==== Sys2Proof/Machine/Scratch.lean ====
section
/-!
DEFINITION. Generic addresses (07_local.md R221 to R223), the scratchpad of a team, and barrier objects (R240 to R244).
-/

namespace Sys2Proof.Machine

/-! ## Generic addresses -/

/-- First address of a window register (R221); a BASE below 0x0040_0000 acts as 0x0040_0000. -/
def apBase (r : W64) : Nat := max (r.toNat / 2 ^ 32) 0x400000 * 2 ^ 32

/-- The spaces of R222. -/
inductive Space where
  | glob | scr | pair | loc | none
  deriving DecidableEq, Repr

/-- The space of a generic address and its offset there; the first of scratch, pair and local that contains it (R221, R222). -/
def State.spaceOf (s : State) (core : Nat) (a : W64) : Space × Nat :=
  let d := s.die (dieOf core)
  let g := a.toNat
  let has (r : W64) : Bool := decide (apBase r ≤ g ∧ g < apBase r + 2 ^ 32)
  if g < 2 ^ 54 then (.glob, g)
  else if has d.apscr then (.scr, g - apBase d.apscr)
  else if has d.appair then (.pair, g - apBase d.appair)
  else if has d.aploc then (.loc, g - apBase d.aploc)
  else (.none, 0)

/-- Sp and Pp of R222. -/
def Team.sp (t : Team) : Nat := if t.paired then 2 * t.sbytes else t.sbytes
def Team.pp (t : Team) : Nat := if t.paired then t.sbytes else 0

/-- Where an access of n bytes falls: beyond its scratchpad, nowhere, an offset of the team's union, or virtual bytes. -/
inductive Target where
  | bound
  | deny
  | scr (off : Nat)
  | virt (ps : List (Nat × Nat))
  deriving DecidableEq, Repr

/-- Groups of a team (NGROUP, R117). -/
def Team.count (t : Team) : Nat := if t.paired then 2 * t.ngroup else t.ngroup

/-- The virtual address of private offset x of a lane (R223). The sum is taken modulo 2^64, as R226 says of address arithmetic; whether that
reaches R223's sum the manual does not say: DESIGN CHOICE (log 77). -/
def localVa (t : Team) (g : Group) (l x : Nat) : Nat :=
  (t.locbase.toNat + (t.teamid * t.count + g.grpid) * t.locsize * g.width + x / 4 * 4 * g.width + 4 * l + x % 4) % 2 ^ 64

/-- The 4-byte words of a private access, each at its own virtual address (R223). -/
def localPieces (t : Team) (g : Group) (l x n : Nat) : List (Nat × Nat) :=
  if n ≤ 4 then [(localVa t g l x, n)] else (List.range (n / 4)).map fun k => (localVa t g l (x + 4 * k), 4)

/-- The decode of R222 for an access of n bytes; `l` is none for an access with no lane (R233). -/
def State.target (s : State) (g : Group) (l : Option Nat) (a : W64) (n : Nat) : Target :=
  match s.spaceOf g.core a, klookup s.teams g.team with
  | (.glob, v), _ => .virt [(v, n)]
  | (.scr, x), some t => if x + n ≤ t.sp then .scr x else .bound
  | (.pair, x), some t =>
    if x + n ≤ t.pp then .scr (if g.core % 2 = 0 then t.sbytes + x else x) else .bound
  | (.loc, x), some t =>
    match l with
    | some l => if x + n ≤ t.locsize then .virt (localPieces t g l x n) else .deny
    | none => .deny
  | (.scr, _), none => .bound
  | (.pair, _), none => .bound
  | _, _ => .deny

/-! ## Scratchpad -/

/-- The core that holds a scratch offset (R219). -/
def Team.coreOf (t : Team) (off : Nat) : Nat := if t.paired then 2 * pairOf t.core + (if off < t.sbytes then 0 else 1) else t.core

def Team.scrBytes (t : Team) (off n : Nat) : List Byte := kgetRun 0 t.scratch off n

/-- Poisoned 8-byte words in a range (R473). -/
def Team.scrPoison (t : Team) (off n : Nat) : Bool := t.spoison.any fun w => decide (w * 8 < off + n ∧ off < w * 8 + 8)

/-- Bytes written; a poisoned word that is written whole is clean again. -/
def Team.scrPut (t : Team) (off : Nat) (bs : List Byte) : Team :=
  { t with scratch := ksetRun 0 t.scratch off bs,
           spoison := t.spoison.filter fun w => !decide (off ≤ w * 8 ∧ w * 8 + 8 ≤ off + bs.length) }

/-! ## Barrier objects -/

/-- The 128 bits of an object (R240) and their fields. -/
def Team.obj (t : Team) (off : Nat) : BitVec 128 := BitVec.ofNat 128 (leNat (t.scrBytes off 16))
def objPend (o : BitVec 128) : BitVec 40 := o.extractLsb' 0 40
def objExp (o : BitVec 128) : BitVec 16 := o.extractLsb' 40 16
def objArr (o : BitVec 128) : BitVec 16 := o.extractLsb' 56 16
def objPhase (o : BitVec 128) : Bool := o.getLsbD 72

/-- An object with its fields replaced; ERR is bit 74 and OVF bit 75. -/
def mkObj (pend : BitVec 40) (exp arr : BitVec 16) (phase err ovf : Bool) : BitVec 128 :=
  (0#52 ++ BitVec.ofBool ovf ++ BitVec.ofBool err ++ 0#1 ++ BitVec.ofBool phase ++ arr ++ exp ++ pend : BitVec 128)

/-- The completion step (R242). -/
def completeObj (o : BitVec 128) : BitVec 128 :=
  if objExp o ≠ 0 ∧ objArr o = objExp o ∧ objPend o = 0 then
    (o &&& ~~~(0x1FFFF00000000000000 : BitVec 128)) ||| (if objPhase o then 0 else (0x1000000000000000000 : BitVec 128))
  else o

/-- A count-down of n bytes (R243): PEND falls modulo 2^40, ERR is set for failed bytes, and the completion step runs. -/
def countObj (o : BitVec 128) (n : Nat) (err : Bool) : BitVec 128 :=
  let pend := objPend o - BitVec.ofNat 40 n
  let keep := o &&& ~~~(0xFFFFFFFFFF : BitVec 128)
  completeObj (keep ||| pend.setWidth 128 ||| (if err then (0x4000000000000000000 : BitVec 128) else 0))

/-- A unit becomes a barrier object (R244). -/
def Team.markObj (t : Team) (off : Nat) : Team :=
  if t.objs.contains (off / 16) then t else { t with objs := t.objs ++ [off / 16] }
/-- An update of an object (R242). -/
def Team.putObj (t : Team) (off : Nat) (o : BitVec 128) : Team :=
  { t.scrPut off (leBytes 16 o.toNat) with upd := if t.upd.contains (off / 16) then t.upd else t.upd ++ [off / 16] }

/-- A plain store: bytes, then the completion step of every object it touches (R244). -/
def Team.scrStore (t : Team) (off : Nat) (bs : List Byte) : Team :=
  let t1 := t.scrPut off bs
  (t1.objs.filter fun u => decide (u * 16 < off + bs.length ∧ off < u * 16 + 16)).foldl
    (fun t u => t.putObj (u * 16) (completeObj (t.obj (u * 16)))) t1

def Team.countDown (t : Team) (off n : Nat) (err : Bool) : Team :=
  (t.markObj off).putObj off (countObj (t.obj off) n err)
def State.countDown (s : State) (team off n : Nat) (err : Bool) : State := s.modTeam team fun t => t.countDown off n err

/-- The check of a barrier object's address (R241): its union offset, or the cause. -/
def State.objAddr (s : State) (g : Group) (a : W64) (align n : Nat) : Nat × Option Nat :=
  if a.toNat % align ≠ 0 then (0, some cAlign)
  else
    match s.target g none a n with
    | .scr off => (off, none)
    | .bound => (0, some cScratch)
    | _ => (0, some cAccess)

end Sys2Proof.Machine
end

