-- ==== Sys2Proof/Machine/Translate.lean ====
section
/-!
DEFINITION. Page tables, translation caches and replayable faults (08_memory.md R255 to R272, 19_programs_faults.md R506).
-/

namespace Sys2Proof.Machine

/-! ## Entries -/

/-- Fields of a page-table entry (R257). -/
def pteV (p : BitVec 128) : Bool := p.getLsbD 0
def pteType (p : BitVec 128) : Nat := (p.extractLsb' 1 2).toNat
def pteR (p : BitVec 128) : Bool := p.getLsbD 4
def pteW (p : BitVec 128) : Bool := p.getLsbD 5
def pteX (p : BitVec 128) : Bool := p.getLsbD 6
def pteU (p : BitVec 128) : Bool := p.getLsbD 7
def pteA (p : BitVec 128) : Bool := p.getLsbD 8
def pteD (p : BitVec 128) : Bool := p.getLsbD 9
def ptePa (p : BitVec 128) : Nat := (p.extractLsb' 14 38).toNat * 2 ^ 14
def pteG (p : BitVec 128) : Bool := p.getLsbD 102
def pteCont (p : BitVec 128) : Nat := (p.extractLsb' 103 2).toNat
def pteIl (p : BitVec 128) : Nat := (p.extractLsb' 105 2).toNat
def pteGd (p : BitVec 128) : Bool := p.getLsbD 107
def pteGeo (p : BitVec 128) : Nat := (p.extractLsb' 108 3).toNat
def pteFmt (p : BitVec 128) : Nat := (p.extractLsb' 111 5).toNat
def pteKey (p : BitVec 128) : Nat := (p.extractLsb' 116 12).toNat

/-- Size in 16 KiB pages of a leaf at a level (R256). -/
def leafPages (level : Nat) : Nat := match level with | 1 => 2 ^ 20 | 2 => 2 ^ 10 | _ => 1

/-- The interleave mode a window accepts (R252); 4 for none. -/
def windowIl (w : Nat) : Nat := if w < 4 then 0 else if w = 4 then 1 else if w < 7 then 0 else if w = 7 then 4 else 2

/-- The destination package and the address there of a domain address (R419). -/
def domainPkg (pa : Nat) : Nat := pa / 2 ^ 43 % 256
def domainAddr (pa : Nat) : Nat := pa % 2 ^ 43
/-- A domain address that names no package or no window (R419). -/
def domainBad (pa : Nat) : Bool := isDomain pa && decide (domainPkg pa > 191 ∨ pa / 2 ^ 40 % 8 ≥ 5)

/-- A valid entry found at a level is malformed (R258, R419). -/
def pteMalformed (level : Nat) (p : BitVec 128) : Bool :=
  match pteType p with
  | 0 => level == 3
  | 1 =>
    level == 0 || ptePa p % (leafPages level * 2 ^ 14) != 0 || p.extractLsb' 52 50 != 0 || p.extractLsb' 10 4 != 0
      || p.getLsbD 3 || pteIl p == 3 || pteCont p == 3 || windowIl (windowOf (ptePa p)) != pteIl p || domainBad (ptePa p)
  | _ => true

/-- Bytes of a table: at their home (R256), from the device registers (R252), or as another package has answered them (R274, R282). -/
def State.tableBytes (s : State) (pa n : Nat) : List Byte :=
  if isDevReg pa then s.devRead pa n else if isDomain pa then kget [] s.mem.tables pa else s.homeBytes pa n

/-- Sixteen bytes at a table entry. -/
def State.readPte (s : State) (pa : Nat) : BitVec 128 := BitVec.ofNat 128 (leNat (s.tableBytes pa 16))

/-- The outcome of a walk; an absent entry with the page sought and the size of the fault's granule in pages. -/
inductive Walk where
  | malformed
  | absent (level page pages : Nat)
  | leaf (pte : BitVec 128) (level eaddr : Nat)
  deriving DecidableEq, Repr

/-- Index of a virtual address at a level (R256). -/
def vaIndex (va level : Nat) : Nat := va / 2 ^ (44 - 10 * level) % 1024

/-- The granule of a fault (R506): the block a level-3 entry's CONT names, else 16 KiB. -/
def faultPages (level : Nat) (p : BitVec 128) : Nat :=
  if level = 3 then (match pteCont p with | 1 => 4 | 2 => 128 | _ => 1) else 1

/-- A walk from a table at a level down (R256, R258, R267). -/
def State.walkFrom (s : State) (va : Nat) : Nat → Nat → Nat → Walk
  | 0, _, _ => .malformed
  | fuel + 1, level, table =>
    let ea := table + 16 * vaIndex va level
    let p := s.readPte ea
    if !pteV p then .absent level (va / 2 ^ 14) (faultPages level p)
    else if pteMalformed level p then .malformed
    else if pteType p = 1 then .leaf p level ea
    else s.walkFrom va fuel (level + 1) (ptePa p)

/-- The root table's entry of an ASID (R255). -/
def State.rootEntry (s : State) (asid : Nat) : Nat := s.pkg.ptroot.toNat / 2 ^ 19 % 2 ^ 33 * 2 ^ 19 + 8 * asid

/-- The level-0 table of an ASID (R255). -/
def State.rootTable (s : State) (asid : Nat) : Nat := leNat (s.tableBytes (s.rootEntry asid) 8) / 2 ^ 14 % 2 ^ 38 * 2 ^ 14

/-- The address bits above a level (R256). -/
def vaAbove (va level : Nat) : Nat := va / 2 ^ (54 - 10 * level)

/-- The tables that a walk visits, each with its level. -/
def State.walkTables (s : State) (va : Nat) : Nat → Nat → Nat → List (Nat × Nat)
  | 0, _, _ => []
  | fuel + 1, level, table =>
    let p := s.readPte (table + 16 * vaIndex va level)
    (level, table) :: (if pteV p && !pteMalformed level p && pteType p == 0 then s.walkTables va fuel (level + 1) (ptePa p) else [])

/-- Where a die's walk begins: at the level-0 table, or at a cached table that memory no longer names, which may be used until a tlbi
(R266). -/
def State.walkStart (s : State) (die asid va : Nat) : Nat × Nat :=
  let root := s.rootTable asid
  let now := s.walkTables va 4 0 root
  match s.mem.walks.find? fun w => w.die == die && w.asid == asid && w.pre == vaAbove va w.level && !now.contains (w.level, w.table)
      && Config.freeBit s.free (w.table + w.level) with
  | some w => (w.level, w.table)
  | none => (0, root)

/-- A walk of a die under an ASID (R255). -/
def State.walk (s : State) (die asid va : Nat) : Walk :=
  let w := s.walkStart die asid va
  s.walkFrom va (4 - w.1) w.1 w.2

/-! ## Translation caches -/

/-- An entry translates an address of an ASID (R266). -/
def TlbEntry.covers (e : TlbEntry) (asid va : Nat) : Bool :=
  (e.asid == asid || pteG e.pte) && decide (e.vpn ≤ va / 2 ^ 14 ∧ va / 2 ^ 14 < e.vpn + e.size)

/-- The unit that translates: a core through its L1 TLB, or a die's L2 TLB for a copy engine (R265). -/
inductive Mmu where
  | core (c : Nat)
  | die (d : Nat)
  deriving DecidableEq, Repr

def mmuDie : Mmu → Nat
  | .core c => dieOf c
  | .die d => d

def State.tlbHit (s : State) (m : Mmu) (asid va : Nat) : Option TlbEntry :=
  let l2 := s.mem.tlb.find? fun e => !e.l1 && e.unit == mmuDie m && e.covers asid va
  match m with
  | .core c =>
    match s.mem.tlb.find? fun e => e.l1 && e.unit == c && e.covers asid va with
    | some e => some e
    | none => l2
  | .die _ => l2

/-- A leaf as a cached entry. A marked contiguous block may be held as one entry (R264). -/
def State.leafEntry (s : State) (m : Mmu) (asid va : Nat) (pte : BitVec 128) (level eaddr : Nat) : TlbEntry :=
  let own := leafPages level
  let n := if level = 3 ∧ Config.freeBit s.free (va / 2 ^ 14) then (match pteCont pte with | 1 => 4 | 2 => 128 | _ => 1) else own
  { l1 := match m with | .core _ => true | .die _ => false
    unit := match m with | .core c => c | .die d => d
    asid := asid, vpn := va / 2 ^ 14 / n * n, size := n, pte := pte, eaddr := eaddr }

/-- The translation of an address: from a cache, else by a walk; the last component says that it was walked. -/
inductive Found where
  | malformed
  | absent (level base pages : Nat)
  | entry (e : TlbEntry) (walked : Bool)
  deriving DecidableEq, Repr

def State.find (s : State) (m : Mmu) (asid va : Nat) : Found :=
  match s.tlbHit m asid va with
  | some e => .entry e false
  | none =>
    match s.walk (mmuDie m) asid va with
    | .malformed => .malformed
    | .absent l b n => .absent l b n
    | .leaf p l ea => .entry (s.leafEntry m asid va p l ea) true

/-- The physical address of a virtual one under an entry. -/
def TlbEntry.addr (e : TlbEntry) (va : Nat) : Nat :=
  let size := e.size * 2 ^ 14
  ptePa e.pte / size * size + va % size

/-! ## Permissions -/

/-- What an access does (R259). -/
inductive Use where
  | read | write | atomic | fetch
  deriving DecidableEq, Repr

def useWrites : Use → Bool
  | .write => true
  | .atomic => true
  | _ => false

/-- KIND of a fault record (R271). -/
def useKind : Use → Nat
  | .read => 0 | .write => 1 | .atomic => 2 | .fetch => 3

def pteAllows (p : BitVec 128) (u : Use) (sup : Bool) : Bool :=
  (match u with | .read => pteR p | .write => pteW p | .atomic => pteR p && pteW p | .fetch => pteX p)
    && (sup || (pteU p && windowOf (ptePa p) != 6))

/-- The key slot of a leaf serves the tenant (R485). -/
def State.keyOk (s : State) (slot asid : Nat) : Bool :=
  let k := s.slot slot
  (k.kind == 1 || k.kind == 2) && (k.shared || k.owner.toNat == asid)

/-- The outcome of a translation: ACCESS, ACCESS by key-slot misuse, not resident, or a leaf with its address. -/
inductive Tr where
  | deny
  | key
  | miss (level base pages : Nat)
  | ok (pa : Nat) (pte : BitVec 128)
  deriving DecidableEq, Repr

def State.judge (s : State) (e : TlbEntry) (asid va : Nat) (u : Use) (sup : Bool) : Tr :=
  if !s.keyOk (pteKey e.pte) asid then .key
  else if !pteAllows e.pte u sup then .deny
  else .ok (e.addr va) e.pte

/-- A cached entry that needs A or D is checked against memory: where the stored entry has changed, the walk restarts (R260); one in another
package is not read again. -/
def needsMark (p : BitVec 128) (u : Use) : Bool := !pteA p || (useWrites u && !pteD p)
def State.fresh (s : State) (m : Mmu) (asid va : Nat) (u : Use) (f : Found) : Found :=
  match f with
  | .entry e false =>
    if needsMark e.pte u && !isDomain e.eaddr && s.readPte e.eaddr != e.pte then
      match s.walk (mmuDie m) asid va with
      | .malformed => .malformed
      | .absent l b n => .absent l b n
      | .leaf p l ea => .entry (s.leafEntry m asid va p l ea) true
    else f
  | f => f

/-- A translation without its effects (R255 to R259, R485). -/
def State.peek (s : State) (m : Mmu) (asid va : Nat) (sup : Bool) (u : Use) : Tr :=
  if va ≥ 2 ^ 54 then .deny
  else
    match s.find m asid va with
    | .malformed => .deny
    | .absent l b n => .miss l b n
    | .entry e w =>
      match s.judge e asid va u sup with
      | .ok _ p =>
        match s.fresh m asid va u (.entry e w) with
        | .malformed => .deny
        | .absent l b n => .miss l b n
        | .entry e' false => .ok (e'.addr va) (if w then p else e'.pte)
        | .entry e' true => s.judge e' asid va u sup
      | r => r

def markPte (p : BitVec 128) (u : Use) : BitVec 128 := p ||| (if useWrites u then 0x300 else 0x100)

/-- A translation leaves a TLB; an access in flight may have used it (R284). -/
def State.dropTlb (s : State) (x : TlbEntry) : State :=
  { s with mem := { s.mem with tlb := s.mem.tlb.erase x
                               ghosts := if s.mem.ghosts.contains x then s.mem.ghosts else s.mem.ghosts ++ [x] } }

/-- Room for a translation in its TLB (R265): 64 entries of a core, a set of 16 of a die; which one leaves is left open. -/
def State.tlbRoom (s : State) (e : TlbEntry) : State :=
  let ways := if e.l1 then 64 else 16
  let unit := s.mem.tlb.filter fun x => x.l1 == e.l1 && x.unit == e.unit
  if unit.length < ways then s
  else
    let mates := if e.l1 then unit else unit.filter fun x => Config.tlbSet x.asid x.vpn == Config.tlbSet e.asid e.vpn
    if mates.length < ways then s
    else match mates[(Config.freeWord s.free e.vpn).toNat % mates.length]? with
      | some x => s.dropTlb x
      | none => s

/-- A translation enters a TLB in the place of one of the same entry. -/
def State.putTlb (s : State) (e : TlbEntry) : State :=
  let s := { s with mem := { s.mem with tlb := s.mem.tlb.filter fun x =>
    x.eaddr != e.eaddr || x.asid != e.asid || x.unit != e.unit || x.l1 != e.l1 } }
  let s := s.tlbRoom e
  { s with mem := { s.mem with tlb := s.mem.tlb ++ [e] } }

/-- A translation installed in the caches of its unit: a core's L1 TLB and its die's L2 TLB (R265). -/
def State.installTlb (s : State) (m : Mmu) (e : TlbEntry) : State :=
  let s1 := match m with
    | .core c => s.putTlb { e with l1 := true, unit := c }
    | .die _ => s
  s1.putTlb { e with l1 := false, unit := mmuDie m }

/-- A write of the walker: to the device registers (R252), to another package, or at its home, where it revokes an atomic owner of its line
(R303). -/
def State.walkerPut (s : State) (asid pa : Nat) (bs : List Byte) : State :=
  if isDevReg pa then s.devWrite pa bs
  else if isDomain pa then
    match s.request (packetOf .write (domainPkg pa) (domainAddr pa) bs.length bs 0 0) .walker none with
    | some (s1, _) => s1
    | none => s
  else s.writeRun (.engine 0 asid) 0 pa bs

/-- A table entry marked with A or D (R260). -/
def State.markEntry (s : State) (eaddr : Nat) (p : BitVec 128) (asid : Nat) : State := s.walkerPut asid eaddr (leBytes 16 p.toNat)

/-- The entries that a walk reads, with their sizes, from the root table's down (R255, R256). -/
def State.walkReads (s : State) (die asid va : Nat) : List (Nat × Nat) :=
  let w := s.walkStart die asid va
  let es := (s.walkTables va (4 - w.1) w.1 w.2).map fun x => (x.2 + 16 * vaIndex va x.1, 16)
  if w.1 = 0 ∧ w.2 = s.rootTable asid then (s.rootEntry asid, 8) :: es else es

/-- The tables of a walk enter the die's walker cache (R284). -/
def State.keepWalk (s : State) (die asid va : Nat) : State :=
  let w := s.walkStart die asid va
  let new := (s.walkTables va (4 - w.1) w.1 w.2).map fun x =>
    ({ die := die, asid := asid, level := x.1, pre := vaAbove va x.1, table := x.2 } : WalkEntry)
  { s with mem := { s.mem with walks := s.mem.walks ++ new.filter fun x => !s.mem.walks.contains x } }

/-- A walk's read of an entry: at its home (R256, R280, R303, R339), logged where no storage stands behind it (R253); what another package has
answered is used once. -/
def State.entryTouch (s : State) (asid pa n : Nat) : State :=
  if isDevReg pa then s
  else if isDomain pa then { s with mem := { s.mem with tables := kerase s.mem.tables pa } }
  else s.arrive (.engine 0 asid) pa n 0 false

/-- A walk reads each of its entries. -/
def State.walkTouch (s : State) (die asid va : Nat) : State :=
  (s.walkReads die asid va).foldl (fun s e => s.entryTouch asid e.1 e.2) (s.keepWalk die asid va)

/-- Entries of a walk that lie in other packages and have not been answered (R274, R282). -/
def State.farEntries (s : State) (m : Mmu) (asid va : Nat) : List (Nat × Nat) :=
  if 2 ^ 54 ≤ va ∨ (s.tlbHit m asid va).isSome then []
  else (s.walkReads (mmuDie m) asid va).filter fun e => isDomain e.1 && (klookup s.mem.tables e.1).isNone

/-- A walk asks other packages for its entries, once each; what no link reaches holds no stated value. -/
def State.askTables (s : State) (m : Mmu) (asid va : Nat) : State :=
  (s.farEntries m asid va).foldl (fun s e =>
    if s.net.outs.any fun o => o.kind == .table e.1 then s
    else if (s.routes (domainPkg e.1)).isEmpty then
      { s with mem := { s.mem with tables := kput s.mem.tables e.1 (s.openBytes e.1 e.2) } }
    else
      match s.request (packetOf .readReq (domainPkg e.1) (domainAddr e.1) e.2 [] 0 0) (.table e.1) none with
      | some (s1, _) => s1
      | none => s) s

/-- The walk of an access that goes no further: a denied, malformed or missing translation. -/
def State.touchWalk (s : State) (m : Mmu) (asid va : Nat) : State :=
  if 2 ^ 54 ≤ va ∨ (s.tlbHit m asid va).isSome then s else s.walkTouch (mmuDie m) asid va

/-- The effects of an allowed access's translation: the caches filled, A and D set (R260, R265). -/
def State.useEntry (s : State) (m : Mmu) (asid va : Nat) (u : Use) : State :=
  match s.fresh m asid va u (s.find m asid va) with
  | .entry e w =>
    let s := if w then s.walkTouch (mmuDie m) asid va else s
    let held := match m with
      | .core c => s.mem.tlb.any fun x => x.l1 && x.unit == c && x.covers asid va
      | .die _ => true
    let s := match m with
      | .core c => if held then s else s.countCore c 0x10 asid
      | .die _ => s
    if needsMark e.pte u then
      let p := markPte e.pte u
      (s.markEntry e.eaddr p asid).installTlb m { e with pte := p }
    else if w || !held then s.installTlb m e
    else s
  | _ => s

/-! ## Replayable faults -/

/-- Buffer size of FBCTL: LOGN outside 3 to 12 acts as 3 (R270). -/
def fbRecords (fbctl : W64) : Nat :=
  let k := (fbctl.extractLsb' 1 4).toNat
  2 ^ (if 3 ≤ k ∧ k ≤ 12 then k else 3)

/-- The 32 bytes of a fault record (R271). -/
def faultBytes (asid src kind level : Nat) (clock : W64) (vpn : Nat) : List Byte :=
  leBytes 8 (vpn % 2 ^ 40 * 2 ^ 14) ++ leBytes 8 clock.toNat
    ++ leBytes 16 (asid % 2 ^ 16 * 2 ^ 112 + src % 2 ^ 16 * 2 ^ 96 + kind * 2 ^ 88 + level * 2 ^ 85)

/-- A dropped record (R272): DROPPED set, DROPCNT stopping at 2^32 − 1. -/
def dropRecord (r : DieRegs) : DieRegs :=
  let cnt := r.fbstat.extractLsb' 0 32
  { r with fbstat := (0#31 ++ 1#1 ++ (if cnt = 0xFFFFFFFF then cnt else cnt + 1) : BitVec 64) }

/-- Where the next record of a die's buffer lies (R270). -/
def recordPa (r : DieRegs) : Nat := (r.fbctl.extractLsb' 17 35).toNat * 2 ^ 17 + 32 * (r.fbput.toNat % fbRecords r.fbctl)

/-- An access meets V = 0 (R267, R506): it parks under a pending-fault entry that covers its page; else one of its granule is entered and writes one
record, unless the record is dropped (R272). -/
def State.parkFault (s : State) (die asid src kind level page pages : Nat) : State :=
  if s.mem.pfe.any fun f => f.die == die && f.asid == asid && decide (f.base ≤ page ∧ page < f.base + f.size) then s
  else
    let base := page / pages * pages
    let r := s.die die
    let room := decide ((s.mem.pfe.filter fun f => f.die == die).length < 256)
    let s1 := if room then { s with mem := { s.mem with pfe := s.mem.pfe ++ [{ die := die, asid := asid, base := base, size := pages }] } } else s
    if !r.fbctl.getLsbD 0 || decide (fbRecords r.fbctl ≤ (r.fbput - r.fbget).toNat) || !room then
      (s1.setDie die (dropRecord r)).setEvent die 1
    else
      let s2 := s1.walkerPut 0 (recordPa r) (faultBytes asid src kind level (s.dieClock die) base)
      (s2.setDie die { s2.die die with fbput := r.fbput + 1 }).setEvent die 0

/-- A translation waits: one of the walker's own accesses, or the write of a fault record, is excluded (R336, R341) or meets a full queue
(R273), or another package has not answered for an entry (R282). -/
def State.peekWaits (s : State) (m : Mmu) (asid va : Nat) (u : Use) : Bool :=
  let who := Agent.engine 0 asid
  let quiet : Bool := s.openHomes && decide (s.mem.l2q.length < 32)
  let held (pa n : Nat) (write : Bool) : Bool :=
    !quiet && !isDomain pa && !isDevReg pa && (s.accessWaits who pa n write || s.sliceFull pa)
  let mark (e : TlbEntry) : Bool := needsMark e.pte u && held e.eaddr 16 true
  if 2 ^ 54 ≤ va then false
  else
    match s.tlbHit m asid va with
    | some e => mark e
    | none =>
      !(s.farEntries m asid va).isEmpty || (!quiet && (s.walkReads (mmuDie m) asid va).any fun e => held e.1 e.2 false) ||
        match s.find m asid va with
        | .entry e _ => mark e
        | .absent _ _ _ => held (recordPa (s.die (mmuDie m))) 32 true
        | .malformed => false

end Sys2Proof.Machine
end

