-- ==== Sys2Proof/Machine/Lanes.lean ====
section
/-!
DEFINITION. What one lane's access meets (07_local.md R226 to R232): its address, its checks and causes, its place, the fault it
parks on; its transactional form (10_transactions.md R322 to R330); and the queue of stores (09_order.md R289 to R296).
-/

namespace Sys2Proof.Machine

/-! ## The access immediate (R225) -/

def accOff (f : Operand) : W64 := match f with | .imm v => (v.extractLsb' 0 15).signExtend 64 | _ => 0
def accQ (f : Operand) : Bool := match f with | .imm v => v.getLsbD 15 | _ => false
def accCol (f : Operand) : Nat := match f with | .imm v => (v.extractLsb' 16 3).toNat | _ => 0
/-- AI of R224: an immediate or an all-zero field. -/
def fAi (f : Operand) : Fld := if isZero f then .zero else fImm

/-! ## Looking -/

/-- What an instruction asks of memory in a lane: the use, the scope, whether a bitmap-packed page and the device-register
window are excluded, and whether the load converts (R229, R230, R316). -/
structure Ask where
  use    : Use
  scope  : Nat
  packed : Bool
  noDev  : Bool
  cvt    : Bool
  deriving DecidableEq, Repr

/-- A chunk in scratchpad memory. -/
def Chunk.isScr (c : Chunk) : Bool := match c.loc with | .scr _ => true | .glob _ => false

/-- What a lane's access meets: its cause with the cause's place in the order of R232, key misuse, sectors whose MAC fails
(sector and slot), the pages it misses, and else where its bytes are. `wait` says that a walk or a fault record has to wait. -/
structure LaneLook where
  lane   : Nat
  va     : W64
  n      : Nat
  cause  : Option (Nat × Nat)
  key    : Bool
  mac    : List (Nat × Nat)
  miss   : List (Nat × Nat × Nat)
  chunks : List Chunk
  fmt    : Nat
  pieces : List (Nat × Nat)
  wait   : Bool := false
  deriving DecidableEq, Repr

/-- A line that the core holds atomic-owned (R303). -/
def State.owns (s : State) (core line : Nat) : Bool :=
  match klookup s.mem.atom line with | some a => a.owner == some core | none => false

/-- The L1 line that serves a load of a scope under a slot (R290, R488). -/
def State.l1Serves (s : State) (g : Group) (scope pa slot : Nat) : Option L1Line :=
  let paired := match klookup s.teams g.team with | some t => t.paired | none => false
  if scope = 0 ∨ (scope = 1 ∧ !paired) ∨ (scope ≤ 2 ∧ s.owns g.core (pa / 256)) then s.l1Line g.core (pa / 256) slot else none

/-- Poison or a failed MAC under a chunk that is read (R474, R488). -/
def State.chunkLook (s : State) (g : Group) (scope : Nat) (c : Chunk) : Look :=
  match c.loc with
  | .scr off =>
    match klookup s.teams g.team with
    | some t => if t.scrPoison off c.n then .poison else .ok
    | none => .ok
  | .glob pa =>
    if isDomain pa || isDevReg pa then .ok
    else
      match s.l1Serves g scope pa c.slot with
      | some x => if x.bad then .poison else .ok
      | none => s.look (sectorOf pa) c.slot

/-- Ranks of the causes: the order of R232, and for ld with cvt its own. -/
def rankOf (cvt : Bool) (cause : Nat) : Nat :=
  let order := if cvt then [cAccess, cAlign, cFormat, cPoison, cSecurity] else [cAlign, cScratch, cAccess, cFormat, cPoison, cSecurity]
  order.idxOf cause

/-- Sizes in bytes of the elements that FMT names (R229, R261); 0 for a page that holds no scalar element. -/
def fmtBytes (fmt : Nat) : Nat := if 1 ≤ fmt ∧ fmt ≤ 14 then tyWidth (Ty.ofCode (BitVec.ofNat 5 fmt)) / 8 else 0

/-- The place of a word whose page is not resident (R507). -/
def holeChunk : Chunk := { loc := .glob 0, n := 0, slot := 0 }

/-- The lane's translations judged: the first cause, key misuse, the pages missed, the chunks. -/
def State.lookPieces (s : State) (g : Group) (asid : Nat) (ask : Ask) (lk : LaneLook) : LaneLook :=
  let lk := { lk with wait := lk.pieces.any fun p => s.peekWaits (.core g.core) asid p.1 ask.use }
  let trs := lk.pieces.map fun p => (p, s.peek (.core g.core) asid p.1 g.sup ask.use)
  let bad (k : Nat) : LaneLook := { lk with cause := some (rankOf ask.cvt k, k), chunks := [] }
  if trs.any fun e => match e.2 with | .key => true | _ => false then { bad cAccess with key := true }
  else if trs.any fun e => match e.2 with | .deny => true | .ok pa _ => ask.noDev && isDevReg pa | _ => false then bad cAccess
  else if trs.any fun e => match e.2 with | .ok _ p => ask.packed && pteGeo p == 7 | _ => false then bad cFormat
  else
    let chunks := trs.map fun e => match e.2 with
      | .ok pa p => ({ loc := .glob pa, n := e.1.2, slot := pteKey p, virt := e.1.1 } : Chunk)
      | _ => holeChunk
    let looks := if ask.use = .write then [] else (chunks.filter (· != holeChunk)).map fun c => (c, s.chunkLook g ask.scope c)
    let miss := trs.filterMap fun e => match e.2 with | .miss l b n => some (l, b, n) | _ => none
    if looks.any fun e => e.2 == .poison then bad cPoison
    else if looks.any fun e => e.2 == .mac then
      { bad cSecurity with mac := looks.filterMap fun e =>
          match e.2, e.1.loc with | .mac, .glob pa => some (sectorOf pa, e.1.slot) | _, _ => none }
    else { lk with miss := miss, chunks := chunks }

/-- A lane's access of n bytes at a generic address (R222, R226, R231, R232). `l` is none for an access with no lane. -/
def State.laneLook (s : State) (g : Group) (asid : Nat) (ask : Ask) (l : Option Nat) (lane : Nat) (va : W64) (n : Nat) : LaneLook :=
  let lk : LaneLook := { lane := lane, va := va, n := n, cause := none, key := false, mac := [], miss := [], chunks := [], fmt := 0, pieces := [] }
  let bad (k : Nat) : LaneLook := { lk with cause := some (rankOf ask.cvt k, k) }
  if va.toNat % n ≠ 0 then bad cAlign
  else
    match s.target g l va n with
    | .bound => bad cScratch
    | .deny => bad cAccess
    | .scr off =>
      let c : Chunk := { loc := .scr off, n := n, slot := 0 }
      if ask.use ≠ .write ∧ s.chunkLook g ask.scope c = .poison then bad cPoison else { lk with chunks := [c] }
    | .virt ps => s.lookPieces g asid ask { lk with pieces := ps }

/-- A lane's access of ld with cvt: the size comes from its leaf (R226, R229, R232). -/
def State.cvtLook (s : State) (g : Group) (asid : Nat) (ask : Ask) (lane : Nat) (va : W64) : LaneLook :=
  let lk : LaneLook := { lane := lane, va := va, n := 1, cause := none, key := false, mac := [], miss := [], chunks := [], fmt := 0, pieces := [] }
  let bad (k : Nat) : LaneLook := { lk with cause := some (rankOf true k, k) }
  match s.spaceOf g.core va with
  | (.scr, _) => bad cFormat
  | (.pair, _) => bad cFormat
  | _ =>
    match s.target g (some lane) va 1 with
    | .virt ((v, _) :: _) =>
      let lk := { lk with pieces := [(v, 1)], wait := s.peekWaits (.core g.core) asid v ask.use }
      let bad (k : Nat) : LaneLook := { lk with cause := some (rankOf true k, k) }
      match s.peek (.core g.core) asid v g.sup ask.use with
      | .miss l b n => { lk with miss := [(l, b, n)] }
      | .ok _ p =>
        let n := fmtBytes (pteFmt p)
        if n = 0 then bad cFormat
        else
          match s.target g (some lane) va n with
          | .virt ps =>
            let full := s.lookPieces g asid ask { lk with n := n, fmt := pteFmt p, pieces := ps }
            if (full.cause.map (·.2)) = some cAccess then full
            else if va.toNat % n ≠ 0 then bad cAlign
            else if pteGeo p ≠ 0 then bad cFormat
            else full
          | _ => bad cAccess
      | .key => { bad cAccess with key := true }
      | .deny => bad cAccess
    | _ => bad cAccess

/-! ## Traps and parking of an access -/

/-- The lanes that raise the first cause found in any lane (R232). -/
def firstCause (ls : List LaneLook) : Option (Nat × List LaneLook) :=
  match (ls.filterMap fun x => x.cause.map (·.1)).min? with
  | some r =>
    let hs := ls.filter fun x => match x.cause with | some c => c.1 == r | none => false
    some ((hs.findSome? fun x => x.cause.map (·.2)).getD 0, hs)
  | none => none

/-- The walks of accesses that go no further (R253, R280, R339). -/
def State.touchLooks (s : State) (core asid : Nat) (hs : List LaneLook) : State :=
  (hs.flatMap (·.pieces)).foldl (fun s p => s.touchWalk (.core core) asid p.1) s

/-- What a cause leaves behind: walks were made, key misuse and failed MACs are reported to the alarm (R485, R488); the fill that fails
installs nothing. -/
def State.noteLooks (s : State) (core asid : Nat) (hs : List LaneLook) : State :=
  let s := s.touchLooks core asid hs
  let s := (hs.filter (·.key)).foldl (fun s _ => s.alarm 4 (some asid)) s
  ((hs.flatMap (·.mac)).dedup).foldl (fun s m => s.fillSector m.1 m.2 asid) s

/-- The effect of a cause: POISON restarts an open region or traps (R471, R474); every other cause traps (R60). -/
def causeEffect (c : Ctx) (s : State) (cause : Nat) (hs : List LaneLook) : Effect :=
  let lanes := hs.map fun x => (x.lane, x.va)
  if cause = cPoison then .poison lanes
  else .stop (trapAt (s.noteLooks c.g.core (s.asidOf c.g) hs) c.gid c.g cause lanes)

/-- Faults of the pages that lanes miss (R267, R271). -/
def State.parkLooks (s : State) (g : Group) (u : Use) (ls : List LaneLook) : State :=
  (ls.flatMap (·.miss)).foldl (fun s m => s.parkFault (dieOf g.core) (s.asidOf g) g.core (useKind u) m.1 m.2.1 m.2.2)
    (s.touchLooks g.core (s.asidOf g) (ls.filter fun x => !x.miss.isEmpty))

/-- An instruction that parks whole waits for replay and is then issued again (R231, R507). -/
def parkWhole (c : Ctx) (s : State) (u : Use) (ls : List LaneLook) : Effect :=
  .stop ((s.parkLooks c.g u ls).modGroup c.gid fun g => { g with wait := .parked })

/-- The translation effects of an allowed access (R260, R265). -/
def State.usePieces (s : State) (g : Group) (u : Use) (ls : List LaneLook) : State :=
  (ls.flatMap (·.pieces)).foldl (fun s p => s.useEntry (.core g.core) (s.asidOf g) p.1 u) s

/-! ## Doomed lanes -/

/-- A lane's open transaction is doomed; the first cause stands (R325). The address becomes the fault address at the abort. -/
def Lane.doom (ln : Lane) (cause : Nat) (va : W64) : Lane :=
  if ln.tx.isOpen && !ln.tx.doomed then { ln with tx := { ln.tx with doomed := true, first := cause, doomAt := va } } else ln
def State.doomLanes (s : State) (gid : Nat) (ls : List Nat) (cause : Nat) (va : W64) : State :=
  s.modGroup gid fun g => g.modLanes ls fun _ ln => ln.doom cause va

/-- Participating lanes with an open transaction, and the others. -/
def Ctx.txLanes (c : Ctx) : List Nat := c.ps.filter fun l => (c.g.lane l).tx.isOpen
def Ctx.plain (c : Ctx) : List Nat := c.ps.filter fun l => !(c.g.lane l).tx.isOpen

/-- An instruction that R329 names: its open lanes are doomed with ILLEGAL and take no part; the rest acts on the others. -/
def outsideTx (body : Ctx → State → Effect) (c : Ctx) (s : State) : Effect :=
  match c.txLanes with
  | [] => body c s
  | ls =>
    let s1 := s.doomLanes c.gid ls 5 0
    let c1 := { c with ps := c.plain, g := c.g.modLanes ls fun _ ln => ln.doom 5 0 }
    if c1.ps.isEmpty then .done s1 else body c1 s1

/-! ## Transactional accesses -/

def locOverlap (a : Loc) (n : Nat) (b : Loc) (m : Nat) : Bool :=
  match a, b with
  | .glob p, .glob q => decide (p < q + m ∧ q < p + n)
  | .scr p, .scr q => decide (p < q + m ∧ q < p + n)
  | _, _ => false

/-- What a transactional access of an open lane meets: not performed (doomed already), a doom with its cause, a failed MAC, a
wait, or the pieces of its bytes; with the virtual addresses that it translates. -/
inductive TxLook where
  | skip
  | doom (cause : Nat) (key : Bool) (miss : List (Nat × Nat × Nat)) (pieces : List (Nat × Nat))
  | mac (m : List (Nat × Nat))
  | wait (pieces : List (Nat × Nat))
  | ok (chunks : List Chunk) (pieces : List (Nat × Nat)) (fmt : Nat)
  deriving DecidableEq, Repr

/-- The checks of R323, R328 to R330 and R336 on what a lane's access meets at the home slice. A denied access to the device-register window is
judged as denied (log 73). A store of the group that is visible at .grp scope, or the lane's own, is performed first (R291, R292). -/
def State.txJudge (s : State) (gid : Nat) (g : Group) (asid : Nat) (write : Bool) (lane : Nat) (lk : LaneLook) : TxLook :=
  let who := Agent.group gid g.core asid
  let addrs := lk.chunks.filterMap fun c => match c.loc with | .glob pa => some pa | _ => none
  if (g.lane lane).tx.doomed then .skip
  else if lk.wait then .wait lk.pieces
  else
    match (s.spaceOf g.core lk.va).1 with
    | .scr => .doom 5 false [] []
    | .pair => .doom 5 false [] []
    | _ =>
      match lk.cause with
      | some (_, k) => if k = cSecurity then .mac lk.mac else .doom 6 lk.key [] lk.pieces
      | none =>
        if !lk.miss.isEmpty then .doom 6 false lk.miss lk.pieces
        else if addrs.any isDevReg then .doom 5 false [] lk.pieces
        else if addrs.any isDomain then .doom 4 false [] lk.pieces
        else if addrs.any fun pa => s.lockExcludes who pa write then .doom 8 false [] lk.pieces
        else if addrs.any (fun pa => s.accessWaits who (pa / 8 * 8) 16 write)
            || g.stores.any (fun q => (q.near || q.lanes.contains lane) && lk.chunks.any fun c => locOverlap c.loc c.n q.loc q.bytes.length) then .wait []
        else .ok lk.chunks lk.pieces lk.fmt

/-- The check of a transactional access of n bytes; it bypasses L1 (R323). -/
def State.txLook (s : State) (gid : Nat) (g : Group) (asid : Nat) (u : Use) (packed : Bool) (l : Option Nat) (lane : Nat) (va : W64) (n : Nat) :
    TxLook :=
  s.txJudge gid g asid (u == .write) lane
    (s.laneLook g asid { use := u, scope := 5, packed := packed, noDev := false, cvt := false } l lane va n)

/-- Granules of a run of bytes. -/
def granules (pa n : Nat) : List Nat := (List.range ((pa + n - 1) / 8 + 1 - pa / 8)).map fun k => pa / 8 + k

def LaneTx.logged (t : LaneTx) (gr : Nat) : Option LogEntry := t.rlog.find? fun e => e.gran == gr
def LaneTx.buffered (t : LaneTx) (pa : Nat) : Option Byte :=
  match t.wbuf.find? fun e => e.gran == pa / 8 with
  | some e => klookup e.bytes (pa % 8)
  | none => none

/-- A granule is logged: read once at its home slice, bypassing L1 (R323); CAPACITY for the 33rd. An irrevocable lane read-locks
the line (R336). -/
def State.txLog (s : State) (gid lane asid slot gr : Nat) (va : W64) : State :=
  match klookup s.groups gid with
  | none => s
  | some g =>
    let t := (g.lane lane).tx
    if (t.logged gr).isSome || t.doomed then s
    else if t.rlog.length ≥ 32 then s.doomLanes gid [lane] 3 0
    else
      let (s, bs) := s.readAt (.group gid g.core asid) (gr * 8) 8 slot
      let s := s.modGroup gid fun g => g.modLane lane fun ln =>
        { ln with tx := { ln.tx with rlog := ln.tx.rlog ++ [{ gran := gr, slot := slot, va := va, val := BitVec.ofNat 64 (leNat bs) }] } }
      if t.irrev then { s with tx := { s.tx with locks := { line := l2LineOf (gr * 8), write := false } :: s.tx.locks } } else s

/-- The generic address of the granule that holds byte i of an access (R343): in private memory, where consecutive words of a lane lie apart
(R223), that of the word. -/
def granAddr (va : W64) (priv : Bool) (i : Nat) : W64 :=
  let a := va + BitVec.ofNat 64 i
  a - BitVec.ofNat 64 (a.toNat % (if priv then 4 else 8))

/-- A transactional load (R323): buffered bytes, else the logged value. None where the lane is doomed on the way. -/
def State.txLoad (s : State) (gid lane asid : Nat) (va : W64) (chunks : List Chunk) : State × Option (List Byte) :=
  let cells := chunks.flatMap fun c => match c.loc with | .glob pa => (List.range c.n).map fun i => (pa + i, c.slot) | _ => []
  let tx (s : State) : LaneTx := match klookup s.groups gid with | some g => (g.lane lane).tx | none => {}
  let priv := match klookup s.groups gid with | some g => (s.spaceOf g.core va).1 == .loc | none => false
  let need := (((cells.mapIdx fun i e => (e.1, e.2, granAddr va priv i)).filter fun e => ((tx s).buffered e.1).isNone).map
    fun e => (e.1 / 8, e.2)).dedup
  let s := need.foldl (fun s e => s.txLog gid lane asid e.2.1 e.1 e.2.2) s
  let t := tx s
  if t.doomed then (s, none)
  else
    (s, some (cells.map fun e =>
      match t.buffered e.1 with
      | some b => b
      | none => match t.logged (e.1 / 8) with | some x => x.val.extractLsb' (8 * (e.1 % 8)) 8 | none => 0))

/-- One byte enters the write buffer. -/
def LaneTx.put (t : LaneTx) (pa slot : Nat) (b : Byte) : LaneTx :=
  if t.wbuf.any fun e => e.gran == pa / 8 then
    { t with wbuf := t.wbuf.map fun e => if e.gran = pa / 8 then { e with bytes := kput e.bytes (pa % 8) b } else e }
  else { t with wbuf := t.wbuf ++ [{ gran := pa / 8, slot := slot, bytes := [(pa % 8, b)] }] }

/-- A transactional store (R323): CAPACITY where it would need a 33rd granule, else its bytes are buffered. -/
def State.txStore (s : State) (gid lane : Nat) (chunks : List Chunk) (bs : List Byte) : State :=
  match klookup s.groups gid with
  | none => s
  | some g =>
    let t := (g.lane lane).tx
    let cells := (chunks.flatMap fun c => match c.loc with | .glob pa => (List.range c.n).map fun i => (pa + i, c.slot) | _ => []).zip bs
    let t1 := cells.foldl (fun t e => t.put e.1.1 e.1.2 e.2) t
    if t1.wbuf.length > 32 then s.doomLanes gid [lane] 3 0
    else
      let s := s.modGroup gid fun g => g.modLane lane fun ln => { ln with tx := t1 }
      if t.irrev then
        { s with tx := { s.tx with locks := ((cells.map fun e => l2LineOf e.1.1).dedup.map fun x => { line := x, write := true }) ++ s.tx.locks } }
      else s

/-- A doom found at the access: its walks are made (R253, R280, R339); the fault of a non-resident page is recorded with no access parked under it (R330), key misuse
is reported (R485). -/
def State.txDoom (s : State) (gid lane : Nat) (g : Group) (u : Use) (asid cause : Nat) (key : Bool) (miss : List (Nat × Nat × Nat))
    (pieces : List (Nat × Nat)) (va : W64) : State :=
  let s := pieces.foldl (fun s p => s.touchWalk (.core g.core) asid p.1) s
  let s := if key then s.alarm 4 (some asid) else s
  let s := miss.foldl (fun s m => s.parkFault (dieOf g.core) asid g.core (useKind u) m.1 m.2.1 m.2.2) s
  s.doomLanes gid [lane] cause (if cause = 4 ∨ cause = 6 ∨ cause = 8 then va else 0)

/-! ## The store queue -/

def meets (a b : List Nat) : Bool := a.any fun x => b.contains x

/-- The lanes for which a load's entry counts (R293): its own, or every participant of an ldu. -/
def loadLanes (l : Load) (x : LoadLane) : List Nat := if l.uni.isEmpty then [x.lane] else l.uni

/-- A load or returning atomic of the group older than `age` that is not performed, of one of the lanes; `loc` none stands for any
place, else an atomic of any kind counts at its own place (R292, R319). -/
def State.olderLoad (s : State) (gid : Nat) (lanes : List Nat) (age : Nat) (loc : Option (Loc × Nat)) : Bool :=
  s.ops.any fun e =>
    match e.2 with
    | .load l =>
      decide (e.1 < age) && l.gid == gid && l.lanes.any fun x =>
        x.done.isNone && meets (loadLanes l x) lanes
          && (match loc with | some (p, n) => x.chunks.any fun c => locOverlap c.loc c.n p n | none => true)
    | .atom a =>
      decide (e.1 < age) && a.gid == gid && a.lanes.any fun x =>
        meets (if a.scal.isSome then a.parts else [x.lane]) lanes
          && (match loc with | some (p, n) => (match x.place with | some c => locOverlap c.loc c.n p n | none => false) | none => a.ret)
    | _ => false

/-- A red older than `age` of one of the lanes and colours that is not performed: it counts as a store (R317). -/
def State.olderRed (s : State) (gid : Nat) (lanes : List Nat) (age : Nat) (colours : Nat → Bool) : Bool :=
  s.ops.any fun e =>
    match e.2 with
    | .atom a => decide (e.1 < age) && a.gid == gid && !a.ret && colours a.colour && meets a.parts lanes
    | _ => false

/-- A store that .grp loads can read before it reaches the home slice (R290, R291). -/
def QStore.canNear (q : QStore) : Bool := match q.loc with | .glob pa => !isDomain pa && !isDevReg pa | .scr _ => false

/-- A release covers an older store (R296), or one of its lanes has read it (R298). -/
def QStore.covers (q o : QStore) : Bool :=
  q.rel && ((o.colour == q.colour && meets o.lanes q.lanes) || (q.scope != 0 && meets o.seen q.lanes))

/-- A store of the lanes numbered `age` or later comes after this one, which they had read before a fence (R296, R298). -/
def QStore.gates (o : QStore) (lanes : List Nat) (age : Nat) : Bool := o.gate.any fun e => decide (e.2 ≤ age) && meets e.1 lanes

/-- An older queued store holds this one back (R292, R296, R298): same bytes in the same lane or instruction or already read, covered by this
release, or read before a fence that this one follows. A release at .grp scope takes along what can become visible there, and so does any
release as it becomes visible there. -/
def heldBack (older : List QStore) (home : Bool) (q : QStore) : Bool :=
  older.any fun o =>
    (locOverlap o.loc o.bytes.length q.loc q.bytes.length && (meets o.lanes q.lanes || o.age == q.age || o.near))
      || (q.covers o && ((home && q.scope != 0) || !o.canNear))
      || (home && q.scope != 0 && o.gates q.lanes q.age)

/-- Something older holds the k-th queued store of a group back: at its home, or at .grp scope. -/
def State.storeHeld (s : State) (gid : Nat) (g : Group) (home : Bool) (k : Nat) (q : QStore) : Bool :=
  heldBack (g.stores.take k) home q || s.olderLoad gid q.lanes q.age (if q.rel then none else some (q.loc, q.bytes.length))
    || (q.rel && s.olderRed gid q.lanes q.age fun c => c == q.colour)

/-- The k-th queued store becomes visible at .grp scope, with the stores that it covers (R291, R296). -/
def Group.nearStore (g : Group) (k : Nat) (q : QStore) : Group :=
  { g with stores := g.stores.mapIdx fun i o => if i = k ∨ (i < k ∧ q.covers o ∧ o.canNear) then { o with near := true } else o }

/-- A lost path leaves REMOTE_FAIL pending for the lanes with their addresses (R418, R429). -/
def State.remoteFail (s : State) (gid : Nat) (lanes : List Nat) (va : W64) : State :=
  s.modGroup gid fun g => { g with rfPend := lanes.foldl (fun m l => kput m l va) g.rfPend }

/-- A remote access has failed with a status: ACCESS for a denied one (R419), else REMOTE_FAIL, left for the lanes (log 49). -/
def State.lateFail (s : State) (gid : Nat) (lanes : List Nat) (va : W64) (denied : Bool) : State :=
  if denied then s.modGroup gid fun g => { g with accPend := lanes.foldl (fun m l => kput m l va) g.accPend } else s.remoteFail gid lanes va

/-- Lanes that consume poison with no row to hold it: POISON at the group's next issue (R474; log 66). -/
def State.latePoison (s : State) (gid : Nat) (lanes : List (Nat × W64)) : State :=
  if lanes.isEmpty then s else s.modGroup gid fun g => { g with poisPend := lanes.foldl (fun m e => kput m e.1 e.2) g.poisPend }

/-- This package writes n bytes of another package's memory: the copies of their sectors in L2 and in a core's L1 are used no more, nor is one that
is on its way (R282, R290). -/
def State.forgetFar (s : State) (core : Option Nat) (dst addr n : Nat) : State :=
  let hit (pa : Nat) : Bool := isDomain pa && domainPkg pa == dst && decide (domainAddr pa < addr + n ∧ addr < domainAddr pa + 256)
  { s with
    mem := { s.mem with peer := s.mem.peer.filter fun e => !hit (e.1 * 256)
                        l1 := s.mem.l1.filter fun x => !(core == some x.core && hit (x.line * 256)) }
    net := { s.net with outs := s.net.outs.map fun o =>
      if o.dst = dst ∧ o.addr / 256 * 256 < addr + n ∧ addr < o.addr + max o.len 256 then { o with keep := false } else o } }

def State.forgetPeer (s : State) (core : Option Nat) (pa n : Nat) : State := s.forgetFar core (domainPkg pa) (domainAddr pa) n

/-- The packet of a store to domain memory (R417, R427). -/
def storePacket (q : QStore) (pa : Nat) : Packet :=
  packetOf .write (domainPkg pa) (domainAddr pa) q.bytes.length q.bytes q.slot (q.rem.getD 0)

/-- The bytes of a sector that one instruction writes whole (R474). -/
def sectorBytes (qs : List QStore) (age sec : Nat) : List Byte :=
  let m := qs.foldl (fun m q =>
    match q.loc with
    | .glob pa => if q.age = age ∧ sectorOf pa = sec then (List.range q.bytes.length).foldl (fun m i => kput m (pa + i) (q.bytes.getD i 0)) m else m
    | _ => m) ([] : KMap Byte)
  (List.range 256).map fun i => kget 0 m (sec * 256 + i)

/-- The slice has served what a store instruction sent it (R500): its entry is free once none of a pass's stores to the sector is left. -/
def State.freeReq (s : State) (gid op sec : Nat) : State :=
  let left (pass : Nat) : Bool := match klookup s.groups gid with
    | some g => g.stores.any fun q => q.age == op && q.lanes.any (fun l => l / 32 == pass)
        && (match q.loc with | .glob pa => sectorOf pa == sec | .scr _ => false)
    | none => false
  { s with mem := { s.mem with l2q := s.mem.l2q.filter fun e => !(e.2.op == op && e.2.sector == sec && !left e.2.pass) } }

/-- A request of an operation for a sector waits at its core (R501). -/
def State.reqWaits (s : State) (op sec : Nat) : Bool := s.mem.l2q.any fun e => e.2.op == op && e.2.sector == sec && e.2.waiting

/-- Who a group's access of a scope is at the home: beyond .pkg even the owner's request revokes an atomic owner (R303). -/
def scopeAgent (gid core asid scope : Nat) : Agent := if scope ≤ 2 then .group gid core asid else .engine core asid

/-- A queued store is performed at its home slice: its bytes, or the whole sector that its instruction writes (R474). A store updates
the L1 line of its core (R290). -/
def State.storeHome (s : State) (gid : Nat) (g : Group) (q : QStore) (pa : Nat) (rest : State) : State :=
  let who := scopeAgent gid g.core (s.asidOf g) q.scope
  let sec := sectorOf pa
  let s1 :=
    if q.full then
      let keep := g.stores.filter fun x => !(x.age == q.age && (match x.loc with | .glob p => sectorOf p == sec | _ => false))
      let bs := sectorBytes g.stores q.age sec
      ((s.setGroup gid { g with stores := keep }).writeAt who (sec * 256) bs q.slot true).l1Store g.core (sec * 256) bs
    else (rest.writeAt who pa q.bytes q.slot false).l1Store g.core pa q.bytes
  s1.freeReq gid q.age sec

/-- The k-th queued store of a group becomes visible, or is sent to its package, unless something holds it back. -/
def State.drainAt (s : State) (gid k : Nat) : State :=
  match klookup s.groups gid with
  | none => s
  | some g =>
    match g.stores[k]? with
    | none => s
    | some q =>
      if q.rid.isSome || s.storeHeld gid g true k q then s
      else
        let g := g.nearStore k q
        let rest := s.setGroup gid { g with stores := g.stores.eraseIdx k }
        match q.loc with
        | .scr off => rest.modTeam g.team fun t => t.scrStore off q.bytes
        | .glob pa =>
          if isDomain pa then
            if (s.routes (domainPkg pa)).isEmpty then rest.remoteFail gid q.lanes q.va
            else
              match s.request (storePacket q pa) (.store gid) none with
              | some (s1, r) => (s1.setGroup gid { g with stores := g.stores.set k { q with rid := some r } }).forgetPeer (some g.core) pa q.bytes.length
              | none => s
          else if s.accessWaits (.group gid g.core (s.asidOf g)) pa q.bytes.length true || s.reqWaits q.age (sectorOf pa) then s
          else if isDevReg pa then rest.devWrite pa q.bytes
          else s.storeHome gid g q pa rest

/-- The k-th queued store becomes visible at .grp scope where it can, else at its home. -/
def State.nearAt (s : State) (gid k : Nat) : State :=
  match klookup s.groups gid with
  | none => s
  | some g =>
    match g.stores[k]? with
    | none => s
    | some q =>
      if !q.canNear then s.drainAt gid k
      else if s.storeHeld gid g false k q then s
      else s.setGroup gid (g.nearStore k q)

/-- A queued store that has to be visible at a scope: one of the lanes and colours, at .grp scope where it is not visible there yet; with
`reads` also one that the lanes have read (R298). -/
def QStore.owed (q : QStore) (lanes : List Nat) (colours : Nat → Bool) (scope : Nat) (reads : Bool) : Bool :=
  if scope = 0 then !q.near && colours q.colour && meets q.lanes lanes
  else (colours q.colour && meets q.lanes lanes) || (reads && meets q.seen lanes)

/-- One attempt at every queued store of a kind, oldest first: at a scope wider than .grp at its home. -/
def State.drainSome (s : State) (gid scope : Nat) (p : QStore → Bool) : State :=
  match klookup s.groups gid with
  | none => s
  | some g =>
    let ages := (g.stores.filter p).map fun q => (q.age, q.loc)
    ages.foldl (fun s a =>
      match klookup s.groups gid with
      | some g =>
        let k := g.stores.findIdx fun q => q.age == a.1 && q.loc == a.2
        if scope = 0 then s.nearAt gid k else s.drainAt gid k
      | none => s) s

/-- Colours named by a mask. -/
def maskHas (mask : BitVec 8) (c : Nat) : Bool := mask.getLsbD c

/-- Every earlier store of the lanes, of the colours, made visible at a scope, and none of their loads in flight: none while that cannot
yet be so (R296, R307, R319). `reads` adds the stores that the lanes have read (R298). -/
def State.showStores (s : State) (gid : Nat) (lanes : List Nat) (colours : Nat → Bool) (scope : Nat) (reads loads : Bool) : Option State :=
  let s1 := s.drainSome gid scope fun q => q.owed lanes colours scope reads
  match klookup s1.groups gid with
  | some g =>
    if g.stores.any (fun q => q.owed lanes colours scope reads) || s1.olderRed gid lanes s1.nextOp colours
        || (loads && s1.olderLoad gid lanes s1.nextOp none) then none
    else some s1
  | none => some s1

/-- What a release waits for (R296, R298). -/
def State.releaseAll (s : State) (gid : Nat) (lanes : List Nat) (colours : Nat → Bool) (scope : Nat) (loads : Bool) : Option State :=
  s.showStores gid lanes colours scope true loads

/-- What a fence waits for (R319); stores that its lanes have read come before the stores that they issue after it (R296, R298). -/
def State.fenceAll (s : State) (gid : Nat) (lanes : List Nat) (colours : Nat → Bool) (scope : Nat) : Option State :=
  (s.showStores gid lanes colours scope false true).map fun s1 =>
    let mark (q : QStore) : QStore := if meets q.seen lanes then { q with gate := (lanes, s1.nextOp) :: q.gate } else q
    if scope = 0 then s1 else s1.modGroup gid fun g => { g with stores := g.stores.map mark }

/-- An acquire at a scope other than .grp: the core's L1 lines, those held atomic-owned excepted, are no longer used (R299). -/
def State.acquireAt (s : State) (core : Nat) : State := s.dropL1 fun c _ => c == core

end Sys2Proof.Machine
end

