-- ==== Sys2Proof/Machine/Access.lean ====
section
/-!
DEFINITION. Loads, stores, prefetch, address conversion and cache maintenance (07_local.md R224 to R239), the loads in flight
(08_memory.md R275, R276; 17_programs_rows.md R500, R501) and parked loads (19_programs_faults.md R507).
-/

namespace Sys2Proof.Machine

/-! ## Shapes -/

/-- T32 of R224 with b32, and T64. -/
def accSize (h : Head) : Nat := if accQ h.b then 16 else if ty64 h.ty then 8 else 4

/-- The access immediate's bits that must be zero (R225): COL for loads, Q where it is not allowed. -/
def accOk (h : Head) (store q : Bool) : Bool :=
  (store || accCol h.b == 0) && (!accQ h.b || (q && ty32 h.ty))

def scopeOk (m : BitVec 5) : Bool := decide ((m.extractLsb' 0 3).toNat ≤ 5)
def scopeOf (m : BitVec 5) : Nat := (m.extractLsb' 0 3).toNat

def dataOpnd (h : Head) : Opnd :=
  { row := true, ind := true, ty := h.ty, span := if accQ h.b then 4 else 1, align := if accQ h.b then 4 else 1 }

def ldShape (h : Head) : Shape :=
  let cvt := h.mods.getLsbD 4
  { major := 0x70, minor := 0,
    tyOk := if cvt then [Ty.f32, .f16, .bf16, .i32].contains h.ty else tyRow h.ty,
    modsOk := scopeOk h.mods, d := .op (dataOpnd h), a := fAddr, b := fAi h.b, access := true, poisonLast := true,
    extra := must (accOk h false (!cvt)) }
def stShape (h : Head) : Shape :=
  { major := 0x70, minor := 1, tyOk := tyRow h.ty, modsOk := scopeOk h.mods && !h.mods.getLsbD 4,
    d := fAddr, a := .op (dataOpnd h), b := fAi h.b, dUse := .read, access := true, poisonLast := true, extra := must (accOk h true true) }
def lduShape (h : Head) : Shape :=
  { major := 0x70, minor := 2, tyOk := tyRow h.ty, modsOk := scopeOk h.mods && !h.mods.getLsbD 4,
    d := fScal, a := fScal, b := fAi h.b, access := true, extra := must (accOk h false false) }
def stuShape (h : Head) : Shape :=
  { major := 0x70, minor := 3, tyOk := tyRow h.ty, modsOk := scopeOk h.mods && !h.mods.getLsbD 4,
    d := fScal, a := fScal, b := fAi h.b, dUse := .read, access := true, extra := must (accOk h true false) }
def prefShape (h : Head) : Shape :=
  { major := 0x70, minor := 4, tyOk := h.ty == .b32, modsOk := decide (h.mods.toNat < 2), a := fAddr, b := fAi h.b, access := true, mute := true,
    extra := must (accOk h false false) }

/-- The address of a lane (R226): a row pair, or the contiguous form of a scalar, which the local window does not stride. -/
def laneAddr (c : Ctx) (s : State) (f : Operand) (off : W64) (n l : Nat) : W64 :=
  match f with
  | .scal k _ =>
    let b := c.g.getS k.toNat + off
    if (s.spaceOf c.g.core b).1 = .loc then b else b + BitVec.ofNat 64 (l * n)
  | _ => readOp c.g { row := true, ind := true, ty := .n64 } f l + off

/-- The virtual address of the first element of the contiguous form of ld with cvt. -/
def cvtFirst (c : Ctx) (s : State) (f : Operand) (off : W64) : Option Nat :=
  match f with
  | .scal k _ =>
    match s.target c.g (some (lowest c.plain)) (c.g.getS k.toNat + off) 1 with
    | .virt ((v, _) :: _) => some v
    | _ => none
  | _ => none

/-- The size that strides the contiguous form of ld with cvt: that of the leaf at the first address, whatever it permits (R226); 4 where no leaf
with an element size is found (log 40). -/
def cvtStride (c : Ctx) (s : State) (f : Operand) (off : W64) : Nat :=
  match cvtFirst c s f off with
  | some v =>
    if 2 ^ 54 ≤ v then 4
    else
      match s.find (.core c.g.core) (s.asidOf c.g) v with
      | .entry e _ => if fmtBytes (pteFmt e.pte) = 0 then 4 else fmtBytes (pteFmt e.pte)
      | _ => 4
  | none => 4

/-- The contiguous form of ld with cvt whose first page is not resident: no lane's address is known, so the instruction parks whole and is
issued again (R226, R231). -/
def cvtParks (c : Ctx) (s : State) (f : Operand) (off : W64) (looks : List LaneLook) : Bool :=
  match cvtFirst c s f off with
  | some v =>
    (match s.peek (.core c.g.core) (s.asidOf c.g) v c.g.sup .read with | .miss _ _ _ => true | _ => false)
      && looks.any fun x => !x.miss.isEmpty
  | none => false

/-- The walk for that first element has to wait. -/
def cvtWaits (c : Ctx) (s : State) (f : Operand) (off : W64) : List (Nat × Nat) :=
  match cvtFirst c s f off with
  | some v => if s.peekWaits (.core c.g.core) (s.asidOf c.g) v .read then [(v, 1)] else []
  | none => []

/-! ## Data -/

/-- The bytes of a lane's source of n bytes, from its row (R226). -/
def rowBytes (ln : Lane) (r n : Nat) : List Byte :=
  (List.range (n / 4)).flatMap fun k => leBytes 4 (ln.row (r + k)).toNat

/-- Loaded bytes in a lane's destination rows (R228, R229). Poisoned data poisons the rows it is written to (R474). -/
def Lane.putLoad (ln : Lane) (L : Load) (x : LoadLane) : Lane :=
  let bs := x.done.getD []
  let n := leNat bs
  let rows := if L.size = 16 then 4 else if L.size = 8 then 2 else 1
  let ln1 := match L.cvt with
    | some fm =>
      let v := cvtElem (Ty.ofCode (BitVec.ofNat 5 x.fmt)) L.ty (fenv fm) n
      laneWrite L.ty false L.part ln x.row (BitVec.ofNat 64 v)
    | none => (List.range rows).foldl (fun ln k =>
        { ln.setRow (x.row + k) (BitVec.ofNat 32 (n / 2 ^ (32 * k))) with poison := ln.poison.filter fun q => q != x.row + k }) ln
  if x.bad then (List.range rows).foldl (fun ln k => ln.loadPoison (x.row + k)) ln1 else ln1

/-! ## A load in flight -/

/-- Queued stores of the group that are visible at .grp scope show through a load of that scope (R290, R291). -/
def overlay (g : Group) (scope : Nat) (loc : Loc) (bs : List Byte) : List Byte :=
  if scope ≠ 0 then bs
  else
    g.stores.foldl (fun bs q =>
      match q.loc, loc with
      | .glob p, .glob a =>
        if q.near then bs.mapIdx fun i b => if p ≤ a + i ∧ a + i < p + q.bytes.length then q.bytes.getD (a + i - p) b else b else bs
      | _, _ => bs) bs

/-- Lanes have read a chunk at .grp scope: the stores visible there that it meets count as read (R298). -/
def Group.readNear (g : Group) (lanes : List Nat) (c : Chunk) : Group :=
  { g with stores := g.stores.map fun q =>
      if q.near && locOverlap c.loc c.n q.loc q.bytes.length then { q with seen := q.seen ++ lanes.filter fun l => !q.seen.contains l } else q }

/-- Bytes that a gather packet returns (R276): as storage holds them, for a slot without encryption. -/
def State.gatherBytes (s : State) (pa n : Nat) : List Byte :=
  (List.range n).map fun i =>
    let tag := s.tagNow (sectorOf pa)
    let b := if s.hasStorage (pa + i) then kget 0 s.mem.bytes (pa + i) else 0xFF
    if tag.key = 0 then b else b ^^^ s.keyByte tag (pa + i)

/-- One chunk of a load performed on this package: the bytes, and what its sector holds (R227, R276, R290). A failed MAC installs nothing
and gives bytes of no stated value (R488). -/
def State.readChunk (s : State) (g : Group) (gid scope : Nat) (gather : Bool) (c : Chunk) : State × List Byte × Look :=
  let asid := s.asidOf g
  match c.loc with
  | .scr off =>
    match klookup s.teams g.team with
    | some t => (s, t.scrBytes off c.n, if t.scrPoison off c.n then .poison else .ok)
    | none => (s, List.replicate c.n 0, .ok)
  | .glob pa =>
    if isDevReg pa then (s, s.devRead pa c.n, .ok)
    else
      match s.l1Serves g scope pa c.slot with
      | some x => (s.countCore g.core 0x07 asid, (x.bytes.drop (pa % 256)).take c.n, if x.bad then .poison else .ok)
      | none =>
        let look := s.look (sectorOf pa) c.slot
        if gather then
          let s0 := (s.countHub (homeHub pa) 0x20 (some asid)).countHub (homeHub pa) 0x21 (some asid)
          let s1 := s0.touch (.engine g.core asid) pa c.n false
          (s1.dropL1 fun k line => k == g.core && line == pa / 256, s1.gatherBytes pa c.n, look)
        else
          let (s1, bs) := s.readAt (scopeAgent gid g.core asid scope) pa c.n c.slot
          let s2 := s1.countCore g.core 0x08 asid
          if look = .mac then (s2, s.openBytes g.core c.n, look) else (s2.l1Fill g.core asid (pa / 256) c.slot, bs, look)

/-- A chunk that waits: an excluded line or a host commit (R336, R341), or its request waits at the core (R501). -/
def State.chunkWaits (s : State) (g : Group) (gid op : Nat) (c : Chunk) : Bool :=
  match c.loc with
  | .glob pa => !isDomain pa && (s.accessWaits (.group gid g.core (s.asidOf g)) pa c.n false || s.reqWaits op (sectorOf pa))
  | .scr _ => false

/-- An address of a node peer's memory (R282, R421). -/
def State.isPeer (s : State) (pa : Nat) : Bool := isDomain pa && s.peers.contains (domainPkg pa)

/-- What this package's caches hold of a node peer's sector for a load (R282): the core's L1 line, or the copy in L2 under the same slot. -/
def State.peerHit (s : State) (g : Group) (scope slot pa : Nat) : Option (State × List Byte) :=
  let asid := s.asidOf g
  if !s.isPeer pa then none
  else
    match s.l1Serves g scope pa slot with
    | some x => some (s.countCore g.core 0x07 asid, x.bytes)
    | none =>
      match klookup s.mem.peer (sectorOf pa) with
      | some e =>
        if e.slot = slot then
          some ((s.countCore g.core 0x08 asid).l1Put asid { core := g.core, line := pa / 256, slot := slot, bytes := e.bytes }, e.bytes)
        else none
      | none => none

/-- A sector of a node peer has come: it is held in L2 and in the core's L1 (R282). -/
def State.keepPeer (s : State) (core asid slot sec : Nat) (bs : List Byte) : State :=
  let s := s.l2Room sec
  ({ s with mem := { s.mem with peer := kput s.mem.peer sec { slot := slot, bytes := bs } } } : State).l1Put asid
    { core := core, line := sec, slot := slot, bytes := bs }

/-- What a load asks another package for: its bytes, or the whole sector of a node peer. -/
def State.remoteSpan (s : State) (pa n : Nat) : Nat × Nat := if s.isPeer pa then (pa / 256 * 256, 256) else (pa, n)

/-- A request of a core has to wait behind one of an instruction that issued earlier, for the same slice (R501). -/
def L2Req.behind (r : L2Req) (k : Nat) (e : Nat × L2Req) : Bool :=
  e.2.waiting && e.2.slice == r.slice && e.2.core == r.core && decide (e.2.op < r.op ∨ (e.2.op = r.op ∧ e.1 < k))

/-- One request enters its slice's queue, or waits at the core where the queue is full or an earlier request waits (R273, R500, R501). -/
def State.addReq (s : State) (core asid op : Nat) (ps : Nat × Nat) : State :=
  let k := match s.mem.l2q.getLast? with | some e => e.1 + 1 | none => 0
  let r : L2Req := { slice := sliceOf (ps.2 * 256), sector := ps.2, core := core, op := op, waiting := false, pass := ps.1, asid := asid,
                     since := s.hubClock }
  let waits := s.sliceFull (ps.2 * 256) || s.mem.l2q.any (r.behind k)
  { s with mem := { s.mem with l2q := kput s.mem.l2q k { r with waiting := waits } } }

/-- A chunk that the core's L1 does not serve needs a request to its home slice: one that its pass has not sent yet is sent (R500). -/
def State.askSlice (s : State) (g : Group) (op scope lane : Nat) (c : Chunk) : State :=
  match c.loc with
  | .glob pa =>
    if c.n = 0 || isDomain pa || isDevReg pa || (s.l1Serves g scope pa c.slot).isSome
        || s.mem.l2q.any (fun e => e.2.op == op && e.2.sector == sectorOf pa && e.2.pass == lane / 32) then s
    else s.addReq g.core (s.asidOf g) op (lane / 32, sectorOf pa)
  | .scr _ => s

/-- One chunk of a lane asked for or read, unless its page is not resident; a remote one is asked once, and a lost path gives bytes that hold no stated value and
leaves REMOTE_FAIL pending (R305, R429). -/
def State.stepChunk (s : State) (op : Nat) (L : Load) (g : Group) (x : LoadLane) (k : Nat) (c : Chunk) : State × LoadLane :=
  let read (s : State) (gather : Bool) : State × LoadLane :=
    let (s1, bs, look) := s.readChunk g L.gid L.scope gather c
    let s2 := if look = .mac then s1.modGroup L.gid fun g => { g with secPend := (loadLanes L x).foldl (fun m l => kput m l x.va) g.secPend } else s1
    (if L.scope = 0 then s2.modGroup L.gid fun g => g.readNear (loadLanes L x) c else s2,
     { x with got := kput x.got k (overlay g L.scope c.loc bs), bad := x.bad || look == .poison })
  if (klookup x.got k).isSome || c.n = 0 then (s, x)
  else
    let s := s.askSlice g op L.scope x.lane c
    if s.chunkWaits g L.gid op c then (s, x)
    else
    match c.loc with
    | .glob pa =>
      if isDomain pa then
        match s.peerHit g L.scope c.slot pa with
        | some (s1, bs) => (s1, { x with got := kput x.got k ((bs.drop (pa % 256)).take c.n) })
        | none =>
          if s.net.outs.any fun o => o.kind == .load op x.lane k then (s, x)
          else if (s.routes (domainPkg pa)).isEmpty then
            (s.remoteFail L.gid (loadLanes L x) x.va, { x with got := kput x.got k (s.openBytes x.lane c.n) })
          else
            let (a, n) := s.remoteSpan pa c.n
            match s.request (packetOf .readReq (domainPkg pa) (domainAddr a) n [] c.slot 0) (.load op x.lane k) none with
            | some (s1, _) => (s1, x)
            | none => (s, x)
      else read s (L.gather.contains x.lane)
    | .scr _ => read s false

/-- A lane whose chunks have all arrived is performed. -/
def LoadLane.close (x : LoadLane) : LoadLane :=
  if x.done.isNone && !x.chunks.isEmpty && decide (x.got.length = x.chunks.length) then { x with done := some (x.got.flatMap (·.2)) } else x

def Load.setLane (L : Load) (x : LoadLane) : Load := { L with lanes := L.lanes.map fun y => if y.lane = x.lane then x else y }

/-- Sectors of this package's memory that a lane has still to read. -/
def LoadLane.sectors (x : LoadLane) : List Nat :=
  x.chunks.zipIdx.filterMap fun e =>
    match e.1.loc with
    | .glob pa => if e.1.n = 0 || isDomain pa || (klookup x.got e.2).isSome then none else some (sectorOf pa)
    | .scr _ => none

/-- An entry of a slice's queue is free once the slice has served its sector to every lane of its pass (R500). -/
def State.freeLoadReqs (s : State) (op : Nat) (L : Load) : State :=
  let left (r : L2Req) : Bool := L.lanes.any fun x => x.lane / 32 == r.pass && x.done.isNone && x.sectors.contains r.sector
  { s with mem := { s.mem with l2q := s.mem.l2q.filter fun e => !(e.2.op == op && !left e.2) } }

/-- A store that the load may not pass: an older one of its own lanes to a chunk (R292), or, for a load wider than .grp, one that is visible at
.grp scope, whose value every later load of the group returns (R289, R291). -/
def mineFirst (L : Load) (x : LoadLane) (op : Nat) (q : QStore) : Bool :=
  ((decide (q.age < op) && meets q.lanes (loadLanes L x)) || (q.near && L.scope != 0))
    && x.chunks.any fun c => locOverlap c.loc c.n q.loc q.bytes.length

/-- A lane of a load in flight is performed, after its own older loads and stores of the same bytes (R292): such a store first becomes
visible at the load's scope (R291). -/
def State.performLane (s : State) (op lane : Nat) : State :=
  match klookup s.ops op with
  | some (.load L) =>
    match L.lanes.find? fun x => x.lane == lane with
    | some x =>
      let s := s.drainSome L.gid L.scope (mineFirst L x op)
      match klookup s.groups L.gid with
      | some g =>
        let older := x.chunks.any fun c => s.olderLoad L.gid (loadLanes L x) op (some (c.loc, c.n))
        if x.done.isSome || older || g.stores.any (fun q => mineFirst L x op q && !(L.scope == 0 && q.near)) then s
        else
          let (s, x) := (x.chunks.zipIdx).foldl (fun r e => r.1.stepChunk op L g r.2 e.2 e.1) (s, x)
          let L1 := L.setLane x.close
          (s.setOp op (.load L1)).freeLoadReqs op L1
      | none => s
    | none => s
  | _ => s

/-- A hold that waited for this load ends: an acquire then takes effect (R297, R299). -/
def Group.dropHold (g : Group) (op : Nat) : Group :=
  match g.fence with
  | some f => if f.kind = .acquire ∧ f.loads.contains op then { g with fence := none } else g
  | none => g

/-- The destination of a load: the scalar of ldu (R233), or the rows of its lanes. -/
def Group.putLoads (g : Group) (L : Load) : Group :=
  match L.scal, L.lanes with
  | some k, x :: _ => g.setS k (scalWrite L.ty (BitVec.ofNat 64 (leNat (x.done.getD []))))
  | some _, [] => g
  | none, xs => g.modLanes (xs.map (·.lane)) fun l ln =>
      match xs.find? fun x => x.lane == l with | some x => ln.putLoad L x | none => ln

/-- The L1 lines of the core that a performed load or atomic puts out of use: an acquire at a scope other than .grp does (R299), and for
the accesses that depend on it any load at a scope at which its L1 may hold older values (R293). Scratchpad is ordered at .team scope
whatever the scope field holds (R227). -/
def State.seeOthers (s : State) (gid scope : Nat) (acq : Bool) : State :=
  match klookup s.groups gid with
  | some g =>
    let paired : Bool := match klookup s.teams g.team with | some t => t.paired | none => false
    if scope ≠ 0 ∧ (acq ∨ 2 ≤ scope ∨ paired) then s.acquireAt g.core else s
  | none => s

/-- A load whose lanes are all performed writes its destination and releases it (R228, R233). A scalar cannot hold poison: its lanes
consume it at once (R474). -/
def State.finishLoad (s : State) (op : Nat) (L : Load) : State :=
  let s := (s.dropReqs op).delOp op
  let s := s.modGroup L.gid fun g => (g.land s.free op (g.putLoads L)).dropHold op
  let s := if L.scal.isNone then s
    else s.latePoison L.gid ((L.lanes.filter (·.bad)).flatMap fun x => (loadLanes L x).map fun l => (l, x.va))
  s.seeOthers L.gid (if L.lanes.any fun x => x.chunks.any Chunk.isScr then max L.scope 1 else L.scope) L.acq

/-- GATHER_DIRECT_RETURN (R276): the lanes of the gather packet are performed, in lane order. -/
def execGatherDirectReturn (load : Nat) (s : State) : Host.Outcome State Fault Refusal :=
  match klookup s.ops load with
  | some (.load L) => .next (L.gather.foldl (fun s l => s.performLane load l) s)
  | _ => .next s

/-! ## Requests at the slices -/

/-- Home sectors that a load asks for, pass by pass: memory of this package that its core's L1 does not serve (R500). -/
def State.loadSectors (s : State) (g : Group) (scope : Nat) (xs : List LoadLane) : List (Nat × Nat) :=
  ((xs.flatMap fun x => x.chunks.filterMap fun c =>
    match c.loc with
    | .glob pa => if c.n = 0 || isDomain pa || isDevReg pa || (s.l1Serves g scope pa c.slot).isSome then none else some (x.lane / 32, sectorOf pa)
    | .scr _ => none)).dedup

/-- L2_REQUEST_DEFERRED (R501): a waiting request enters the queue when an entry is free, in issue order for one slice. The hub clocks
that it waited are counted (R496). -/
def execL2RequestDeferred (req : Nat) (s : State) : Host.Outcome State Fault Refusal :=
  match klookup s.mem.l2q req with
  | some r =>
    if r.waiting && !s.sliceFull (r.sector * 256) && !s.mem.l2q.any (r.behind req) then
      .next { (s.countHub (homeHub (r.sector * 256)) 0x22 (some r.asid) (s.hubClock - r.since)) with
        mem := { s.mem with l2q := kput s.mem.l2q req { r with waiting := false } } }
    else .next s
  | none => .next s

/-- The group of a queued request that names a sector of a slot, if any (R500); what only a gather packet names is not filled (R276). -/
def State.fillFor (s : State) (sector slot : Nat) : Option Nat :=
  s.mem.l2q.findSome? fun e =>
    if e.2.sector = sector ∧ !e.2.waiting then
      match klookup s.ops e.2.op with
      | some (.load L) =>
        if L.lanes.any fun x => !L.gather.contains x.lane && x.chunks.any fun c =>
            match c.loc with | .glob pa => c.n != 0 && sectorOf pa == sector && c.slot == slot | .scr _ => false then some L.gid else none
      | _ => none
    else none

/-- L2_FILL (R500): a slice fills a sector that a queued request names. -/
def execL2Fill (sector slot : Nat) (s : State) : Host.Outcome State Fault Refusal :=
  match s.fillFor sector slot with
  | some gid =>
    .next (s.fillSector sector slot (match klookup s.groups gid with | some g => s.asidOf g | none => 0))
  | none => .next s

/-! ## Gather-direct -/

/-- A lane that may go in a gather packet, with its 256 KiB window (R275): its sectors miss L2, and its pages have GD, are local, have HBM4
storage and a slot without encryption. -/
def State.gatherWindow (s : State) (g : Group) (scope : Nat) (x : LaneLook) : Option Nat :=
  let ok (c : Chunk) : Bool := match c.loc with
    | .glob pa =>
      (klookup s.mem.l2 (sectorOf pa)).isNone && (s.l1Serves g scope pa c.slot).isNone && isHbm pa && s.hasStorage pa && (s.slot c.slot).kind == 1
        && (match s.find (.core g.core) (s.asidOf g) c.virt with | .entry e _ => pteGd e.pte && pteIl e.pte == 0 | _ => false)
    | .scr _ => false
  match (x.chunks.map fun c => match c.loc with | .glob pa => pa / 2 ^ 18 | .scr _ => 0).dedup with
  | [w] => if x.chunks.all ok then some w else none
  | _ => none

/-- The lanes of one pass that go in gather packets, one packet for each window (R275). -/
def State.gatherPass (s : State) (g : Group) (scope : Nat) (xs : List LaneLook) : List (Nat × Nat) :=
  xs.filterMap fun x => (s.gatherWindow g scope x).map fun w => (x.lane, w)

/-- The lanes of a load that go in gather packets, and the packets counted (R275, R496). -/
def State.sendGather (s : State) (g : Group) (scope : Nat) (ready : List LaneLook) : State × List Nat :=
  let passes := [s.gatherPass g scope (ready.filter (·.lane < 32)), s.gatherPass g scope (ready.filter fun x => 32 ≤ x.lane)]
  ((passes.flatMap fun es => (es.map (·.2)).dedup).foldl (fun s w => s.countHub (homeHub (w * 2 ^ 18)) 0x23 (some (s.asidOf g))) s,
   passes.flatten.map (·.1))

/-! ## ld and ldu -/

/-- A lane's poisoned register is consumed after the access's other causes (R232, R417, R474). -/
def poisonLook (sh : Shape) (cvt : Bool) (c : Ctx) (x : LaneLook) : LaneLook :=
  match poisonFails sh c.g c.h [x.lane] with
  | (_, v) :: _ =>
    if (match x.cause with | some k => decide (k.1 ≤ rankOf cvt cPoison) | none => false) then x
    else { x with cause := some (rankOf cvt cPoison, cPoison), va := v, mac := [], miss := [], chunks := [] }
  | [] => x

/-- A lane's look as an entry of the load. -/
def loadLane (c : Ctx) (lk : LaneLook) : LoadLane :=
  { lane := lk.lane, row := rowOf c.g c.h.d lk.lane, va := lk.va, chunks := lk.chunks, fmt := lk.fmt, got := [], done := none, bad := false }

/-- The transactional lanes of a load, in lane order: the states they leave and the values they got. -/
def State.txLoads (s : State) (c : Ctx) (asid : Nat) (ls : List (Nat × W64 × TxLook)) :
    State × List (Nat × W64 × Nat × List Byte) :=
  ls.foldl (fun r e =>
    match e.2.2 with
    | .doom cause key miss pieces => (r.1.txDoom c.gid e.1 c.g .read asid cause key miss pieces e.2.1, r.2)
    | .ok chunks pieces fmt =>
      let s1 := pieces.foldl (fun s p => s.useEntry (.core c.g.core) asid p.1 .read) r.1
      let (s2, v) := s1.txLoad c.gid e.1 asid e.2.1 chunks
      (s2, match v with | some bs => r.2 ++ [(e.1, e.2.1, fmt, bs)] | none => r.2)
    | _ => r) (s, [])

/-- The causes of a failed MAC in transactional lanes, as looks (R329, R488). -/
def txMacs (ls : List (Nat × W64 × TxLook)) : List LaneLook :=
  ls.filterMap fun e =>
    match e.2.2 with
    | .mac m => some { lane := e.1, va := e.2.1, n := 0, cause := some (rankOf false cSecurity, cSecurity), key := false, mac := m,
                       miss := [], chunks := [], fmt := 0, pieces := [] }
    | _ => none

/-- Something that the access meets has to wait before it is judged (R336, R341). -/
def anyWait (looks : List LaneLook) (txs : List (Nat × W64 × TxLook)) : Bool :=
  looks.any (·.wait) || txs.any fun e => match e.2.2 with | .wait _ => true | _ => false

/-- It waits at issue; a walk whose tables lie in another package asks for them (R274, R282). -/
def waitLooks (c : Ctx) (s : State) (looks : List LaneLook) (txs : List (Nat × W64 × TxLook)) : Effect :=
  let pieces := looks.flatMap (·.pieces) ++ txs.flatMap fun e => match e.2.2 with | .wait ps => ps | _ => []
  .stop (pieces.foldl (fun s p => s.askTables (.core c.g.core) (s.asidOf c.g) p.1) s)

/-- Home sectors that the transactional lanes of a load read, pass by pass. -/
def txSectors (txs : List (Nat × W64 × TxLook)) : List (Nat × Nat) :=
  (txs.flatMap fun e => match e.2.2 with
    | .ok cs _ _ => cs.filterMap fun c => match c.loc with | .glob pa => some (e.1 / 32, sectorOf pa) | .scr _ => none
    | _ => []).dedup

/-- The requests of a load's transactional lanes (R500, R501): where one finds its slice full, or an earlier request waiting there, they are sent
under a number of their own, and the load waits at issue until each has entered its queue. -/
def State.txAdmit (s : State) (gid : Nat) (g : Group) (txs : List (Nat × W64 × TxLook)) : Option State × State :=
  let secs := txSectors txs
  match g.sent with
  | some op => if secs.any fun x => s.reqWaits op x.2 then (none, s) else (some ((s.dropReqs op).modGroup gid fun g => { g with sent := none }), s)
  | none =>
    if secs.any fun x => s.sliceFull (x.2 * 256)
        || s.mem.l2q.any (fun e => e.2.waiting && e.2.core == g.core && e.2.slice == sliceOf (x.2 * 256)) then
      let op := s.nextOp
      let s1 := ({ s with nextOp := op + 1 } : State).modGroup gid fun g => { g with sent := some op }
      (none, secs.foldl (fun s x => s.addReq g.core (s.asidOf g) op x) s1)
    else (some s, s)

/-- A load handed over: its operation, its busy destination, its requests, and the hold of an acquire. -/
def State.postLoad (s : State) (c : Ctx) (L : Load) (items : List Item) : State × Nat :=
  let op := s.nextOp
  let s1 := s.addOp (.load L)
  let s2 := s1.modGroup c.gid fun g =>
    { g with busy := g.busy ++ items.map (fun it => { item := it, op := op })
             fence := if L.acq then some { kind := .acquire, lanes := c.ps, mask := 0, loads := [op] } else g.fence }
  ((s.loadSectors c.g L.scope L.lanes).foldl (fun s x => s.addReq c.g.core (s.asidOf c.g) op x) s2, op)

/-- A load of looks and transactional lanes that raised no cause: parked where a page is not resident (R231, R507), else in
flight. -/
def loadGo (c : Ctx) (s : State) (looks : List LaneLook) (txs : List (Nat × W64 × TxLook)) (size scope : Nat) (scal : Option Nat)
    (cvt : Option W32) (acq : Bool) (items : List Item) : Effect :=
  let asid := s.asidOf c.g
  match s.txAdmit c.gid c.g txs with
  | (none, s) => .stop s
  | (some s, _) =>
  let (s1, vals) := s.txLoads c asid txs
  let ready := looks.filter fun x => x.miss.isEmpty
  let s2 := s1.usePieces c.g .read ready
  let (s3, gather) := if scal.isSome then (s2, []) else s2.sendGather c.g scope ready
  let done := vals.map fun e =>
    ({ lane := e.1, row := rowOf c.g c.h.d e.1, va := e.2.1, chunks := [], fmt := e.2.2.1, got := [], done := some e.2.2.2, bad := false } :
      LoadLane)
  let xs := match scal with
    | some _ => ((looks.map (loadLane c) ++ done).mergeSort fun a b => decide (a.lane ≤ b.lane)).take 1
    | none => looks.map (loadLane c) ++ done
  let L : Load := { gid := c.gid, lanes := xs, uni := if scal.isSome then c.ps else [], size := size, ty := c.h.ty, part := partOf c.h.d,
                    scal := scal, cvt := cvt, scope := scope, acq := acq, gather := gather }
  if xs.isEmpty then .done s3
  else
    let (s4, op) := s3.postLoad c L items
    if (looks.any fun x => !x.miss.isEmpty) then .block (s4.parkLooks c.g .read looks) (.load op) else .done s4

/-- LD (R226 to R232). -/
def execLd (h : Head) (s : State) : Host.Outcome State Fault Refusal :=
  issue (fun _ => ldShape h) h
    (fun c s =>
      let cvt := h.mods.getLsbD 4
      let asid := s.asidOf c.g
      let off := accOff h.b
      let n := if cvt then cvtStride c s h.a off else accSize h
      let ask : Ask := { use := .read, scope := scopeOf h.mods, packed := false, noDev := false, cvt := cvt }
      let va (l : Nat) : W64 := laneAddr c s h.a off n l
      let look (ask : Ask) (l : Nat) : LaneLook :=
        poisonLook (ldShape h) cvt c (if cvt then s.cvtLook c.g asid ask l (va l) else s.laneLook c.g asid ask (some l) l (va l) n)
      let looks := c.plain.map (look ask)
      let txs := c.txLanes.map fun l => (l, va l, s.txJudge c.gid c.g asid false l (look { ask with scope := 5 } l))
      let first := if cvt then cvtWaits c s h.a off else []
      if c.ps.isEmpty then .done s
      else if anyWait looks txs || !first.isEmpty then
        waitLooks c (first.foldl (fun s p => s.askTables (.core c.g.core) asid p.1) s) looks txs
      else
        match firstCause (looks ++ txMacs txs) with
        | some (cause, hs) => causeEffect c s cause hs
        | none =>
          if cvt && cvtParks c s h.a off looks then parkWhole c s .read looks
          else loadGo c s looks txs (if cvt then 4 else n) (scopeOf h.mods) none (if cvt then some c.g.fmode else none) (h.mods.getLsbD 3)
            (fldItems c.g (ldShape h).d h.d)) s

/-- LDU (R233): one access for the group; an open lane logs it separately (R323). -/
def execLdu (h : Head) (s : State) : Host.Outcome State Fault Refusal :=
  issue (fun _ => lduShape h) h
    (fun c s =>
      let asid := s.asidOf c.g
      let n := accSize h
      let va := c.g.getS (scalNum h.a) + accOff h.b
      let ask : Ask := { use := .read, scope := scopeOf h.mods, packed := false, noDev := false, cvt := false }
      let lk := s.laneLook c.g asid ask none (lowest c.plain) va n
      let txs := c.txLanes.map fun l => (l, va, s.txLook c.gid c.g asid .read false none l va n)
      let looks := if c.plain.isEmpty then [] else [lk]
      if c.ps.isEmpty then .done s
      else if anyWait looks txs then waitLooks c s looks txs
      else
        match firstCause (looks ++ txMacs txs) with
        | some (cause, hs) =>
          causeEffect c s cause (hs.flatMap fun x => if x.mac.isEmpty ∨ x.n ≠ 0 then c.plain.map fun l => { x with lane := l } else [x])
        | none => loadGo c s looks txs n (scopeOf h.mods) (some (scalNum h.d)) none (h.mods.getLsbD 3)
            (if scalNum h.d = 0 then [] else [.scal (scalNum h.d)])) s

/-- A lane of a load with a page that is not resident yet (R507). -/
def LoadLane.parked (x : LoadLane) : Bool := x.done.isNone && (x.chunks.isEmpty || x.chunks.contains holeChunk)

/-- What a lane has once its missing words have been looked at again: the words that it had stay as they are (R507). -/
def LoadLane.fill (x : LoadLane) (y : LaneLook) : LoadLane :=
  if x.chunks.isEmpty then { x with chunks := y.chunks, fmt := y.fmt }
  else
    let step (r : List Chunk × List Chunk) (c : Chunk) : List Chunk × List Chunk :=
      if c = holeChunk then (r.1 ++ r.2.take 1, r.2.drop 1) else (r.1 ++ [c], r.2)
    { x with chunks := (x.chunks.foldl step ([], y.chunks)).1 }

/-- A parked lane looked at again: its address whole, or the words whose pages were not resident. -/
def State.relook (s : State) (g : Group) (L : Load) (x : LoadLane) : LaneLook :=
  let asid := s.asidOf g
  let ask : Ask := { use := .read, scope := L.scope, packed := false, noDev := false, cvt := L.cvt.isSome }
  if x.chunks.isEmpty then
    if L.cvt.isSome then s.cvtLook g asid ask x.lane x.va
    else s.laneLook g asid ask (if L.scal.isSome then none else some x.lane) x.lane x.va L.size
  else
    let n := if L.cvt.isSome then fmtBytes x.fmt else L.size
    let words := match s.target g (some x.lane) x.va n with | .virt ps => ps | _ => []
    let left := ((words.zip x.chunks).filter fun e => e.2 == holeChunk).map (·.1)
    s.lookPieces g asid ask { lane := x.lane, va := x.va, n := n, cause := none, key := false, mac := [], miss := [], chunks := [], fmt := x.fmt,
                              pieces := left }

/-- A parked load at a replay (R507): the pages now resident are used, and the group goes on once every lane has its place; a
lane that now meets a cause traps. A walk that has to wait is made again later (R336, R341). -/
def State.reissueLoad (s : State) (gid op : Nat) : State :=
  match klookup s.groups gid, klookup s.ops op with
  | some g, some (.load L) =>
    let asid := s.asidOf g
    let looks := (L.lanes.filter (·.parked)).map (s.relook g L)
    if looks.any (·.wait) then
      ((looks.flatMap (·.pieces)).foldl (fun s p => s.askTables (.core g.core) asid p.1) s).setOp op (.load { L with again := true })
    else
    match firstCause looks with
    | some (cause, hs) =>
      let lanes := (hs.map fun x => (x.lane, x.va)).flatMap fun e => if L.uni.isEmpty then [e] else L.uni.map fun l => (l, e.2)
      let s1 := (s.noteLooks g.core asid hs).delOp op
      let s2 := (s1.dropReqs op).modGroup gid fun g => { (g.release op).dropHold op with wait := .none, held := none }
      trapAt s2 gid g cause lanes
    | none =>
      let ready := looks.filter fun x => x.miss.isEmpty
      let s1 := s.usePieces g .read ready
      let (s2, more) := if L.scal.isSome then (s1, []) else s1.sendGather g L.scope (ready.filter fun y => !(L.lanes.any fun x => x.lane == y.lane && !x.chunks.isEmpty))
      let xs := L.lanes.map fun x => match looks.find? fun y => y.lane == x.lane with
        | some y => x.fill y
        | none => x
      let s3 := (s2.setOp op (.load { L with lanes := xs, gather := L.gather ++ more, again := false })).parkLooks g .read looks
      let s4 := (xs.flatMap fun x => x.chunks.map fun c => (x.lane, c)).foldl (fun s e => s.askSlice g op L.scope e.1 e.2) s3
      if looks.any fun x => !x.miss.isEmpty then s4 else s4.modGroup gid fun g => g.completeHeld s.clock
  | _, _ => s

/-- LOAD_DATA_RETURN (R228, R501): every lane that can be is performed, in lane order; when all are, the destination is written. A
replay that had to wait is made first. -/
def execLoadDataReturn (load : Nat) (s : State) : Host.Outcome State Fault Refusal :=
  match klookup s.ops load with
  | some (.load L0) =>
    let s0 := if L0.again then s.reissueLoad L0.gid load else s
    let s1 := (L0.lanes.map (·.lane)).foldl (fun s l => s.performLane load l) s0
    match klookup s1.ops load with
    | some (.load L1) => .next (if L1.lanes.all fun x => x.done.isSome then s1.finishLoad load L1 else s1)
    | _ => .next s1
  | _ => .next s

/-! ## st and stu -/

/-- Sectors that an instruction writes whole (R474). -/
def wholeSectors (cs : List Chunk) : List Nat :=
  let bytes := (cs.flatMap fun c => match c.loc with | .glob pa => (List.range c.n).map (pa + ·) | .scr _ => []).dedup
  ((bytes.map sectorOf).dedup).filter fun sec => (bytes.filter fun p => sectorOf p == sec).length == 256

/-- Bytes of a lane's store dealt to its chunks. -/
def dealBytes : List Chunk → List Byte → List (Chunk × List Byte)
  | [], _ => []
  | c :: r, bs => (c, bs.take c.n) :: dealBytes r (bs.drop c.n)

/-- Stores enter the queue in lane order under one number (R230, R295), and each pass sends a request to the home slice of each sector
that it writes (R500). Scratchpad is ordered at .team scope whatever the scope field holds (R227). -/
def State.queueStores (s : State) (gid : Nat) (es : List (List Nat × W64 × List Chunk × List Byte)) (colour scope : Nat) (rel : Bool)
    (rem : Option W64) : State :=
  let whole := wholeSectors (es.flatMap fun e => e.2.2.1)
  let age := s.nextOp
  let qs : List QStore := es.flatMap fun e => (dealBytes e.2.2.1 e.2.2.2).map fun p =>
    { lanes := e.1, loc := p.1.loc, bytes := p.2, colour := colour, slot := p.1.slot, va := e.2.1, age := age, virt := p.1.virt,
      scope := if p.1.isScr then max scope 1 else scope,
      full := (match p.1.loc with | .glob pa => !isDomain pa && !isDevReg pa && whole.contains (sectorOf pa) | .scr _ => false),
      rem := rem, rid := none, rel := rel }
  let s1 := { s.modGroup gid (fun g => { g with stores := g.stores ++ qs }) with nextOp := age + 1 }
  let reqs := (qs.flatMap fun q => match q.loc with
    | .glob pa => if q.canNear then ((q.lanes.map (· / 32)).dedup.take 1).map fun k => (k, sectorOf pa) else []
    | .scr _ => []).dedup
  match klookup s.groups gid with
  | some g => reqs.foldl (fun s x => s.addReq g.core (s.asidOf g) age x) s1
  | none => s1

/-- The transactional lanes of a store, in lane order (R323). -/
def State.txStores (s : State) (c : Ctx) (asid : Nat) (ls : List (Nat × W64 × TxLook)) (data : Nat → List Byte) : State :=
  ls.foldl (fun s e =>
    match e.2.2 with
    | .doom cause key miss pieces => s.txDoom c.gid e.1 c.g .write asid cause key miss pieces e.2.1
    | .ok chunks pieces _ =>
      (pieces.foldl (fun s p => s.useEntry (.core c.g.core) asid p.1 .write) s).txStore c.gid e.1 chunks (data e.1)
    | _ => s) s

/-- The common part of st and stu: causes, waits, parking whole, transactional lanes, then the queue. -/
def storeGo (c : Ctx) (s : State) (looks : List LaneLook) (txs : List (Nat × W64 × TxLook)) (data : Nat → List Byte)
    (entry : LaneLook → List Nat) (hset : LaneLook → List LaneLook) : Effect :=
  let asid := s.asidOf c.g
  if anyWait looks txs then waitLooks c s looks txs
  else
  match firstCause looks with
  | some (cause, hs) => causeEffect c s cause (hs.flatMap hset)
  | none =>
    if looks.any fun x => !x.miss.isEmpty then parkWhole c s .write looks
    else
      let s1 := (s.txStores c asid txs data).usePieces c.g .write looks
      .done (s1.queueStores c.gid (looks.map fun x => (entry x, x.va, x.chunks, data x.lane)) (accCol c.h.b) (scopeOf c.h.mods)
        (c.h.mods.getLsbD 3) none)

/-- ST (R226, R230 to R232). -/
def execSt (h : Head) (s : State) : Host.Outcome State Fault Refusal :=
  issue (fun _ => stShape h) h
    (fun c s =>
      let asid := s.asidOf c.g
      let n := accSize h
      let ask : Ask := { use := .write, scope := scopeOf h.mods, packed := true, noDev := false, cvt := false }
      let va (l : Nat) : W64 := laneAddr c s h.d (accOff h.b) n l
      let data (l : Nat) : List Byte := rowBytes (c.g.lane l) (rowOf c.g h.a l) n
      let look (ask : Ask) (l : Nat) : LaneLook := poisonLook (stShape h) false c (s.laneLook c.g asid ask (some l) l (va l) n)
      let txs := c.txLanes.map fun l => (l, va l, s.txJudge c.gid c.g asid true l (look { ask with scope := 5 } l))
      if c.ps.isEmpty then .done s
      else storeGo c s (c.plain.map (look ask)) txs data (fun x => [x.lane]) fun x => [x]) s

/-- STU (R233). -/
def execStu (h : Head) (s : State) : Host.Outcome State Fault Refusal :=
  issue (fun _ => stuShape h) h
    (fun c s =>
      let asid := s.asidOf c.g
      let n := accSize h
      let ask : Ask := { use := .write, scope := scopeOf h.mods, packed := true, noDev := false, cvt := false }
      let va := c.g.getS (scalNum h.d) + accOff h.b
      let data (_ : Nat) : List Byte := leBytes n (c.g.getS (scalNum h.a)).toNat
      let txs := c.txLanes.map fun l => (l, va, s.txLook c.gid c.g asid .write true none l va n)
      if c.ps.isEmpty then .done s
      else
        storeGo c s (if c.plain.isEmpty then [] else [s.laneLook c.g asid ask none (lowest c.plain) va n]) txs data (fun _ => c.plain)
          fun x => c.plain.map fun l => { x with lane := l }) s

/-! ## pref -/

/-- A line requested with no visible effect (R234): nothing where the request would transfer a region, revoke an owner, abort a
host transaction, fail a MAC or wait. -/
def State.prefetch (s : State) (gid core asid pa slot : Nat) (l1 : Bool) : State :=
  let quiet := s.hasStorage pa && !s.accessWaits (.group gid core asid) pa 4 false && !s.needsTransfer true pa && s.fillCheck (sectorOf pa) slot != .mac
    && !(s.hosts.any fun e => e.2.hit e.1 (hostLine pa) false) && !s.sliceFull pa
    && (match klookup s.mem.atom (pa / 256) with | some a => a.owner.isNone | none => true)
    && (match klookup s.mem.l2 (sectorOf pa) with | some e => e.slot == slot | none => true)
  if quiet then
    let s := s.fillSector (sectorOf pa) slot asid
    if l1 then s.l1Fill core asid (pa / 256) slot else s
  else s

/-- PREF (R234): ignored inside a transaction (R323), and in a lane whose address row is poisoned. -/
def execPref (h : Head) (s : State) : Host.Outcome State Fault Refusal :=
  issue (fun _ => prefShape h) h
    (fun c s =>
      let asid := s.asidOf c.g
      let ls := c.plain.filter fun l => (poisonFails (prefShape h) c.g h [l]).isEmpty
      .done (ls.foldl (fun s l =>
        let va := laneAddr c s h.a (accOff h.b) 4 l
        let ask : Ask := { use := .read, scope := 5, packed := false, noDev := true, cvt := false }
        let lk := s.laneLook c.g asid ask (some l) l va 4
        match lk.cause, lk.chunks with
        | none, [ch] =>
          match ch.loc with
          | .glob pa => if isDomain pa then s else s.prefetch c.gid c.g.core asid pa ch.slot (h.mods.getLsbD 0)
          | .scr _ => s
        | _, _ => s) s)) s

/-! ## cvta and isap -/

/-- First address of a space's window. -/
def State.spaceBase (s : State) (core : Nat) (sp : Nat) : W64 :=
  let d := s.die (dieOf core)
  BitVec.ofNat 64 (match sp with | 1 => apBase d.apscr | 2 => apBase d.appair | 3 => apBase d.aploc | _ => 0)

def spaceNum : Space → Nat
  | .glob => 0 | .scr => 1 | .pair => 2 | .loc => 3 | .none => 4

/-- Whether an address lies in a window (R221). -/
def State.inWindow (s : State) (core sp : Nat) (x : W64) : Bool :=
  decide ((s.spaceBase core sp).toNat ≤ x.toNat ∧ x.toNat < (s.spaceBase core sp).toNat + 2 ^ 32)

/-- The conversion of R235: from a generic address by the named window alone. -/
def State.convertAddr (s : State) (core sp : Nat) (fromGen : Bool) (x : W64) : W64 :=
  let ones : W64 := 0xFFFFFFFFFFFFFFFF
  if sp = 0 then (if x.toNat < 2 ^ 54 then x else ones)
  else if fromGen then (if s.inWindow core sp x then x - s.spaceBase core sp else ones)
  else if x.toNat < 2 ^ 32 then s.spaceBase core sp + x else ones

def cvtaShape (h : Head) : Shape :=
  { major := 0x71, minor := 0, tyOk := h.ty == .b32, modsOk := decide (h.mods.toNat < 8), d := fDst .n64, a := fAddr,
    lat := (4, 1) }
/-- CVTA (R235). -/
def execCvta (h : Head) (s : State) : Host.Outcome State Fault Refusal :=
  issue (fun _ => cvtaShape h) h
    (fun c s =>
      let v (l : Nat) : W64 :=
        s.convertAddr c.g.core (h.mods.extractLsb' 0 2).toNat (h.mods.getLsbD 2) (c.readA (cvtaShape h) l)
      if c.ps.isEmpty then .done s
      else if isScal h.d then c.onGroup s fun g => g.setS (scalNum h.d) (v (lowest c.ps))
      else c.onGroup s (c.writeVec (cvtaShape h) v)) s

def isapShape (h : Head) : Shape :=
  { major := 0x71, minor := 1, tyOk := h.ty == .b32, modsOk := decide (h.mods.toNat < 4),
    d := if isScal h.d then fScal else .cls 8, a := fAddr, lat := (4, 1),
    writes := if isScal h.d then [] else flagItems (clsNum h.d) }
/-- ISAP (R236). -/
def execIsap (h : Head) (s : State) : Host.Outcome State Fault Refusal :=
  issue (fun _ => isapShape h) h
    (fun c s =>
      let v (l : Nat) : Bool := spaceNum (s.spaceOf c.g.core (c.readA (isapShape h) l)).1 == h.mods.toNat
      if c.ps.isEmpty then .done s
      else if isScal h.d then c.onGroup s fun g => g.setS (scalNum h.d) (if c.ps.all v then 1 else 0)
      else c.onGroup s fun g => g.setFlags c.ps (clsNum h.d) v) s

/-! ## cflush and cinv -/

/-- The physical address of a lane's address for cache maintenance: none for the scratch and pair windows, and an address with no valid
translation, which cflush ignores (R238) and so, by the model's choice, does cinv (log 74). What the leaf permits plays no part. -/
def State.cachePa (s : State) (g : Group) (l : Nat) (va : W64) : Option Nat :=
  match s.target g (some l) va 1 with
  | .virt ((v, _) :: _) =>
    if 2 ^ 54 ≤ v then none
    else match s.find (.core g.core) (s.asidOf g) v with
      | .entry e _ => some (e.addr v)
      | _ => none
  | _ => none

/-- That address where it is one of this package's memory (R238). -/
def State.cacheAddr (s : State) (g : Group) (l : Nat) (va : W64) : Option Nat :=
  (s.cachePa g l va).filter fun pa => !isDomain pa && !isDevReg pa

/-- A walk of cache maintenance has to wait. -/
def State.cacheWaits (s : State) (g : Group) (ls : List (Nat × W64)) : Bool :=
  ls.any fun e =>
    match s.target g (some e.1) e.2 1 with
    | .virt ((v, _) :: _) => s.peekWaits (.core g.core) (s.asidOf g) v .read
    | _ => false

/-- It waits at issue, and asks for tables in another package. -/
def cacheRetry (c : Ctx) (s : State) (ls : List (Nat × W64)) : Effect :=
  .stop (ls.foldl (fun s e =>
    match s.target c.g (some e.1) e.2 1 with
    | .virt ((v, _) :: _) => s.askTables (.core c.g.core) (s.asidOf c.g) v
    | _ => s) s)

/-- The walks that cache maintenance of the lanes' addresses makes (R238). -/
def State.cacheWalks (s : State) (g : Group) (ls : List (Nat × W64)) : State :=
  ls.foldl (fun s e =>
    match s.target g (some e.1) e.2 1 with
    | .virt ((v, _) :: _) => s.touchWalk (.core g.core) (s.asidOf g) v
    | _ => s) s

/-- A token register held busy by an operation. -/
def tokenItems (f : Operand) : List Item := if scalNum f = 0 then [] else [.scal (scalNum f)]
def State.postToken (s : State) (gid : Nat) (o : Op) (d : Operand) : State :=
  let op := s.nextOp
  (s.addOp o).modGroup gid fun g => { g with busy := g.busy ++ (tokenItems d).map fun it => { item := it, op := op } }

/-- A token is written and released. -/
def State.writeToken (s : State) (gid op dst : Nat) (v : W64) : State := s.modGroup gid fun g => g.land s.free op (g.setS dst v)

def cflushShape (h : Head) : Shape :=
  { major := 0x72, minor := 0, tyOk := h.ty == .b32, modsOk := decide (h.mods.toNat < 2), d := fScal, a := fAddr, access := true }
/-- CFLUSH (R238): the lines are taken at issue. -/
def execCflush (h : Head) (s : State) : Host.Outcome State Fault Refusal :=
  issue (fun _ => cflushShape h) h
    (outsideTx fun c s =>
      if c.ps.isEmpty then .done s
      else
        let asks := c.ps.map fun l => (l, c.readA (cflushShape h) l)
        if s.cacheWaits c.g asks then cacheRetry c s asks
        else
        let lines := (asks.filterMap fun e => (s.cacheAddr c.g e.1 e.2).map l2LineOf).dedup
        let s1 := s.cacheWalks c.g asks
        .done (s1.postToken c.gid (.cflush c.gid (scalNum h.d) lines (h.mods.getLsbD 0)) h.d)) s

/-- One L2 line written back, atomic owners revoked first; with inv the line and the core's L1 lines of it leave (R238). -/
def State.flushLine (s : State) (core asid line : Nat) (inv : Bool) : State :=
  let secs := (List.range 4).map (4 * line + ·)
  let s := secs.foldl (fun s sec => s.revoke (sec * 256) none asid) s
  if inv then (secs.foldl (fun s sec => s.dropSector sec) s).dropL1 fun c l => c == core && l / 4 == line
  else secs.foldl (fun s sec => s.writeBack sec) s

/-- CFLUSH_COMPLETE (R238). -/
def execCflushComplete (op : Nat) (s : State) : Host.Outcome State Fault Refusal :=
  match klookup s.ops op with
  | some (.cflush gid dst lines inv) =>
    match klookup s.groups gid with
    | some g =>
      .next (((lines.foldl (fun s x => s.flushLine g.core (s.asidOf g) x inv) s).writeToken gid op dst 1).delOp op)
    | none => .next (s.delOp op)
  | _ => .next s

def cinvShape (h : Head) : Shape :=
  { major := 0x72, minor := 1, tyOk := h.ty == .b32, modsOk := decide (h.mods.toNat < 3), a := if h.mods = 0 then fAddr else .zero,
    access := true }
/-- CINV (R239). -/
def execCinv (h : Head) (s : State) : Host.Outcome State Fault Refusal :=
  issue (fun _ => cinvShape h) h
    (outsideTx fun c s =>
      if c.ps.isEmpty then .done s
      else if h.mods = 0 then
        let asks := c.ps.map fun l => (l, c.readA (cinvShape h) l)
        if s.cacheWaits c.g asks then cacheRetry c s asks
        else
        .done (asks.foldl (fun s e =>
          match s.cachePa c.g e.1 e.2 with
          | some pa => s.dropL1 fun k line => k == c.g.core && line == pa / 256
          | none => s) (s.cacheWalks c.g asks))
      else if h.mods = 1 then .done (s.dropL1 fun k _ => k == c.g.core)
      else
        .done { s with mem := { s.mem with fcache := s.mem.fcache.filter fun x => x.core != c.g.core } }) s

end Sys2Proof.Machine
end

