-- ==== Sys2Proof/Machine/Barriers.lean ====
section
/-!
DEFINITION. The barrier instructions and their completions (07_local.md R240 to R250).
-/

namespace Sys2Proof.Machine

/-- Every lane's colour. -/
def allColours : Nat → Bool := fun _ => true

/-! ## Numbered barriers -/

/-- The count of bar: B, 0 standing for NGROUP (R246). -/
def barCount (s : State) (g : Group) (f : Operand) : Nat :=
  let c := (readNum g f).toNat
  if c = 0 then s.ngroup g else c

def barShape (h : Head) : Shape :=
  { major := 0x80, minor := 0, tyOk := h.ty == .b32, modsOk := h.mods == 0, d := .cls 16, b := fScalImm .n64, access := true,
    region := true, judged := scalItems h.b }

def Team.bar (t : Team) (n : Nat) : BarState := kget {} t.bars n
def Team.setBar (t : Team) (n : Nat) (b : BarState) : Team := { t with bars := kset {} t.bars n b }

/-- An arrival (R246): the first one's count governs, and the arrival that reaches it completes the episode, so that later ones count to a
new one. -/
def BarState.arrive (b : BarState) (gid count : Nat) : BarState :=
  let need := if b.arrived = 0 then count else b.count
  let all := b.waiting ++ [gid]
  if need ≤ b.arrived + 1 then { leaving := b.leaving ++ all }
  else { arrived := b.arrived + 1, count := need, waiting := all, leaving := b.leaving }

/-- BAR (R246): the earlier stores and loads of the participating lanes come first (R296); the group arrives and waits for
BAR_RELEASE. -/
def execBar (h : Head) (s : State) : Host.Outcome State Fault Refusal :=
  issue (fun _ => barShape h) h
    (outsideTx fun c s =>
      let n := clsNum h.d
      let cnt := barCount s c.g h.b
      if c.ps.isEmpty then .done s
      else if cnt > s.ngroup c.g then .trap cIllegal (c.ps.map fun l => (l, readNum c.g h.b))
      else
        match s.releaseAll c.gid c.ps allColours 1 true with
        | none => .retry
        | some s1 => .block (s1.modTeam c.g.team fun t => t.setBar n ((t.bar n).arrive c.gid cnt)) (.bar n)) s

/-- A group released from a barrier acquires at .team scope (R246, R299). -/
def State.leaveBar (s : State) (gid : Nat) : State :=
  match klookup s.groups gid with
  | some g => (s.setGroup gid (g.completeHeld s.clock)).acquireAt g.core
  | none => s

/-- BAR_RELEASE (R246): every group of a complete episode leaves together. -/
def execBarRelease (team n : Nat) (s : State) : Host.Outcome State Fault Refusal :=
  match klookup s.teams team with
  | some t =>
    let b := t.bar n
    if b.leaving.isEmpty || t.halted then .next s
    else .next (b.leaving.foldl (fun s gid => s.leaveBar gid) (s.setTeam team (t.setBar n { b with leaving := [] })))
  | none => .next s

/-! ## Objects -/

/-- The lanes' own earlier stores and loads of a range of scratchpad are performed (R292, R293): none while something holds one back. -/
def State.settleScr (s : State) (gid : Nat) (lanes : List Nat) (off n : Nat) : Option State :=
  let own (q : QStore) : Bool := meets q.lanes lanes && locOverlap q.loc q.bytes.length (.scr off) n
  let s1 := s.drainSome gid 1 own
  let pending : Bool := match klookup s1.groups gid with | some g => g.stores.any own | none => false
  if pending || s1.olderLoad gid lanes s1.nextOp (some (.scr off, n)) then none else some s1

/-- The object's address of a barrier instruction and its effect: the causes of R241, POISON where the object is read; earlier
stores of the lanes to the object come first. -/
def onObject (a : Operand) (reads : Bool) (c : Ctx) (s : State) (go : State → Nat → Team → Effect) : Effect :=
  let va := c.g.getS (scalNum a)
  let lanes := c.ps.map fun l => (l, va)
  if c.ps.isEmpty then .done s
  else
    match s.objAddr c.g va 16 16 with
    | (_, some cause) => .trap cause lanes
    | (off, none) =>
      match s.settleScr c.gid c.ps off 16 with
      | none => .retry
      | some s1 =>
        match klookup s1.teams c.g.team with
        | some t => if reads && t.scrPoison off 16 then .poison lanes else go s1 off t
        | none => .trap cAccess lanes

/-- b of barr and bwait: the low 40 bits of B, an immediate sign-extended (R248, R249). -/
def objB (g : Group) (f : Operand) : BitVec 40 := (readNum g f).extractLsb' 0 40

def binitShape (h : Head) : Shape :=
  { major := 0x80, minor := 1, tyOk := h.ty == .b32, modsOk := h.mods == 0, a := fScal, params := .must, access := true, region := true }

/-- The object that binit writes (R247). -/
def binitObj (v0 v1 v2 v3 : W64) : BitVec 128 :=
  mkObj (BitVec.ofNat 40 (v0.toNat % 2 ^ 31 + v1.toNat % 2 ^ 9 * 2 ^ 31)) (v2.extractLsb' 0 16) 0 (v3.getLsbD 0) false false

/-- BINIT (R247). -/
def execBinit (h : Head) (s : State) : Host.Outcome State Fault Refusal :=
  issue (fun _ => binitShape h) h
    (outsideTx fun c s => onObject h.a false c s fun s off _ =>
      let (v0, v1, v2, v3) := paramValues c.g h
      .done (s.modTeam c.g.team fun t => (t.markObj off).putObj off (binitObj v0 v1 v2 v3))) s

/-- The object after an arrival of barr (R248). -/
def barrObj (o : BitVec 128) (b : BitVec 40) (arrive : Bool) : BitVec 128 :=
  let full := objExp o != 0 && objArr o == objExp o
  let arr := if arrive && !full then objArr o + 1 else objArr o
  completeObj (mkObj (objPend o + b) (objExp o) arr (objPhase o) (o.getLsbD 74) (o.getLsbD 75 || (arrive && full))
    ||| (o &&& (0xFFFFFFFFFFFFF2000000000000000000 : BitVec 128)))

/-- D of barr and bwait: a scalar, or all zeros (R245). -/
def fOptScal (f : Operand) : Fld := if isZero f then .zero else fScal

def barrShape (h : Head) : Shape :=
  { major := 0x80, minor := 2, tyOk := h.ty == .b32, modsOk := decide (h.mods.toNat < 2), d := fOptScal h.d, a := fScal,
    b := fScalImm .n64, access := true, region := true }
/-- BARR (R248). -/
def execBarr (h : Head) (s : State) : Host.Outcome State Fault Refusal :=
  issue (fun _ => barrShape h) h
    (outsideTx fun c s => onObject h.a true c s fun s off t =>
      match s.releaseAll c.gid c.ps allColours 1 true with
      | none => .retry
      | some s1 =>
        let t1 := match klookup s1.teams c.g.team with | some t1 => t1 | none => t
        let o := t1.obj off
        .done ((s1.modTeam c.g.team fun t => (t.markObj off).putObj off (barrObj o (objB c.g h.b) (!h.mods.getLsbD 0))).modGroup c.gid
          fun g => g.setS (scalNum h.d) (if objPhase o then 1 else 0))) s

/-- The condition of bwait (R249). -/
def objHolds (o : BitVec 128) (phase : Bool) (b : W64) : Bool :=
  if phase then objPhase o != b.getLsbD 0 else decide ((objPend o).toInt ≤ (b.extractLsb' 0 40 : BitVec 40).toInt)

/-- Bits [75:72] of an object. -/
def objBits (o : BitVec 128) : W64 := (o.extractLsb' 72 4).setWidth 64

def bwaitShape (h : Head) : Shape :=
  { major := 0x80, minor := 3, tyOk := h.ty == .b32, modsOk := decide (h.mods.toNat < 2), d := fOptScal h.d, a := fScal,
    b := fScalImm .n64, access := true }
/-- BWAIT (R249): no wait where the condition holds; else BWAIT_SATISFIED ends it. -/
def execBwait (h : Head) (s : State) : Host.Outcome State Fault Refusal :=
  issue (fun _ => bwaitShape h) h
    (outsideTx fun c s => onObject h.a true c s fun s off t =>
      let b := readNum c.g h.b
      let s1 := s.modTeam c.g.team fun t => t.markObj off
      if objHolds (t.obj off) (h.mods.getLsbD 0) b then
        .done ((s1.modGroup c.gid fun g => g.setS (scalNum h.d) (objBits (t.obj off))).acquireAt c.g.core)
      else .block s1 (.bwait off (h.mods.getLsbD 0) b (scalNum h.d))) s

/-- BWAIT_SATISFIED (R249). -/
def execBwaitSatisfied (gid : Nat) (s : State) : Host.Outcome State Fault Refusal :=
  match klookup s.groups gid with
  | some g =>
    match g.wait, klookup s.teams g.team with
    | .bwait off phase b dst, some t =>
      if objHolds (t.obj off) phase b && !t.halted then
        .next ((s.setGroup gid ((g.land s.free heldOp (g.setS dst (objBits (t.obj off)))).completeHeld s.clock)).acquireAt g.core)
      else .next s
    | _, _ => .next s
  | none => .next s

/-- BARRIER_PHASE_COMPLETE (R242): the step that follows an update; a unit that no update has reached keeps its bytes. -/
def execBarrierPhaseComplete (team off : Nat) (s : State) : Host.Outcome State Fault Refusal :=
  match klookup s.teams team with
  | some t =>
    if t.objs.contains (off / 16) && t.upd.contains (off / 16) && off % 16 == 0 then .next (s.setTeam team (t.putObj off (completeObj (t.obj off)))) else .next s
  | none => .next s

def btestShape (h : Head) : Shape :=
  { major := 0x80, minor := 4, tyOk := h.ty == .b32, modsOk := decide (h.mods.toNat < 2), d := if isScal h.d then fScal else .cls 8,
    a := fScal, b := fScalImm .n64, access := true, writes := if isScal h.d then [] else flagItems (clsNum h.d) }
/-- BTEST (R250). -/
def execBtest (h : Head) (s : State) : Host.Outcome State Fault Refusal :=
  issue (fun _ => btestShape h) h
    (outsideTx fun c s => onObject h.a true c s fun s off t =>
      let v := objHolds (t.obj off) (h.mods.getLsbD 0) (readNum c.g h.b)
      let s1 := (s.modTeam c.g.team fun t => t.markObj off).modGroup c.gid fun g =>
        if isScal h.d then g.setS (scalNum h.d) (if v then 1 else 0) else g.setFlags c.ps (clsNum h.d) fun _ => v
      .done (if v then s1.acquireAt c.g.core else s1)) s

end Sys2Proof.Machine
end

