-- ==== Sys2Proof/Machine/Atomics.lean ====
section
/-!
DEFINITION. Atomics and fence (09_order.md R301 to R306, R314 to R319).
-/

namespace Sys2Proof.Machine

/-! ## The table of operations (R314) -/

def atomTyOk (op : Nat) (ty : Ty) : Bool :=
  match op with
  | 0 => [Ty.i32, .n32, .i64, .n64, .f32, .bf16x2, .f16x2].contains ty
  | 1 => [Ty.i32, .n32, .i64, .n64].contains ty
  | 2 => [Ty.i32, .n32, .i64, .n64].contains ty
  | 3 => [Ty.b32, .n32, .n64].contains ty
  | 4 => [Ty.b32, .n32, .n64].contains ty
  | 5 => [Ty.b32, .n32, .n64].contains ty
  | 6 => [Ty.b32, .i32, .n32, .f32, .i64, .n64, .f64].contains ty
  | 7 => [Ty.b32, .i32, .n32, .f32, .i64, .n64, .f64].contains ty
  | 8 => ty == .n32
  | _ => false

/-- The value an atomic stores (R314): float sums round under RNE without FTZ, and a NaN is canonical. -/
def atomNew (op : Nat) (ty : Ty) (old b c : Nat) : Nat :=
  let w := tyWidth ty
  match op with
  | 0 =>
    match tyFmt ty with
    | some f => mapElems (tyElem ty).1 (fun x y _ => fadd f (fenv 0) x y) (tyElem ty).2 old b 0
    | none => (old + b) % 2 ^ w
  | 1 => if intOf ty w b < intOf ty w old then b % 2 ^ w else old
  | 2 => if intOf ty w old < intOf ty w b then b % 2 ^ w else old
  | 3 => old &&& b % 2 ^ w
  | 4 => old ||| b % 2 ^ w
  | 5 => old ^^^ b % 2 ^ w
  | 6 => b % 2 ^ w
  | 7 => if old = b % 2 ^ w then c % 2 ^ w else old
  | _ => if b % 2 ^ w ≤ old then 0 else old + 1

/-! ## The control word (R315) -/

def ctlWord (h : Head) : Nat := match h.params with | some p => (match p.w0 with | .lit v => v.toNat | .sub _ _ => 0) | none => 0
def atomScope (h : Head) : Nat := bitsOf (ctlWord h) 2 0
def atomOrder (h : Head) : Nat := bitsOf (ctlWord h) 4 3
def atomColour (h : Head) : Nat := bitsOf (ctlWord h) 7 5
def atomOff (g : Group) (h : Head) : W64 := (paramValues g h).2.1
def atomAcq (h : Head) : Bool := atomOrder h == 1 || atomOrder h == 3
def atomRel (h : Head) : Bool := decide (2 ≤ atomOrder h)

def atomWords (h : Head) (red : Bool) : Bool :=
  match h.params with
  | some p =>
    (match p.w0 with | .lit _ => true | .sub _ _ => false) && litZero p.w2 && litZero p.w3
      && decide (ctlWord h < 256 ∧ atomScope h ≤ 5) && !(red && (atomOrder h == 1 || atomOrder h == 3))
  | none => true

def atomOp (h : Head) : Nat := h.mods.toNat % 16

def atomShape (h : Head) : Shape :=
  { major := 0x88, minor := 0, tyOk := atomTyOk (atomOp h) h.ty, modsOk := decide (h.mods.toNat < 9),
    d := .op { row := true, ind := true, ty := h.ty }, a := fAddr, b := fSrc h.ty, dUse := if atomOp h = 7 then .both else .write,
    params := .may, access := true, poisonLast := true, region := true, extra := must (atomWords h false) }
def atomuShape (h : Head) : Shape :=
  { major := 0x88, minor := 1, tyOk := atomTyOk (atomOp h) h.ty, modsOk := decide (h.mods.toNat < 9), d := fScal, a := fScal,
    b := fScalImm h.ty, dUse := if atomOp h = 7 then .both else .write, params := .may, access := true, region := true,
    extra := must (atomWords h false) }
def redShape (h : Head) : Shape :=
  { major := 0x88, minor := 2, tyOk := atomTyOk (atomOp h) h.ty, modsOk := decide (h.mods.toNat < 9 ∧ h.mods.toNat ≠ 7), a := fAddr,
    b := fSrc h.ty, params := .may, access := true, poisonLast := true, region := true, extra := must (atomWords h true) }

/-! ## One atomic at its home -/

/-- The line's atomic state after an atomic of a core (R303, R304): near takes ownership, far does not. -/
def State.takeAtomic (s : State) (core asid pa scope slot : Nat) : State :=
  let line := pa / 256
  let a := kget {} s.mem.atom line
  let since := if a.lastCore = some core then a.since else s.hubClock
  let near := !a.far && decide (scope ≤ 2)
  let s := if near then s.revoke pa (some core) asid else s.revoke pa none asid
  let a := kget {} s.mem.atom line
  let s := { s with mem := { s.mem with
    atom := kput s.mem.atom line { a with owner := if near then some core else none, since := since, lastCore := some core } } }
  if near then s.l1Fill core asid line slot else s

/-- One atomic is counted: near where its first line's state lets it execute there (R302, R496). -/
def State.countAtomic (s : State) (core asid pa scope : Nat) : State :=
  let near := !(kget {} s.mem.atom (pa / 256)).far && decide (scope ≤ 2)
  s.countCore core (if near then 0x09 else 0x0A) asid

/-- An atomic of an agent that is no core reaches a line (R304): from now on its atomics do not all come from one core. -/
def State.otherAtomic (s : State) (pa : Nat) : State :=
  { s with mem := { s.mem with atom := kmap s.mem.atom (pa / 256) fun a => { a with since := s.hubClock, lastCore := none } } }

/-- The bytes of several chunks of memory of this package, read in order. -/
def State.readChunks (s : State) (who : Agent) (cs : List (Nat × Nat × Nat)) : State × List Byte :=
  cs.foldl (fun r c => let (s1, bs) := r.1.readAt who c.1 c.2.1 c.2.2; (s1, r.2 ++ bs)) (s, [])

/-- Bytes written to several chunks of memory of this package. -/
def State.writeChunks (s : State) (who : Agent) : List (Nat × Nat × Nat) → List Byte → State
  | [], _ => s
  | c :: r, bs => (s.writeAt who c.1 (bs.take c.2.1) c.2.2 false).writeChunks who r (bs.drop c.2.1)

/-- An atomic on memory of this package, indivisibly (R301, R317): the old value. Private memory may give its two words apart (R223). -/
def State.atomicAt (s : State) (gid core asid scope n op : Nat) (ty : Ty) (b c : Nat) (cs : List (Nat × Nat × Nat)) : State × Nat :=
  let s0 := match cs with | x :: _ => s.countAtomic core asid x.1 scope | [] => s
  let s1 := cs.foldl (fun s x => s.takeAtomic core asid x.1 scope x.2.2) s0
  let (s2, bs) := s1.readChunks (.group gid core asid) cs
  let old := leNat bs
  (s2.writeChunks (.group gid core asid) cs (leBytes n (atomNew op ty old b c)), old)

/-- An atomic on scratchpad, at its bank (R301). -/
def State.atomicScr (s : State) (team off n op : Nat) (ty : Ty) (b c : Nat) : State × Nat :=
  match klookup s.teams team with
  | some t =>
    let old := leNat (t.scrBytes off n)
    (s.setTeam team (t.scrStore off (leBytes n (atomNew op ty old b c))), old)
  | none => (s, 0)

/-- The data of an atomic packet: operation, type, the operands in their size, and the address of a second word that lies apart (R223); the manual
gives no layout (log 50). -/
def atomData (op : Nat) (ty : Ty) (n b c : Nat) (second : Option Nat) : List Byte :=
  BitVec.ofNat 8 op :: ty.code.setWidth 8 :: (leBytes n b ++ leBytes n c ++ match second with | some a => leBytes 8 a | none => [])

/-- What an atomic asks at one place: lane, address, destination row, operands. -/
structure AtomReq where
  lane : Nat
  va   : W64
  row  : Nat
  look : LaneLook
  b    : Nat
  c    : Nat
  deriving DecidableEq, Repr

/-- The other word of a private atomic in another package (R223): none where the two lie in different packages (log 59). -/
def secondWord (pa : Nat) : List Chunk → Option (Option Nat)
  | [] => some none
  | c :: _ => match c.loc with
    | .glob q => if isDomain q ∧ domainPkg q = domainPkg pa then some (some (domainAddr q)) else none
    | .scr _ => none

/-- One lane's atomic performed, or sent to its package (R302, R305). None while no request can be sent. Two words of private memory in
different packages have no packet: the path is as lost (log 59). -/
def State.oneAtomic (s : State) (c : Ctx) (op ty n : Nat) (scope : Nat) (opId : Nat) (r : AtomReq) : Option (State × Option W64) :=
  let ty := Ty.ofCode (BitVec.ofNat 5 ty)
  let asid := s.asidOf c.g
  match r.look.chunks with
  | ch :: more =>
    match ch.loc with
    | .scr off => let (s1, old) := s.atomicScr c.g.team off n op ty r.b r.c; some (s1, some (BitVec.ofNat 64 old))
    | .glob pa =>
      if isDomain pa then
        let lost := some (s.remoteFail c.gid (if isScal c.h.d then c.ps else [r.lane]) r.va, some (Config.freeWord s.free r.lane))
        if (s.routes (domainPkg pa)).isEmpty then lost
        else
          match secondWord pa more with
          | none => lost
          | some second =>
            let s1 := (s.forgetPeer (some c.g.core) pa n).countCore c.g.core 0x0A asid
            let data := atomData op ty n r.b r.c second
            (s1.request (packetOf .atomic (domainPkg pa) (domainAddr pa) data.length data ch.slot 0) (.atom opId r.lane) none).map fun e => (e.1, none)
      else
        let cs := r.look.chunks.filterMap fun ch => match ch.loc with | .glob pa => some (pa, ch.n, ch.slot) | .scr _ => none
        let (s1, old) := s.atomicAt c.gid c.g.core asid scope n op ty r.b r.c cs
        some (s1, some (BitVec.ofNat 64 old))
  | [] => some (s, some 0)

/-- The lanes in ascending order, each after the one before it (R317). -/
def State.allAtomics (s : State) (c : Ctx) (op ty n scope opId : Nat) : List AtomReq → Option (State × List AtomLane)
  | [] => some (s, [])
  | r :: rs =>
    match s.oneAtomic c op ty n scope opId r with
    | some (s1, v) => (s1.allAtomics c op ty n scope opId rs).map fun e => (e.1, { lane := r.lane, row := r.row, va := r.va, done := v, place := r.look.chunks.head? } :: e.2)
    | none => none

/-- The old values written to the destination (R317, R318). -/
def Group.putAtoms (g : Group) (a : AtomOp) : Group :=
  if !a.ret then g
  else
    match a.scal, a.lanes with
    | some k, x :: _ => g.setS k (scalWrite a.ty (x.done.getD 0))
    | some _, [] => g
    | none, xs => g.modLanes (xs.map (·.lane)) fun l ln =>
        match xs.find? fun x => x.lane == l with
        | some x =>
          let ln1 := laneWrite a.ty false 0 ln x.row (x.done.getD 0)
          if x.bad then (List.range (tyWidth a.ty / 32)).foldl (fun ln k => ln.loadPoison (x.row + k)) ln1 else ln1
        | none => ln

/-- An atomic whose answers have all come is complete; an acquire then takes effect (R297). -/
def State.finishAtom (s : State) (op : Nat) (a : AtomOp) (scope : Nat) : State :=
  let s := (s.delOp op).modGroup a.gid fun g => (g.land s.free op (g.putAtoms a)).dropHold op
  if a.ret then s.seeOthers a.gid scope a.acq else s

/-- Whether an atomic waits at issue: excluded lines or a full queue (R273, R336, R341), older stores and loads of its bytes (R292), stores
that its lanes had read before a fence (R298), and for a release the stores that it covers and the loads (R296). -/
def State.atomReady (s : State) (c : Ctx) (looks : List LaneLook) (scope : Nat) : Option State :=
  let locs := looks.flatMap fun x => x.chunks.map fun ch => (ch.loc, ch.n)
  let own (q : QStore) : Bool :=
    ((meets q.lanes c.ps || q.near) && locs.any fun e => locOverlap e.1 e.2 q.loc q.bytes.length)
      || (scope != 0 && q.gates c.ps s.nextOp)
  match (if atomRel c.h then s.releaseAll c.gid c.ps (fun k => k == atomColour c.h) scope true else some s) with
  | none => none
  | some s =>
    let s1 := s.drainSome c.gid 1 own
    let left : Bool := match klookup s1.groups c.gid with | some g => g.stores.any own | none => false
    let busy := locs.any fun e =>
      s1.olderLoad c.gid c.ps s1.nextOp (some e) || (match e.1 with
        | .glob pa => !isDomain pa && (s1.accessWaits (.group c.gid c.g.core (s1.asidOf c.g)) pa e.2 true || s1.sliceFull pa)
        | .scr _ => false)
    if left || busy then none else some s1

/-- The scope at which an atomic is ordered: scratchpad at .team (R227). -/
def atomReach (h : Head) (looks : List LaneLook) : Nat := if looks.any fun x => x.chunks.any Chunk.isScr then 1 else atomScope h

/-- The common part of atom, atomu and red on their looks: causes, parking whole, waits, then every lane. -/
def atomGo (c : Ctx) (s : State) (looks : List LaneLook) (reqs : List LaneLook → List AtomReq) (n : Nat) (scal : Option Nat) (ret : Bool)
    (items : List Item) (hset : LaneLook → List LaneLook) : Effect :=
  if looks.any (·.wait) then waitLooks c s looks []
  else
  match firstCause looks with
  | some (cause, hs) => causeEffect c s cause (hs.flatMap hset)
  | none =>
    if looks.any fun x => !x.miss.isEmpty then parkWhole c s .atomic looks
    else
      match s.atomReady c looks (atomReach c.h looks) with
      | none => .retry
      | some s1 =>
        let s2 := s1.usePieces c.g .atomic looks
        match s2.allAtomics c (atomOp c.h) c.h.ty.code.toNat n (atomScope c.h) s2.nextOp (reqs looks) with
        | none => .retry
        | some (s3, ls) =>
          let a : AtomOp := { gid := c.gid, lanes := ls, parts := c.ps, ty := c.h.ty, scal := scal, ret := ret, acq := atomAcq c.h,
                              colour := atomColour c.h }
          if ls.all fun x => x.done.isSome then .done (s3.finishAtom s3.nextOp a (atomReach c.h looks))
          else
            let op := s3.nextOp
            .done ((s3.addOp (.atom a)).modGroup c.gid fun g =>
              { g with busy := g.busy ++ items.map (fun it => { item := it, op := op })
                       fence := if a.acq then some { kind := .acquire, lanes := c.ps, mask := 0, loads := [op] } else g.fence })

/-- What an atomic asks (R316). -/
def atomAsk (h : Head) : Ask := { use := .atomic, scope := max (atomScope h) 2, packed := true, noDev := true, cvt := false }

/-- The addresses of atom and red, lane by lane (R226, R316). -/
def atomLooks (c : Ctx) (s : State) (sh : Shape) (n : Nat) : List LaneLook :=
  c.ps.map fun l =>
    poisonLook sh false c (s.laneLook c.g (s.asidOf c.g) (atomAsk c.h) (some l) l (laneAddr c s c.h.a (atomOff c.g c.h) n l) n)

/-- ATOM (R317). -/
def execAtom (h : Head) (s : State) : Host.Outcome State Fault Refusal :=
  issue (fun _ => atomShape h) h
    (outsideTx fun c s =>
      let n := tyWidth h.ty / 8
      let sh := atomShape h
      if c.ps.isEmpty then .done s
      else
        atomGo c s (atomLooks c s sh n)
          (fun ls => ls.map fun x =>
            { lane := x.lane, va := x.va, row := rowOf c.g h.d x.lane, look := x, b := (c.readB sh x.lane).toNat, c := (c.readD sh x.lane).toNat })
          n none true (fldItems c.g sh.d h.d) fun x => [x]) s

/-- ATOMU (R318). -/
def execAtomu (h : Head) (s : State) : Host.Outcome State Fault Refusal :=
  issue (fun _ => atomuShape h) h
    (outsideTx fun c s =>
      let n := tyWidth h.ty / 8
      let sh := atomuShape h
      if c.ps.isEmpty then .done s
      else
        atomGo c s [s.laneLook c.g (s.asidOf c.g) (atomAsk h) none (lowest c.ps) (c.g.getS (scalNum h.a) + atomOff c.g h) n]
          (fun ls => ls.map fun x =>
            { lane := x.lane, va := x.va, row := 0, look := x, b := (c.readB sh 0).toNat,
              c := (scalRead h.ty false (c.g.getS (scalNum h.d))).toNat })
          n (some (scalNum h.d)) true (tokenItems h.d) fun x => c.ps.map fun l => { x with lane := l }) s

/-- RED (R317). -/
def execRed (h : Head) (s : State) : Host.Outcome State Fault Refusal :=
  issue (fun _ => redShape h) h
    (outsideTx fun c s =>
      let n := tyWidth h.ty / 8
      let sh := redShape h
      if c.ps.isEmpty then .done s
      else
        atomGo c s (atomLooks c s sh n)
          (fun ls => ls.map fun x => { lane := x.lane, va := x.va, row := 0, look := x, b := (c.readB sh x.lane).toNat, c := 0 })
          n none false [] fun x => [x]) s

/-! ## Contention -/

/-- CONTENTION_ENTER_FAR (R304): more than four revocations within 1,024 hub clocks. -/
def execContentionEnterFar (line : Nat) (s : State) : Host.Outcome State Fault Refusal :=
  match klookup s.mem.atom line with
  | some a =>
    if !a.far && decide (4 < (a.revokes.filter fun t => decide (s.hubClock < t + 1024)).length) then
      .next { s with mem := { s.mem with atom := kput s.mem.atom line { a with far := true, since := s.hubClock } } }
    else .next s
  | none => .next s

/-- CONTENTION_RETURN_NEAR (R304): 8,192 hub clocks in which every atomic came from one core. -/
def execContentionReturnNear (line : Nat) (s : State) : Host.Outcome State Fault Refusal :=
  match klookup s.mem.atom line with
  | some a =>
    if a.far && decide (a.since + 8192 ≤ s.hubClock) then
      .next { s with mem := { s.mem with atom := kput s.mem.atom line { a with far := false, revokes := [] } } }
    else .next s
  | none => .next s

/-! ## fence -/

def fenceShape (h : Head) : Shape :=
  { major := 0x88, minor := 3, tyOk := h.ty == .b32, modsOk := decide (h.mods.toNat ≤ 5), b := fScalRaw, access := true,
    extra := must (!isImm h.b || decide ((match h.b with | .imm v => v.toNat | _ => 0) < 256)) }
/-- The mask of fence: the low 8 bits of B (R319). -/
def fenceMask (g : Group) (f : Operand) : BitVec 8 := (readRaw g f).extractLsb' 0 8

/-- FENCE (R319): later access instructions wait until FENCE_COMPLETE. -/
def execFence (h : Head) (s : State) : Host.Outcome State Fault Refusal :=
  issue (fun _ => fenceShape h) h
    (fun c s =>
      if c.ps.isEmpty then .done s
      else c.onGroup s fun g => { g with fence := some { kind := .fence, lanes := c.ps, mask := fenceMask c.g h.b, loads := [], scope := h.mods.toNat } }) s

/-- FENCE_COMPLETE (R319): the loads and atomics of the lanes issued before are performed, and their stores of the masked colours
are visible at its scope. -/
def execFenceComplete (gid : Nat) (s : State) : Host.Outcome State Fault Refusal :=
  match klookup s.groups gid with
  | some g =>
    match g.fence with
    | some f =>
      if f.kind = .fence then
        match s.fenceAll gid f.lanes (maskHas f.mask) f.scope with
        | some s1 => .next ((s1.modGroup gid fun g => { g with fence := none }).acquireAt g.core)
        | none => .next s
      else .next s
    | none => .next s
  | none => .next s

end Sys2Proof.Machine
end

