-- ==== Sys2Proof/Machine/Control.lean ====
section
/-!
DEFINITION. The control instructions (03_lanes.md R85 to R107): branches, calls, exit, the structured instructions.
-/

namespace Sys2Proof.Machine

/-- The common shape of a control instruction: TYPE 0, MODS 0, no block (R91, R92). -/
def ctlShape (major minor : Nat) (h : Head) : Shape :=
  { major := major, minor := minor, tyOk := h.ty == .b32, modsOk := h.mods == 0 }

/-- pc + 4 * offset (R30). -/
def branchTarget (g : Group) (f : Operand) : W64 :=
  match f with
  | .imm v => g.pc + 4 * v.signExtend 64
  | _ => g.pc

/-- A transfer to a register target: ALIGN in the given lanes where bits [1:0] are not zero (R31). -/
def goTo (s : State) (target : W64) (ls : List Nat) : Effect :=
  if target.extractLsb' 0 2 ≠ 0 then .trap cAlign (ls.map fun l => (l, target)) else .jump s target

/-- A structured instruction compares the two counter files of each eligible lane first (R467). -/
def Group.checkNest (g : Group) : Group :=
  if g.lanes.any fun ln => ln.eligible && ln.cnt != ln.dup then
    { g with nesterr := true, lanes := g.lanes.map fun ln => if ln.eligible then { ln with dup := ln.cnt } else ln }
  else g

/-- New counters of the eligible lanes, in both files (R86, R467). -/
def Group.setCnts (g : Group) (f : Nat → Lane → Nat) : Group :=
  { g.checkNest with lanes := g.checkNest.lanes.mapIdx fun l ln => if ln.eligible then ln.setCnt (f l ln) else ln }

/-- NEST_OVERFLOW: the lanes whose new counter would pass 16, with that value (R88). -/
def nestOver (g : Group) (f : Nat → Lane → Nat) : List (Nat × W64) :=
  g.eligibles.filterMap fun l => if f l (g.lane l) > 16 then some (l, BitVec.ofNat 64 (f l (g.lane l))) else none

/-- A structured instruction with new counters `f`: NEST_OVERFLOW (R88), else `next`. -/
def structured (c : Ctx) (f : Nat → Lane → Nat) (next : Effect) : Effect :=
  match nestOver c.g f with
  | t :: ts => .trap cNest (t :: ts)
  | [] => next

/-- The new counters are written, and control goes to the target of B when they leave no lane active (R98, R99). -/
def jumpIfNone (c : Ctx) (s : State) (f : Nat → Lane → Nat) : Effect :=
  if (c.g.setCnts f).actives.isEmpty then .jump (s.modGroup c.gid fun g => g.setCnts f) (branchTarget c.g c.h.b)
  else c.onGroup s fun g => g.setCnts f

/-- NOP (R106). -/
def execNop (h : Head) (s : State) : Host.Outcome State Fault Refusal :=
  issue (fun _ => ctlShape 0x00 1 h) h (fun _ s => .done s) s

/-- BRA (R94). -/
def execBra (h : Head) (s : State) : Host.Outcome State Fault Refusal :=
  issue (fun _ => { ctlShape 0x00 2 h with b := fImm }) h
    (fun c s => if c.ps.isEmpty then .done s else .jump s (branchTarget c.g h.b)) s

/-- BRX (R95). -/
def execBrx (h : Head) (s : State) : Host.Outcome State Fault Refusal :=
  issue (fun _ => { ctlShape 0x00 3 h with a := fScal }) h
    (fun c s => if c.ps.isEmpty then .done s else goTo s (readNum c.g h.a) c.g.actives) s

/-- CALL (R96). -/
def execCall (h : Head) (s : State) : Host.Outcome State Fault Refusal :=
  issue (fun _ => { ctlShape 0x00 4 h with d := fScal, b := fScalRaw }) h
    (fun c s =>
      if c.ps.isEmpty then .done s
      else
        goTo (s.modGroup c.gid fun g => g.setS (scalNum h.d) (g.pc + 12))
          (if isImm h.b then branchTarget c.g h.b else readNum c.g h.b) c.g.actives) s

/-- RET (R97). -/
def execRet (h : Head) (s : State) : Host.Outcome State Fault Refusal :=
  issue (fun _ => { ctlShape 0x00 5 h with a := fScal, inactive := true }) h
    (fun c s => if c.g.actives.isEmpty || !c.ps.isEmpty then goTo s (readNum c.g h.a) c.g.wordLanes else .done s) s

/-- IF (R98). -/
def execIfc (h : Head) (s : State) : Host.Outcome State Fault Refusal :=
  issue (fun _ => { ctlShape 0x01 0 h with modsOk := h.mods.toNat < 2, a := .cls 8, b := fImm, always := true, inactive := true,
                                            reads := flagItems (clsNum h.a) }) h
    (fun c s =>
      let f (l : Nat) (ln : Lane) : Nat :=
        if ln.cnt = 0 then (if (c.g.lane l).flag (clsNum h.a) != h.mods.getLsbD 0 then 0 else 1) else ln.cnt + 1
      structured c f (jumpIfNone c s f)) s

/-- ELSE (R99). -/
def execElsec (h : Head) (s : State) : Host.Outcome State Fault Refusal :=
  issue (fun _ => { ctlShape 0x01 1 h with b := fImm, always := true, inactive := true }) h
    (fun c s => jumpIfNone c s fun _ ln => if ln.cnt = 0 then 1 else if ln.cnt = 1 then 0 else ln.cnt) s

/-- ENDIF (R100). -/
def execEndif (h : Head) (s : State) : Host.Outcome State Fault Refusal :=
  issue (fun _ => { ctlShape 0x01 2 h with always := true, inactive := true }) h
    (fun c s => c.onGroup s fun g => g.setCnts fun _ ln => ln.cnt - 1) s

/-- LOOP (R101). -/
def execLoopc (h : Head) (s : State) : Host.Outcome State Fault Refusal :=
  issue (fun _ => { ctlShape 0x01 3 h with always := true, inactive := true }) h
    (fun c s =>
      let f (_ : Nat) (ln : Lane) : Nat := if ln.cnt > 0 then ln.cnt + 2 else 0
      structured c f (c.onGroup s fun g => g.setCnts f)) s

/-- ENDLOOP (R102). -/
def execEndloop (h : Head) (s : State) : Host.Outcome State Fault Refusal :=
  issue (fun _ => { ctlShape 0x01 4 h with b := fImm, always := true, inactive := true }) h
    (fun c s =>
      if (c.g.lanesWhere fun ln => ln.eligible && decide (ln.cnt ≤ 1)).isEmpty then
        c.onGroup s fun g => g.setCnts fun _ ln => ln.cnt - 2
      else .jump (s.modGroup c.gid fun g => g.setCnts fun _ ln => if ln.cnt = 1 then 0 else ln.cnt) (branchTarget c.g h.b)) s

/-- Counters of the participating lanes set to n (R103, R104). -/
def leaveLanes (c : Ctx) (s : State) (n : Nat) : Effect :=
  c.onGroup s fun g => (g.checkNest).modLanes c.ps fun _ ln => ln.setCnt n

/-- BRK (R103). -/
def execBrk (h : Head) (s : State) : Host.Outcome State Fault Refusal :=
  issue (fun g => { ctlShape 0x01 5 h with b := fImm, inactive := true, extra := must (decide ((readRaw g h.b).toNat ≤ 14)) }) h
    (fun c s => leaveLanes c s ((readRaw c.g h.b).toNat + 2)) s

/-- CONT (R104). -/
def execCont (h : Head) (s : State) : Host.Outcome State Fault Refusal :=
  issue (fun g => { ctlShape 0x01 6 h with b := fImm, inactive := true, extra := must (decide ((readRaw g h.b).toNat ≤ 15)) }) h
    (fun c s => leaveLanes c s ((readRaw c.g h.b).toNat + 1)) s

/-! ## exit -/

/-- An open transaction of a retiring lane is aborted with no cause recorded (R345). -/
def Lane.dropTx (ln : Lane) : Lane :=
  if ln.tx.closing then ln
  else { ln with tx := { ln.tx with isOpen := false, doomed := false, irrev := false, rlog := [], wbuf := [] } }

/-- The group transaction ends when no lane of the group is open (R327); the fallback lock and its line locks are released when
its holder has no irrevocable lane open (R332, R336). -/
def State.txSettle (s : State) (gid : Nat) : State :=
  match klookup s.groups gid with
  | none => s
  | some g =>
    let s := if g.lanes.any fun ln => ln.tx.isOpen || ln.tx.closing then s else s.modGroup gid fun g => { g with hasTx := false }
    if s.tx.lock == some gid && !(g.lanes.any fun ln => (ln.tx.isOpen || ln.tx.closing) && ln.tx.irrev) then
      { s with tx := { s.tx with lock := none, locks := [] } }
    else s

/-- EXIT (R105): in a trap handler the remaining lanes return to user mode as sret would. -/
def execExit (h : Head) (s : State) : Host.Outcome State Fault Refusal :=
  issue (fun _ => { ctlShape 0x00 6 h with region := true }) h
    (fun c s =>
      if c.ps.isEmpty then .done s
      else
        let n := (c.ps.filter fun l => (c.g.lane l).tx.isOpen && !(c.g.lane l).tx.closing).length
        let s0 := s.countCore c.g.core 0x12 (s.asidOf c.g) n
        let s1 := (s0.modGroup c.gid fun g => g.modLanes c.ps fun _ ln => { ln.dropTx with live := false }).txSettle c.gid
        match klookup s1.groups c.gid with
        | some g1 =>
          if g1.sup && !g1.service && !g1.lives.isEmpty then
            .stop ((s1.returnTrap c.gid g1).modGroup c.gid fun g => { g with ractive := false, readyAt := c.t + max (stallCount h.stall) 1 })
          else .done s1
        | none => .done s1) s

end Sys2Proof.Machine
end

