-- ==== Sys2Proof/Machine/CrossLane.lean ====
section
/-!
DEFINITION. Cross-lane instructions (04_rows.md R139 to R147).
-/

namespace Sys2Proof.Machine

/-- The rows of A in a source lane. -/
def rowsA (c : Ctx) (sh : Shape) (m : Nat) : List (Nat × Nat) :=
  (List.range (opndRows (opndOf sh.a))).map fun k => (m, rowOf c.g c.h.a m + k)

/-- Segment length of shfl (R140). -/
def segLen (w seg : Nat) : Nat :=
  match seg with | 1 => 4 | 2 => 8 | 3 => 16 | _ => w

/-- The source lane of shfl (R140): the own lane where there is none. -/
def shflSrc (mode n l b : Nat) : Nat :=
  let seg := l / n * n
  match mode with
  | 0 => if b < n then seg + b else l
  | 1 => if b ≤ l ∧ seg ≤ l - b then l - b else l
  | 2 => if l + b < seg + n then l + b else l
  | _ => let m := l ^^^ b; if seg ≤ m ∧ m < seg + n then m else l

def shflShape (h : Head) (g : Group) : Shape :=
  { major := 0x63, minor := 0, tyOk := tyRow h.ty, d := fRow h.ty, a := fDirect h.ty, b := fSrc .n32, lat := (6, 1), cross := true,
    modsOk := decide (h.mods.toNat % 8 < 4) && decide (segLen g.width (h.mods.toNat / 8) ≤ g.width) }
/-- SHFL (R139, R140). -/
def execShfl (h : Head) (s : State) : Host.Outcome State Fault Refusal :=
  issue (shflShape h) h
    (fun c s =>
      let sh := shflShape h c.g
      let src (l : Nat) : Nat :=
        shflSrc (h.mods.toNat % 8) (segLen c.g.width (h.mods.toNat / 8)) l (c.readB sh l).toNat
      orPoison (crossPoison c fun l => rowsA c sh (src l))
        (c.onGroup s (c.writeVec sh fun l => c.readA sh (src l)))) s

def shflxShape (h : Head) : Shape :=
  { major := 0x63, minor := 1, tyOk := ty32 h.ty, modsOk := h.mods == 0, d := fRow h.ty,
    a := .op { row := true, ty := h.ty, span := 2, spanPc := true }, b := fSrc .n32, lat := (6, 1), cross := true }
/-- SHFLX (R141): the two rows A and A + 1 as one table. -/
def execShflx (h : Head) (s : State) : Host.Outcome State Fault Refusal :=
  issue (fun _ => shflxShape h) h
    (fun c s =>
      let sh := shflxShape h
      let w := c.g.width
      let r := rowOf c.g h.a 0
      let src (l : Nat) : Option (Nat × Nat) :=
        let k := (c.readB sh l).toNat
        if k < w then some (k, r) else if k < 2 * w then some (k - w, r + 1) else none
      orPoison (crossPoison c fun l => (src l).toList)
        (c.onGroup s (c.writeVec sh fun l =>
          match src l with | some (m, q) => ((c.g.lane m).row q).setWidth 64 | none => 0))) s

def bcastShape (h : Head) : Shape :=
  { major := 0x63, minor := 2, tyOk := tyRow h.ty, modsOk := h.mods == 0, d := fDst h.ty, a := fDirect h.ty, b := fScalRaw,
    lat := (6, 1), cross := true }
/-- BCAST (R142). -/
def execBcast (h : Head) (s : State) : Host.Outcome State Fault Refusal :=
  issue (fun _ => bcastShape h) h
    (fun c s =>
      let sh := bcastShape h
      let m := (readNum c.g h.b).toNat % c.g.width
      if c.ps.isEmpty then .done s
      else orPoison (crossPoison c fun _ => rowsA c sh m)
        (c.onGroup s (if isScal h.d then c.writeScal sh (c.readA sh m) else c.writeVec sh fun _ => c.readA sh m))) s

def voteShape (h : Head) : Shape :=
  { major := 0x63, minor := 3, tyOk := h.ty == .b32, modsOk := decide (h.mods.toNat < 4), d := flagOrScal h, a := .cls 8,
    lat := (4, 1), reads := flagItems (clsNum h.a), writes := flagWrites h, extra := must (isScal h.d || h.mods != 0) }
/-- The result of vote over the participating lanes (R143). -/
def voteValue (mode : Nat) (ls : List Nat) (f : Nat → Bool) : W64 :=
  let b (x : Bool) : W64 := if x then 1 else 0
  match mode with
  | 0 => laneMask (ls.filter f)
  | 1 => b (ls.all f)
  | 2 => b (ls.any f)
  | _ => b (ls.all f || ls.all fun l => !f l)
/-- VOTE (R143). -/
def execVote (h : Head) (s : State) : Host.Outcome State Fault Refusal :=
  issue (fun _ => voteShape h) h
    (fun c s =>
      let v := voteValue h.mods.toNat c.ps fun l => (c.g.lane l).flag (clsNum h.a)
      if c.ps.isEmpty then .done s
      else if isScal h.d then c.onGroup s fun g => g.setS (scalNum h.d) v
      else c.onGroup s fun g => g.setFlags c.ps (clsNum h.d) fun _ => v != 0) s

def firstShape (h : Head) : Shape :=
  { major := 0x63, minor := 4, tyOk := if h.mods.getLsbD 0 then h.ty == .b32 else tyRow h.ty, modsOk := decide (h.mods.toNat < 2),
    d := .op { scal := true, ty := h.ty }, a := if h.mods.getLsbD 0 then .zero else fRow h.ty, lat := (4, 1), cross := true }
/-- FIRST (R144): the operand is read in the lowest participating lane alone. -/
def execFirstc (h : Head) (s : State) : Host.Outcome State Fault Refusal :=
  issue (fun _ => firstShape h) h
    (fun c s =>
      let sh := firstShape h
      match c.ps with
      | [] => .done s
      | m :: _ =>
        if h.mods.getLsbD 0 then c.onGroup s (c.writeScal sh (BitVec.ofNat 64 m))
        else orPoison (poisonFails { sh with cross := false } c.g h [m]) (c.onGroup s (c.writeScal sh (c.readA sh m)))) s

/-! ## Reductions -/

def tyRed (ty : Ty) : Bool := [Ty.b32, .i32, .n32, .i64, .n64, .f32, .f64].contains ty

/-- The operator op is defined for the type (R145). -/
def redOk (ty : Ty) (op : Nat) : Bool :=
  tyRed ty && (match tyFmt ty with
    | some _ => decide (op < 3)
    | none => if ty == .b32 then decide (3 ≤ op) && decide (op < 6) else decide (op < 6))

/-- One node of a reduction (R145): add, min, max, and, or, xor. -/
def redOp (ty : Ty) (fmode : W32) (op a b : Nat) : Nat :=
  let w := tyWidth ty
  match op, tyFmt ty with
  | 0, some f => fadd f (fenv fmode) a b
  | 1, some f => fminmax false f (fenv fmode) a b
  | 2, some f => fminmax true f (fenv fmode) a b
  | 0, none => (a + b) % 2 ^ w
  | 1, none => if intOf ty w a ≤ intOf ty w b then a else b
  | 2, none => if intOf ty w a ≤ intOf ty w b then b else a
  | 3, _ => a &&& b
  | 4, _ => a ||| b
  | _, _ => a ^^^ b

/-- One level of the tree: pairs combined, an absent node giving way (R145). -/
def redLevel (f : Nat → Nat → Nat) : List (Option Nat) → List (Option Nat)
  | x :: y :: r =>
    (match x, y with
     | some a, some b => some (f a b)
     | some a, none => some a
     | none, y => y) :: redLevel f r
  | l => l

/-- The root of the tree over W leaves, W at most 64 (R145). -/
def redRoot (f : Nat → Nat → Nat) (leaves : List (Option Nat)) : Option Nat :=
  ((redLevel f (redLevel f (redLevel f (redLevel f (redLevel f (redLevel f leaves)))))).headD none)

/-- The tree over the participating lanes that satisfy p. -/
def redTree (c : Ctx) (sh : Shape) (op : Nat) (p : Nat → Bool) : Option Nat :=
  redRoot (redOp c.h.ty c.g.fmode op)
    ((List.range c.g.width).map fun l => if c.ps.contains l && p l then some (c.readA sh l).toNat else none)

/-- The identity of scan (R146). -/
def redIdentity (ty : Ty) (op : Nat) : Nat :=
  let w := tyWidth ty
  match op, tyFmt ty with
  | 1, some f => finfPat f false
  | 2, some f => finfPat f true
  | 1, none => if tySigned ty then 2 ^ (w - 1) - 1 else 2 ^ w - 1
  | 2, none => if tySigned ty then 2 ^ (w - 1) else 0
  | 3, _ => 2 ^ w - 1
  | _, _ => 0

def redLat (ty : Ty) : Nat × Nat := if (tyFmt ty).isSome then (14, 4) else (10, 2)

def gredShape (h : Head) : Shape :=
  { major := 0x63, minor := 5, tyOk := tyRed h.ty, modsOk := decide (h.mods.toNat < 6) && redOk h.ty h.mods.toNat,
    d := .op { scal := true, ty := h.ty }, a := fRow h.ty, lat := redLat h.ty }
/-- GRED (R145, R176). -/
def execGred (h : Head) (s : State) : Host.Outcome State Fault Refusal :=
  issue (fun _ => gredShape h) h
    (fun c s =>
      match redTree c (gredShape h) h.mods.toNat fun _ => true with
      | some v => c.onGroup s (c.writeScal (gredShape h) (BitVec.ofNat 64 v))
      | none => .done s) s

def scanShape (h : Head) : Shape :=
  { major := 0x63, minor := 6, tyOk := tyRed h.ty, modsOk := decide (h.mods.toNat < 16) && decide (h.mods.toNat % 8 < 6) && redOk h.ty (h.mods.toNat % 8),
    d := fRow h.ty, a := fRow h.ty, lat := redLat h.ty }
/-- SCAN (R146, R176). -/
def execScan (h : Head) (s : State) : Host.Outcome State Fault Refusal :=
  issue (fun _ => scanShape h) h
    (fun c s =>
      let sh := scanShape h
      let op := h.mods.toNat % 8
      let v (l : Nat) : Nat :=
        (redTree c sh op fun j => if h.mods.getLsbD 3 then decide (j < l) else decide (j ≤ l)).getD (redIdentity h.ty op)
      c.onGroup s (c.writeVec sh fun l => BitVec.ofNat 64 (v l))) s

def compactShape (h : Head) : Shape :=
  { major := 0x63, minor := 7, tyOk := tyRow h.ty, modsOk := h.mods == 0, d := fDirect h.ty, a := fRow h.ty, lat := (8, 2),
    packs := true }
/-- COMPACT (R147): lanes 0 to n − 1 are written whether or not they are active. -/
def execCompact (h : Head) (s : State) : Host.Outcome State Fault Refusal :=
  issue (fun _ => compactShape h) h
    (fun c s =>
      let sh := compactShape h
      c.onGroup s fun g => g.modLanes (List.range c.ps.length) fun i ln =>
        writeOp c.g (opndOf sh.d) h.d i (c.readA sh (c.ps.getD i 0)) ln) s

end Sys2Proof.Machine
end

