-- ==== Sys2Proof/Machine/Transactions.lean ====
section
/-!
DEFINITION. Device transactions, tickets and the fallback lock (10_transactions.md R321 to R337, R342 to R345;
18_programs_joins.md R504).
-/

namespace Sys2Proof.Machine

/-! ## Opening -/

/-- TXCFG.LIMIT (R342). -/
def txLimit (g : Group) : Nat := g.txcfg.toNat % 256

/-- An opening lane requests the fallback lock (R336). -/
def wantsLock (g : Group) (ls : List Nat) : Bool :=
  txLimit g != 0 && ls.any fun l => decide (txLimit g ≤ (g.lane l).tx.retry)

/-- Another group of the quarter holds a group transaction (R327). -/
def State.quarterHeld (s : State) (gid : Nat) (g : Group) : Bool :=
  s.groups.any fun e => e.1 != gid && e.2.core == g.core && e.2.quarter == g.quarter && e.2.hasTx

/-- A lane's transaction opens with empty logs (R322, R344). -/
def Lane.openTx (ln : Lane) (limit : Nat) : Lane :=
  { ln with tx := { ln.tx with
      isOpen := true, doomed := false, irrev := limit != 0 && decide (limit ≤ ln.tx.retry), cause := 0, first := 0, addr := 0,
      doomAt := 0, rlog := [], wbuf := [] } }

/-- The fallback lock is held by another agent. -/
def State.lockedOut (s : State) (gid : Nat) : Bool := match s.tx.lock with | some k => k != gid | none => false

/-- The lanes open, with the fence of R334 before: none while that, the quarter's group transaction or the fallback lock holds them
(R327, R336, R344). -/
def State.beginTx (s : State) (gid : Nat) (ls : List Nat) : Option State :=
  match klookup s.groups gid with
  | none => none
  | some g =>
    if s.quarterHeld gid g || s.lockedOut gid || (wantsLock g ls && s.tx.lock != some gid) then none
    else
      (s.releaseAll gid ls allColours 2 true).map fun s1 =>
        (s1.modGroup gid fun g => { g.modLanes ls (fun _ ln => ln.openTx (txLimit g)) with hasTx := true }).acquireAt g.core

def tbegShape (h : Head) : Shape :=
  { major := 0x90, minor := 0, tyOk := h.ty == .b32, modsOk := h.mods == 0, access := true, region := true }

/-- TBEG (R321, R329, R344): a lane already open is doomed; the others open, or wait for TBEG_RESUME or, where they need the fallback
lock, for FALLBACK_LOCK_GRANT. -/
def execTbeg (h : Head) (s : State) : Host.Outcome State Fault Refusal :=
  issue (fun _ => tbegShape h) h
    (fun c s =>
      let ls := c.plain
      let s1 := s.doomLanes c.gid c.txLanes 5 0
      if c.ps.isEmpty then .done s
      else if !(match klookup s.teams c.g.team with | some t => t.txok | none => false) then
        .trap cIllegal (c.ps.map fun l => (l, c.g.pc))
      else if ls.isEmpty then .done s1
      else if s.quarterHeld c.gid c.g then .block s1 (.tbeg ls)
      else if wantsLock c.g ls && s.tx.lock != some c.gid then
        .block (s1.modGroup c.gid fun g => { g with hasTx := true }) (.lock ls)
      else
        match s1.beginTx c.gid ls with
        | some s2 => .done s2
        | none => .block s1 (.tbeg ls)) s

/-- TBEG_RESUME (R327): the group transaction is free; the lanes open, or the group goes on to wait for the fallback lock. -/
def execTbegResume (gid : Nat) (s : State) : Host.Outcome State Fault Refusal :=
  match klookup s.groups gid with
  | some g =>
    match g.wait with
    | .tbeg ls =>
      if s.groupHalted g || s.quarterHeld gid g then .next s
      else if wantsLock g ls && s.tx.lock != some gid then .next (s.setGroup gid { g with hasTx := true, wait := .lock ls })
      else
        match s.beginTx gid ls with
        | some s1 => .next (s1.modGroup gid fun g => g.completeHeld s.clock)
        | none => .next s
    | _ => .next s
  | none => .next s

/-- FALLBACK_LOCK_GRANT (R336): no ticketed commit is incomplete and nobody holds the lock; then the lanes open as irrevocable where
their retry counts ask for it. -/
def execFallbackLockGrant (gid : Nat) (s : State) : Host.Outcome State Fault Refusal :=
  match klookup s.groups gid with
  | some g =>
    match g.wait with
    | .lock ls =>
      if s.groupHalted g || s.tx.lock.isSome || !s.tx.commits.isEmpty then .next s
      else
        let s1 := { s with tx := { s.tx with lock := some gid } }
        match s1.beginTx gid ls with
        | some s2 => .next (s2.modGroup gid fun g => g.completeHeld s.clock)
        | none => .next (s1.modGroup gid fun g => { g with wait := .tbeg ls })
    | _ => .next s
  | none => .next s

/-! ## Committing -/

/-- The ticket unit may issue a ticket (R331, R336). -/
def State.ticketFree (s : State) (gid : Option Nat) : Bool :=
  (match s.tx.lock with | some k => some k == gid | none => true) && decide (s.tx.commits.length < 256)

/-- The next ticket is taken (R331). -/
def State.takeTicket (s : State) (who : Holder) : State :=
  { s with tx := { s.tx with next := s.tx.next + 1, commits := s.tx.commits ++ [{ ticket := s.tx.next, who := who }] } }

def tendShape (h : Head) : Shape :=
  { major := 0x90, minor := 1, tyOk := h.ty == .b32, modsOk := h.mods == 0, d := .cls 8, access := true, region := true,
    writes := flagItems (clsNum h.d) }

/-- The lanes of a commit leave their open transactions to their ticket. -/
def Lane.handTx (ln : Lane) : Lane := { ln with tx := { ln.tx with isOpen := false, closing := true } }

/-- TEND (R332, R334): waits for a ticket; its flag is written, and later accesses go on, at TEND_COMMIT. -/
def execTend (h : Head) (s : State) : Host.Outcome State Fault Refusal :=
  issue (fun _ => tendShape h) h
    (fun c s =>
      let k := clsNum h.d
      if c.ps.isEmpty then .done s
      else if c.txLanes.isEmpty then c.onGroup s fun g => g.setFlags c.ps k fun _ => false
      else if !s.ticketFree (some c.gid) then .retry
      else
        let op := s.nextOp
        let s1 := { s.takeTicket (.group c.gid c.ps c.txLanes k op) with nextOp := op + 1 }
        .done (s1.modGroup c.gid fun g =>
          { g.modLanes c.txLanes (fun _ ln => ln.handTx) with
            busy := g.busy ++ (flagItems k).map fun it => { item := it, op := op }
            fence := some { kind := .commit, lanes := c.ps, mask := 0xFF, loads := [] } })) s

/-- The value that a granule holds at its home. -/
def State.granuleAt (s : State) (who : Agent) (gr slot : Nat) : State × W64 :=
  let (s1, bs) := s.readAt who (gr * 8) 8 slot
  (s1, BitVec.ofNat 64 (leNat bs))

/-- Validation in log order (R333): the address of the first granule that differs. One whose sector fails its MAC cannot be compared (R488): it
fails with `true`. -/
def State.validate (s : State) (who : Agent) : List LogEntry → State × Option (W64 × Bool)
  | [] => (s, none)
  | e :: r =>
    let bad := s.look (sectorOf (e.gran * 8)) e.slot == .mac
    let (s1, v) := s.granuleAt who e.gran e.slot
    if !bad && v == e.val then s1.validate who r else (s1, some (e.va, bad))

/-- Runs of consecutive bytes of a granule. -/
def byteRuns : KMap Byte → List (Nat × List Byte)
  | [] => []
  | (a, b) :: r =>
    match byteRuns r with
    | (k, bs) :: rest => if k = a + 1 then (a, b :: bs) :: rest else (a, [b]) :: (k, bs) :: rest
    | [] => [(a, [b])]

/-- The buffered bytes of a lane written at their homes. -/
def State.applyBuf (s : State) (who : Agent) (buf : List BufEntry) : State :=
  buf.foldl (fun s e => (byteRuns e.bytes).foldl (fun s p => s.writeAt who (e.gran * 8 + p.1) p.2 e.slot false) s) s

/-- A transaction closes (R332, R343): committed, or aborted with its cause and fault address. -/
def Lane.closeTx (ln : Lane) (cause : Option (Nat × W64)) : Lane :=
  let t := { ln.tx with isOpen := false, closing := false, doomed := false, irrev := false, rlog := [], wbuf := [], first := 0, doomAt := 0 }
  match cause with
  | none => { ln with tx := { t with retry := 0 } }
  | some (k, va) => { ln with tx := { t with retry := min (t.retry + 1) 255, cause := k, addr := va } }

/-- One lane of a commit (R332, R337): a doomed lane aborts with its first cause, an irrevocable lane is not validated. A
failed MAC raises SECURITY in the lane at the group's next issue (R488; log 66). -/
def State.commitLane (s : State) (gid core asid lane : Nat) : State × Bool :=
  match klookup s.groups gid with
  | none => (s, false)
  | some g =>
    let t := (g.lane lane).tx
    let who := Agent.group gid core asid
    let close (s : State) (k : Option (Nat × W64)) : State := s.modGroup gid fun g => g.modLane lane fun ln => ln.closeTx k
    if t.doomed then (close s (some (t.first, t.doomAt)), false)
    else
      match (if t.irrev then (s, none) else s.validate who t.rlog) with
      | (s1, some (va, bad)) =>
        (close (if bad then s1.modGroup gid fun g => { g with secPend := kput g.secPend lane va } else s1) (some (2, va)), false)
      | (s1, none) => (close (s1.applyBuf who t.wbuf) none, true)

/-- The lanes of a commit in ascending order, each after the one before it (R332): the lanes that committed. -/
def State.commitLanes (s : State) (gid core asid : Nat) : List Nat → State × List Nat
  | [] => (s, [])
  | l :: r =>
    let (s1, ok) := s.commitLane gid core asid l
    let (s2, rest) := s1.commitLanes gid core asid r
    (s2, if ok then l :: rest else rest)

/-- The commit of a group at its ticket (R332, R334): the lanes, the flags, TXST.TICKET, the release of the group transaction and of
the fallback lock, and the fence that follows. -/
def State.commitGroup (s : State) (gid : Nat) (g : Group) (ticket : W32) (parts lanes : List Nat) (flag op : Nat) : State :=
  let asid := s.asidOf g
  let (s1, oks) := s.commitLanes gid g.core asid lanes
  let s2 := s1.modGroup gid fun g =>
    { g.land s.free op (g.setFlags parts flag fun l => oks.contains l) with
      ticket := ticket, fence := some { kind := .fence, lanes := parts, mask := 0xFF, loads := [] } }
  ((s2.countCore g.core 0x11 asid oks.length).countCore g.core 0x12 asid (lanes.length - oks.length)).txSettle gid

/-- The slice of a line that a commit reads or writes has no room in its queue (R273). -/
def State.commitWaits (s : State) (g : Group) (lanes : List Nat) : Bool :=
  decide (32 ≤ s.mem.l2q.length) && lanes.any fun l =>
    let t := (g.lane l).tx
    (t.rlog.map (·.gran) ++ t.wbuf.map (·.gran)).any fun gr => s.sliceFull (gr * 8)

/-- TEND_COMMIT (R331, R332): commits are performed in ticket order. -/
def execTendCommit (gid : Nat) (s : State) : Host.Outcome State Fault Refusal :=
  match s.tx.commits with
  | c :: rest =>
    match c.who with
    | .group k parts lanes flag op =>
      if k = gid then
        let s1 := { s with tx := { s.tx with commits := rest } }
        match klookup s.groups gid with
        | some g => .next (if s.commitWaits g lanes then s else s1.commitGroup gid g c.ticket parts lanes flag op)
        | none => .next s1
      else .next s
    | .host _ => .next s
  | [] => .next s

/-! ## tabort and tstat -/

def tabortShape (h : Head) : Shape :=
  { major := 0x90, minor := 2, tyOk := h.ty == .b32, modsOk := h.mods == 0, b := fScalRaw, region := true,
    extra := must (!isImm h.b || decide ((match h.b with | .imm v => v.toNat | _ => 0) < 256)) }
/-- TABORT (R344). -/
def execTabort (h : Head) (s : State) : Host.Outcome State Fault Refusal :=
  issue (fun _ => tabortShape h) h
    (fun c s =>
      let code := (readRaw c.g h.b).toNat % 256
      .done ((s.doomLanes c.gid c.txLanes 9 0).modGroup c.gid fun g =>
        g.modLanes c.txLanes fun _ ln => { ln with tx := { ln.tx with code := code } })) s

/-- The status word of a lane (R343). -/
def statusWord (t : LaneTx) : W64 :=
  BitVec.ofNat 64 (t.code % 256 * 2 ^ 24 + t.retry % 256 * 2 ^ 16 + t.cause % 16 * 2 ^ 12
    + (if t.isOpen then 2 ^ 11 else 0) + (if t.isOpen && t.doomed then 2 ^ 10 else 0) + (if t.isOpen && t.irrev then 2 ^ 9 else 0))

def tstatShape (h : Head) : Shape :=
  { major := 0x90, minor := 3, tyOk := h.ty == .b32, modsOk := decide (h.mods.toNat < 2),
    d := fRow (if h.mods.getLsbD 0 then .n64 else .b32), lat := (4, 1), afterTend := true }
/-- TSTAT (R344, R504). -/
def execTstat (h : Head) (s : State) : Host.Outcome State Fault Refusal :=
  issue (fun _ => tstatShape h) h
    (fun c s =>
      if c.ps.isEmpty then .done s
      else c.onGroup s (c.writeVec (tstatShape h) fun l =>
        let t := (c.g.lane l).tx
        if h.mods.getLsbD 0 then t.addr else statusWord t)) s

end Sys2Proof.Machine
end

