-- ==== Sys2Proof/Machine/EngineMem.lean ====
section
/-!
DEFINITION. What the asynchronous engines share (09_order.md R307 to R311; 13_engines.md R410 to R414; 11_tun.md R361, R364): reads
and writes at their home, requests to other packages, parking, the hazard table, and the token that ends an operation.
-/

namespace Sys2Proof.Machine

/-! ## Completion statuses (R364, R386) -/

def stDone : Nat := 0x01
def stAccess : Nat := 0x02
def stFormat : Nat := 0x03
def stPoison : Nat := 0x04
def stAlign : Nat := 0x05
def stScratch : Nat := 0x06
def stRemote : Nat := 0x07
def stOrder : Nat := 0x08
def stLimit : Nat := 0x09
def stBroken : Nat := 0x0A
def stDmr : Nat := 0x0B
def stBounds : Nat := 0x0C

/-- An engine at work on an operation: its issuer, its translation unit, and SRC of its fault records (R271). `fmt` says that it reports FORMAT on a
reserved FMT, as the engines, the fetch unit and the join unit do (R261); `link` is the link that a card prefers (R421). -/
structure Eng where
  op  : Nat
  iss : Issuer
  mmu : Mmu
  src : Nat
  fmt : Bool := true
  link : Option Nat := none
  deriving DecidableEq, Repr

def Eng.agent (e : Eng) : Agent := .engine e.iss.core e.iss.asid

/-! ## Places -/

/-- The place of n bytes at a generic address, which an engine reaches without a lane (R222, R361, R408). -/
def State.engTarget (s : State) (iss : Issuer) (a : W64) (n : Nat) : Target :=
  match s.spaceOf iss.core a, klookup s.teams iss.team with
  | (.glob, v), _ => .virt [(v, n)]
  | (.scr, x), some t => if x + n ≤ t.sp then .scr x else .bound
  | (.pair, x), some t => if x + n ≤ t.pp then .scr (if iss.core % 2 = 0 then t.sbytes + x else x) else .bound
  | (.scr, _), none => .bound
  | (.pair, _), none => .bound
  | _, _ => .deny

/-- A run of bytes cut at the boundaries of sectors. -/
def sectorCuts : Nat → Nat → Nat → List (Nat × Nat)
  | 0, _, _ => []
  | fuel + 1, a, n =>
    if n = 0 then [] else (a, min n (256 - a % 256)) :: sectorCuts fuel (a + min n (256 - a % 256)) (n - min n (256 - a % 256))

/-- What one piece of an engine's access meets. -/
inductive EngPiece where
  | bad (status : Nat) (key : Bool) (mac : List (Nat × Nat))
  | miss (level base pages : Nat)
  | wait
  | ok (c : Chunk) (fmt geo : Nat)
  deriving DecidableEq, Repr

/-- One piece judged (R261, R361, R412, R429, R485, R488). -/
def State.engPiece (s : State) (e : Eng) (u : Use) (p : Nat × Nat) : EngPiece :=
  if s.peekWaits e.mmu e.iss.asid p.1 u then .wait
  else
    match s.peek e.mmu e.iss.asid p.1 e.iss.sup u with
    | .key => .bad stAccess true []
    | .deny => .bad stAccess false []
    | .miss l b n => .miss l b n
    | .ok pa pte =>
      let ok : EngPiece := .ok { loc := .glob pa, n := p.2, slot := pteKey pte, virt := p.1 } (pteFmt pte) (pteGeo pte)
      if e.fmt && decide (16 ≤ pteFmt pte) then .bad stFormat false []
      else if isDomain pa then (if (s.routes (domainPkg pa)).isEmpty then .bad stRemote false [] else ok)
      else if isDevReg pa then ok
      else if s.accessWaits e.agent pa p.2 (useWrites u) || s.sliceFull pa then .wait
      else if useWrites u then ok
      else
        match s.look (sectorOf pa) (pteKey pte) with
        | .ok => ok
        | .poison => .bad stPoison false []
        | .mac => .bad stPoison false [(sectorOf pa, pteKey pte)]

/-- What an engine's access meets: a status, a page to wait for, an exclusion, or its chunks with the format and geometry of
their pages. -/
inductive EngLook where
  | bad (status : Nat) (key : Bool) (mac : List (Nat × Nat))
  | park (level base pages : Nat)
  | wait
  | ok (chunks : List Chunk) (ptes : List (Nat × Nat)) (pieces : List (Nat × Nat))
  deriving DecidableEq, Repr

/-- Pieces in ascending order, the first that is not allowed deciding. -/
def joinPieces : List ((Nat × Nat) × EngPiece) → EngLook
  | [] => .ok [] [] []
  | (p, x) :: r =>
    match x with
    | .bad k key mac => .bad k key mac
    | .miss l b n => .park l b n
    | .wait => .wait
    | .ok c f g =>
      match joinPieces r with
      | .ok cs fs ps => .ok (c :: cs) ((f, g) :: fs) (p :: ps)
      | y => y

/-- The pieces of an engine's access in virtual memory. -/
def State.engPieces (s : State) (e : Eng) (a : W64) (n : Nat) : List (Nat × Nat) :=
  match s.engTarget e.iss a n with
  | .virt ps => ps.flatMap fun p => sectorCuts (p.2 / 256 + 2) p.1 p.2
  | _ => []

/-- An engine's access of n bytes at a generic address. -/
def State.engLook (s : State) (e : Eng) (u : Use) (a : W64) (n : Nat) : EngLook :=
  match s.engTarget e.iss a n with
  | .bound => .bad stScratch false []
  | .deny => .bad stAccess false []
  | .scr off =>
    let poison := match klookup s.teams e.iss.team with | some t => t.scrPoison off n | none => false
    if poison && !useWrites u then .bad stPoison false [] else .ok [{ loc := .scr off, n := n, slot := 0 }] [(0, 0)] []
  | .virt _ => joinPieces ((s.engPieces e a n).map fun p => (p, s.engPiece e u p))

/-- The walks of an access that goes no further (R253, R280, R339). -/
def State.engWalks (s : State) (e : Eng) (a : W64) (n : Nat) : State :=
  (s.engPieces e a n).foldl (fun s p => s.touchWalk e.mmu e.iss.asid p.1) s

/-- Key misuse and failed MACs go to the alarm (R485, R488). -/
def State.engNote (s : State) (e : Eng) (a : W64) (n : Nat) (key : Bool) (mac : List (Nat × Nat)) : State :=
  let s := s.engWalks e a n
  let s := if key then s.alarm 4 (some e.iss.asid) else s
  mac.foldl (fun s m => s.fillSector m.1 m.2 e.iss.asid) s

/-- A page that is not resident parks the operation (R267, R361, R412). -/
def State.engPark (s : State) (e : Eng) (u : Use) (a : W64) (len l b n : Nat) : State :=
  (s.engWalks e a len).parkFault (mmuDie e.mmu) e.iss.asid e.src (useKind u) l b n

def State.engUse (s : State) (e : Eng) (u : Use) (ps : List (Nat × Nat)) : State :=
  ps.foldl (fun s p => s.useEntry e.mmu e.iss.asid p.1 u) s

/-! ## Bytes of other packages -/

/-- The answer to what an operation asked of n bytes at an address (R361). -/
def State.gotAt (s : State) (op pa n : Nat) : Option RemoteGot := s.net.got.find? fun r => r.op == op && r.pa == pa && r.n == n

/-- Domain chunks that have not arrived are asked for, once each. -/
def State.askRemote (s : State) (e : Eng) (cs : List Chunk) : State :=
  cs.foldl (fun s c =>
    match c.loc with
    | .glob pa =>
      if !isDomain pa || (s.gotAt e.op pa c.n).isSome || s.net.outs.any fun o => o.kind == .engRead e.op pa c.n then s
      else
        match s.request (packetOf .readReq (domainPkg pa) (domainAddr pa) c.n [] c.slot 0) (.engRead e.op pa c.n) e.link with
        | some (s1, _) => s1
        | none => s
    | .scr _ => s) s

/-- What an operation holds of other packages is dropped. -/
def State.dropGot (s : State) (op : Nat) : State := { s with net := { s.net with got := s.net.got.filter fun r => r.op != op } }

/-- The first failure among the answers for a list of chunks. -/
def State.remoteBad (s : State) (op : Nat) (cs : List Chunk) : Option Nat :=
  cs.findSome? fun c =>
    match c.loc with
    | .glob pa => match s.gotAt op pa c.n with | some r => if r.status = 0 then none else some r.status | none => none
    | .scr _ => none

/-- Every domain chunk has been answered. -/
def State.remoteHere (s : State) (op : Nat) (cs : List Chunk) : Bool :=
  cs.all fun c => match c.loc with | .glob pa => !isDomain pa || (s.gotAt op pa c.n).isSome | .scr _ => true

/-! ## Reading and writing -/

/-- The outcome of an engine's access: a status, parked, waiting, or its bytes with the format and geometry of each piece. -/
inductive EngRes where
  | bad (status : Nat)
  | park
  | wait
  | ok (bytes : List Byte) (ptes : List (Nat × Nat))
  deriving DecidableEq, Repr

/-- The bytes of one chunk that is here. -/
def State.chunkBytes (s : State) (e : Eng) (c : Chunk) : State × List Byte :=
  match c.loc with
  | .scr off => (s, match klookup s.teams e.iss.team with | some t => t.scrBytes off c.n | none => [])
  | .glob pa =>
    if isDomain pa then (s, match s.gotAt e.op pa c.n with | some r => r.data | none => [])
    else if isDevReg pa then (s, s.devRead pa c.n)
    else s.readAt e.agent pa c.n c.slot

def State.chunksBytes (s : State) (e : Eng) : List Chunk → State × List Byte
  | [] => (s, [])
  | c :: r =>
    let (s1, b) := s.chunkBytes e c
    let (s2, rest) := s1.chunksBytes e r
    (s2, b ++ rest)

/-- A walk of an access whose tables lie in another package asks for them (R274, R282). -/
def State.askWalks (s : State) (e : Eng) (a : W64) (n : Nat) : State :=
  (s.engPieces e a n).foldl (fun s p => s.askTables e.mmu e.iss.asid p.1) s

/-- A read of an engine at `.pkg` scope, or of another package (R410). -/
def State.engRead (s : State) (e : Eng) (a : W64) (n : Nat) : State × EngRes :=
  match s.engLook e .read a n with
  | .bad k key mac => (s.engNote e a n key mac, .bad k)
  | .park l b m => (s.engPark e .read a n l b m, .park)
  | .wait => (s.askWalks e a n, .wait)
  | .ok cs ptes ps =>
    let s1 := s.askRemote e cs
    match s1.remoteBad e.op cs with
    | some k => (s1, .bad k)
    | none =>
      if s1.remoteHere e.op cs then
        let (s2, bs) := (s1.engUse e .read ps).chunksBytes e cs
        (s2, .ok bs ptes)
      else (s1, .wait)

/-- Bytes written at one chunk of this package. -/
def State.chunkPut (s : State) (e : Eng) (c : Chunk) (bs : List Byte) : State :=
  match c.loc with
  | .scr off => s.modTeam e.iss.team fun t => t.scrStore off bs
  | .glob pa => if isDevReg pa then s.devWrite pa bs else s.writeAt e.agent pa bs c.slot (bs.length == 256)

/-- Bytes written chunk by chunk; those of another package travel as write packets. None while no request can be sent. -/
def State.chunksPut (s : State) (e : Eng) : List Chunk → List Byte → Option State
  | [], _ => some s
  | c :: r, bs =>
    let b := bs.take c.n
    let next : Option State := match c.loc with
      | .glob pa =>
        if isDomain pa then
          (s.request (packetOf .write (domainPkg pa) (domainAddr pa) c.n b c.slot 0) (.engWrite e.op) none).map fun r => r.1.forgetPeer none pa c.n
        else some (s.chunkPut e c b)
      | .scr _ => some (s.chunkPut e c b)
    match next with
    | some s1 => s1.chunksPut e r (bs.drop c.n)
    | none => none

/-- A write of an engine. -/
def State.engWrite (s : State) (e : Eng) (a : W64) (bs : List Byte) : State × EngRes :=
  match s.engLook e .write a bs.length with
  | .bad k key mac => (s.engNote e a bs.length key mac, .bad k)
  | .park l b n => (s.engPark e .write a bs.length l b n, .park)
  | .wait => (s.askWalks e a bs.length, .wait)
  | .ok cs ptes ps =>
    match (s.engUse e .write ps).chunksPut e cs bs with
    | some s1 => (s1, .ok [] ptes)
    | none => (s, .wait)

/-- Answers for an operation's writes are outstanding, and the first failure among those that have come. -/
def State.writesOut (s : State) (op : Nat) : Bool := s.net.outs.any fun o => o.kind == .engWrite op
def State.writeBad (s : State) (op : Nat) : Option Nat := ((s.gotAt op 0 0).map (·.status)).filter fun st => st != 0

/-- A write that an operation waits for is under way, or its answer is here. -/
def State.writeStarted (s : State) (op : Nat) : Bool := s.writesOut op || (s.gotAt op 0 0).isSome

/-- The outcome of the writes that an operation waits for: none while answers are outstanding (R356, R376). -/
def State.writeEnd (s : State) (op : Nat) : Option (State × Nat) :=
  if s.writesOut op then none
  else some ({ s with net := { s.net with got := s.net.got.filter fun r => !(r.op == op && r.pa == 0 && r.n == 0) } },
             (s.writeBad op).getD 0)

/-- A run of reads, in order. -/
def State.engReads (s : State) (e : Eng) : List (W64 × Nat) → State × EngRes
  | [] => (s, .ok [] [])
  | p :: r =>
    match s.engRead e p.1 p.2 with
    | (s1, .ok b f) =>
      match s1.engReads e r with
      | (s2, .ok b2 f2) => (s2, .ok (b ++ b2) (f ++ f2))
      | x => x
    | x => x

/-! ## Order -/

/-- The issuing lanes' earlier stores of the masked colours are made visible first (R307): none while one cannot be. -/
def State.engRelease (s : State) (iss : Issuer) (op : Nat) (mask : Byte) : Option State :=
  let early (s : State) : Bool := match klookup s.groups iss.gid with
    | some g => g.stores.any fun q => decide (q.age < op) && maskHas mask q.colour && meets q.lanes iss.lanes
    | none => false
  if early s then
    let s1 := s.drainSome iss.gid 2 fun q => decide (q.age < op) && maskHas mask q.colour && meets q.lanes iss.lanes
    if early s1 then none else some s1
  else some s

def rangeHit (a b : Range) : Bool := a.scr == b.scr && a.ctx == b.ctx && decide (a.lo < b.hi ∧ b.lo < a.hi)
def rangesHit (xs ys : List Range) : Bool := xs.any fun a => ys.any fun b => rangeHit a b

/-- An earlier operation of the core conflicts (R310, R413). -/
def State.hazardBlocked (s : State) (op : Nat) : Bool :=
  match s.hazards.find? fun h => h.op == op with
  | some h => s.hazards.any fun e =>
      decide (e.op < op) && e.core == h.core && (rangesHit e.writes (h.reads ++ h.writes) || rangesHit e.reads h.writes)
  | none => false

/-- The hazard table of a core is full (R413). -/
def State.hazardFull (s : State) (core : Nat) : Bool := decide (64 ≤ (s.hazards.filter fun h => h.core == core).length)
def State.addHazard (s : State) (op core : Nat) (reads writes : List Range) : State :=
  { s with hazards := s.hazards ++ [{ op := op, core := core, reads := reads, writes := writes }] }
/-- An operation has performed its last read (R413). -/
def State.readsDone (s : State) (op : Nat) : State :=
  { s with hazards := s.hazards.map fun h => if h.op = op then { h with reads := [] } else h }

/-- The range of n bytes at a generic address, with no translation (R413). -/
def State.rangeOf (s : State) (iss : Issuer) (a : W64) (n : Nat) : List Range :=
  if n = 0 then []
  else
    match s.spaceOf iss.core a with
    | (.glob, v) => [{ scr := false, ctx := iss.asid, lo := v, hi := v + n }]
    | (.scr, x) => [{ scr := true, ctx := iss.team, lo := x, hi := x + n }]
    | (.pair, x) =>
      let half := match klookup s.teams iss.team with | some t => t.sbytes | none => 0
      let x := if iss.core % 2 = 0 then half + x else x
      [{ scr := true, ctx := iss.team, lo := x, hi := x + n }]
    | _ => []

/-- The ranges of the addresses from lo to hi, counted modulo 2^64, that lie in global memory or in a scratch or pair window (R413). -/
def State.spanOf (s : State) (iss : Issuer) (lo hi : Int) : List Range :=
  let d := s.die (dieOf iss.core)
  let half := match klookup s.teams iss.team with | some t => t.sbytes | none => 0
  let cut (w n : Nat) (mk : Nat → Nat → Range) : List Range := ([-1, 0, 1] : List Int).filterMap fun k =>
    let a : Int := max (lo + k * 2 ^ 64 - (w : Int)) 0
    let b : Int := min (hi + k * 2 ^ 64 - (w : Int)) (n : Int)
    if a < b then some (mk a.toNat b.toNat) else none
  cut 0 (2 ^ 54) (fun a b => { scr := false, ctx := iss.asid, lo := a, hi := b })
    ++ cut (apBase d.apscr) (2 ^ 32) (fun a b => { scr := true, ctx := iss.team, lo := a, hi := b })
    ++ cut (apBase d.appair) (2 ^ 32) fun a b =>
      let off := if iss.core % 2 = 0 then half else 0
      { scr := true, ctx := iss.team, lo := off + a, hi := off + b }

/-! ## The end of an operation -/

/-- An operation leaves with its hazard entry and what it holds of other packages (R413). -/
def State.leaveOp (s : State) (op : Nat) : State :=
  { s.delOp op with hazards := s.hazards.filter fun h => h.op != op
                    net := { s.net with got := s.net.got.filter fun r => r.op != op } }

/-- An operation ends: its token and its registers; its completion by token is an acquire (R308). -/
def State.endOp (s : State) (iss : Issuer) (op : Nat) (v : W64) : State :=
  ((s.leaveOp op).writeToken iss.gid op iss.token v).acquireAt iss.core

/-- The issuer of an operation of the acting group. -/
def Ctx.issuer (c : Ctx) (s : State) (token : Nat) : Issuer :=
  { gid := c.gid, team := c.g.team, core := c.g.core, asid := s.asidOf c.g, sup := c.g.sup, fmode := c.g.fmode, token := token,
    lanes := c.ps }

end Sys2Proof.Machine
end

