-- ==== Sys2Proof/Machine/Engines.lean ====
section
/-!
DEFINITION. Job cards and remote stores (13_engines.md R406 to R418, R422, R423).
-/

namespace Sys2Proof.Machine

/-! ## Cards -/

/-- The fields of the 512 bits of a card (R406). -/
structure CardBits where
  ty   : Nat
  unord : Bool
  rtag : Bool
  sfmt : Nat
  dfmt : Nat
  cmask : Nat
  link : Nat
  rsv  : Bool
  bar  : Nat
  src  : Nat
  dst  : Nat
  len  : Nat
  rows : Nat
  sstr : Int
  dstr : Int
  xr   : Nat
  xw   : Nat
  deriving DecidableEq, Repr

def cardBits (n : Nat) : CardBits :=
  { ty := bitsOf n 3 0, unord := bitsOf n 16 16 == 1, rtag := bitsOf n 17 17 == 1, sfmt := bitsOf n 34 30, dfmt := bitsOf n 39 35
    cmask := bitsOf n 47 40, link := bitsOf n 52 48
    rsv := bitsOf n 63 53 != 0 || bitsOf n 29 18 != 0 || bitsOf n 15 4 != 0
    bar := bitsOf n 127 64, src := bitsOf n 191 128, dst := bitsOf n 255 192, len := bitsOf n 287 256, rows := bitsOf n 319 288
    sstr := toSigned 32 (bitsOf n 351 320), dstr := toSigned 32 (bitsOf n 383 352), xr := bitsOf n 447 384, xw := bitsOf n 511 448 }

/-- Sizes of the source and destination elements (R407); 1 where the card moves bytes. -/
def cardEs (c : CardBits) : Nat :=
  if c.ty = 2 ∨ c.ty = 3 then max (tyWidth (Ty.ofCode (BitVec.ofNat 5 c.sfmt)) / 8) 1 else 1
def cardEd (c : CardBits) : Nat := if c.ty = 2 then max (tyWidth (Ty.ofCode (BitVec.ofNat 5 c.dfmt)) / 8) 1 else 1

/-- GROUP and OFF of a group address (R422). -/
def groupNum (a : Nat) : Nat := a / 2 ^ 40 % 4096
def groupOff (a : Nat) : Nat := a % 2 ^ 40

/-- The formats of a card (R407). -/
def cardFmtOk (c : CardBits) : Bool :=
  match c.ty with
  | 2 => cvtPair (Ty.ofCode (BitVec.ofNat 5 c.sfmt)) (Ty.ofCode (BitVec.ofNat 5 c.dfmt))
          && tyScalConv (Ty.ofCode (BitVec.ofNat 5 c.sfmt))
  | 3 => (c.sfmt == 10 || c.sfmt == 11) && c.dfmt == 0
  | 4 => c.dfmt == 0
  | _ => c.sfmt == 0 && c.dfmt == 0

/-- A footprint word that R408 rejects. -/
def footBad (w : Nat) : Bool :=
  bitsOf w 63 63 == 1 && (bitsOf w 61 42 == 0 || (bitsOf w 62 62 == 1 && bitsOf w 41 8 != 0))

/-- The range of a footprint word (R406). -/
def footRange (iss : Issuer) (w : Nat) : List Range :=
  if bitsOf w 63 63 = 0 then []
  else if bitsOf w 62 62 = 1 then
    [{ scr := true, ctx := iss.team, lo := 4096 * bitsOf w 7 0, hi := 4096 * bitsOf w 7 0 + 4096 * bitsOf w 61 42 }]
  else [{ scr := false, ctx := iss.asid, lo := 4096 * bitsOf w 41 0, hi := 4096 * bitsOf w 41 0 + 4096 * bitsOf w 61 42 }]

/-- The multicast group of a card does not take it (R422). -/
def State.groupBad (s : State) (c : CardBits) : Bool :=
  match klookup s.net.groups (groupNum c.dst) with
  | some g => decide (2 ^ 52 ≤ c.dst) || g.pmask == 0 || decide (g.size < groupOff c.dst + c.len) || (c.ty == 3 && g.elt != c.sfmt)
  | none => true

/-- DST does not translate to a domain page (R408), whatever the leaf permits; a page that is not resident is judged when its unit is
written. -/
def State.notDomain (s : State) (e : Eng) (dst : W64) : Bool :=
  match s.engTarget e.iss dst 1 with
  | .virt ((v, _) :: _) =>
    match (if 2 ^ 54 ≤ v then .malformed else s.find e.mmu e.iss.asid v) with
    | .entry x _ => !isDomain (x.addr v)
    | .absent _ _ _ => false
    | .malformed => true
  | _ => true

/-- BAR without a tag is no barrier object's address (R241, R408). -/
def State.barBad (s : State) (iss : Issuer) (bar : Nat) : Bool :=
  bar != 0 && (bar % 16 != 0 || (match s.engTarget iss (BitVec.ofNat 64 bar) 16 with | .scr _ => false | _ => true))

/-- The status of a malformed card, in the order of R408. -/
def State.cardMalformed (s : State) (e : Eng) (c : CardBits) : Option Nat :=
  let one := c.ty == 0 || c.ty == 3 || c.ty == 4
  let loc (a : Nat) : Bool := (s.spaceOf e.iss.core (BitVec.ofNat 64 a)).1 == .loc
  if decide (4 < c.ty) || c.rsv || (c.rows != 0) == one || (one && (c.sstr != 0 || c.dstr != 0)) || !cardFmtOk c
      || c.len % cardEs c != 0 || c.src % cardEs c != 0 || (decide (c.ty ≤ 2) && c.dst % cardEd c != 0)
      || (c.ty == 3 && c.dst % cardEs c != 0) || decide (18 < c.link)
      || (c.rtag && (c.ty == 3 || c.ty == 4 || s.notDomain e (BitVec.ofNat 64 c.dst))) || footBad c.xr || footBad c.xw
      || (!c.rtag && s.barBad e.iss c.bar) then some stFormat
  else if decide (2 ^ 39 ≤ c.len * max c.rows 1) then some stLimit
  else if loc c.src || (decide (c.ty ≤ 2) && loc c.dst) then some stAccess
  else none

/-- A row cut at the 2 KiB boundaries of its destination (R410, R423). -/
def cutUnits (es ed : Nat) (align : Bool) : Nat → Nat → Nat → Nat → List CardUnit
  | 0, _, _, _ => []
  | fuel + 1, src, dst, left =>
    if left = 0 then []
    else
      let k := min left (2048 - dst % 2048)
      { src := BitVec.ofNat 64 src, dst := BitVec.ofNat 64 dst, slen := k / ed * es, dlen := k, align := align, st := .todo }
        :: cutUnits es ed align fuel (src + k / ed * es) (dst + k) (left - k)

/-- The units of a card, row by row (R407, R410). -/
def cardUnits (c : CardBits) : List CardUnit :=
  let es := cardEs c
  let ed := cardEd c
  let dl := c.len / es * ed
  (List.range (max c.rows 1)).flatMap fun (r : Nat) =>
    let src := (BitVec.ofInt 64 (c.src + r * c.sstr)).toNat
    let dst := (BitVec.ofInt 64 (c.dst + r * c.dstr)).toNat
    cutUnits es ed (src % es == 0 && (c.ty != 2 || dst % ed == 0)) (dl / 2048 + 2) src dst dl

/-- The span of rows of `len` bytes, from the lowest byte to the highest (R413). -/
def State.rowSpan (s : State) (iss : Issuer) (base : Nat) (stride : Int) (rows len : Nat) : List Range :=
  let last : Int := (base : Int) + (((max rows 1 : Nat) : Int) - 1) * stride
  let lo : Int := min (base : Int) last
  let hi : Int := max (base : Int) last + len
  if len = 0 then [] else s.spanOf iss lo hi

/-- The footprints of a card (R413). -/
def State.cardReads (s : State) (iss : Issuer) (c : CardBits) : List Range :=
  s.rowSpan iss c.src c.sstr c.rows c.len ++ footRange iss c.xr
def State.cardWrites (s : State) (iss : Issuer) (c : CardBits) : List Range :=
  (if c.ty ≤ 2 then s.rowSpan iss c.dst c.dstr c.rows (c.len / cardEs c * cardEd c) else []) ++ footRange iss c.xw

/-- The link that a card prefers (R406, R421). -/
def cardLink (link : Nat) : Option Nat := if link = 0 then none else some (link - 1)

/-- The engine of a card: one of its quadrant (R265, R271). -/
def State.cardEng (s : State) (op : Nat) (iss : Issuer) (link : Nat) : Eng :=
  { link := cardLink link, op := op, iss := iss, mmu := .die (dieOf iss.core), src := 0x3000 + 32 * dieOf iss.core + (Config.freeWord s.free op).toNat % 32 }

/-- Cards of a core that no engine has begun (R409). -/
def State.cardsQueued (s : State) (core : Nat) : Nat :=
  (s.ops.filter fun e => match e.2 with
    | .card c => c.iss.core == core && c.status == 0 && c.units.all (fun u => u.st == .todo) && !c.units.isEmpty
    | _ => false).length

def cpostShape (h : Head) : Shape :=
  { major := 0x98, minor := 0, tyOk := h.ty == .b32, modsOk := h.mods == 0, d := fScal, a := fScal, access := true, region := true }

/-- A card enters (R409): its units, its hazard entry, its token. -/
def State.postCard (s : State) (c : Ctx) (d : Operand) (n : Nat) (poison : Bool) : State :=
  let b := cardBits n
  let iss := c.issuer s (scalNum d)
  let op := s.nextOp
  let bad := if poison then some stPoison else s.cardMalformed (s.cardEng op iss b.link) b
  let units := if bad.isSome then [] else cardUnits b
  let card (start : Bool) : Card :=
    { iss := iss, mask := BitVec.ofNat 8 b.cmask, started := start, ty := b.ty, unord := b.unord, rtag := b.rtag, sfmt := b.sfmt,
      dfmt := b.dfmt, link := b.link, bar := BitVec.ofNat 64 b.bar, units := units
      status := bad.getD (if 3 ≤ b.ty ∧ s.groupBad b then stFormat else 0) }
  if bad.isSome || b.unord then s.postToken c.gid (.card (card true)) d
  else
    let s1 := s.addHazard op c.g.core (s.cardReads iss b) (s.cardWrites iss b)
    s1.postToken c.gid (.card (card (!s1.hazardBlocked op))) d

/-- CPOST (R409): it waits while the queue or the hazard table is full, before the card is read. -/
def execCpost (h : Head) (s : State) : Host.Outcome State Fault Refusal :=
  issue (fun _ => cpostShape h) h
    (outsideTx fun c s =>
      let a := c.g.getS (scalNum h.a)
      if c.ps.isEmpty then .done s
      else
        match s.objAddr c.g a 64 64 with
        | (_, some cause) => .trap cause (c.ps.map fun l => (l, a))
        | (off, none) =>
          match s.settleScr c.gid c.ps off 64, decide (32 ≤ s.cardsQueued c.g.core) || s.hazardFull c.g.core with
          | some s1, false =>
            match klookup s1.teams c.g.team with
            | some t =>
              .done (s1.postCard c h.d (leNat (t.scrBytes off 64)) (t.scrPoison off 64))
            | none => .trap cAccess (c.ps.map fun l => (l, a))
          | _, _ => .retry) s

/-! ## Units -/

def Card.setUnit (c : Card) (k : Nat) (st : UnitState) : Card := { c with units := c.units.modify k fun u => { u with st := st } }

/-- A count-down of the card's own barrier object (R411). -/
def State.countBar (s : State) (c : Card) (n : Nat) (err : Bool) : State :=
  if c.bar = 0 ∨ c.rtag then s
  else match s.engTarget c.iss c.bar 16 with | .scr off => s.countDown c.iss.team off n err | _ => s

/-- What becomes of the count-down of a unit that an error keeps from being written: it is made, its page is not resident, or it has to wait. -/
inductive Counted where
  | made (s : State)
  | park (s : State)
  | wait (s : State)
  deriving DecidableEq, Repr

/-- The count-only packet of a failed unit to a domain page, unless no link reaches its package (R411). -/
def State.sendCount (s : State) (op : Nat) (c : Card) (u : CardUnit) (status pa slot : Nat) : Counted :=
  if !isDomain pa || (s.routes (domainPkg pa)).isEmpty then .made s
  else
    let pk := { packetOf .write (domainPkg pa) (domainAddr pa) u.dlen [] slot c.bar with stat := status % 16 }
    match s.request pk (.unit op c.units.length) (cardLink c.link) with
    | some (s1, _) => .made s1
    | none => .wait s

/-- A unit that an error keeps from being written is counted down with ERR (R411): at the card's object, or under RTAG by a packet of
the error's status with no data, whatever its leaf permits. A page that is not resident parks the packet (R267, R268). -/
def State.countFailed (s : State) (op : Nat) (c : Card) (u : CardUnit) (status : Nat) : Counted :=
  let e := s.cardEng op c.iss c.link
  if !c.rtag then .made (s.countBar c u.dlen true)
  else
    match s.engTarget c.iss u.dst 1 with
    | .virt ((v, _) :: _) =>
      if 2 ^ 54 ≤ v then .made s
      else if s.peekWaits e.mmu c.iss.asid v .write then .wait (s.askTables e.mmu c.iss.asid v)
      else
        match s.find e.mmu c.iss.asid v with
        | .entry x _ => (s.touchWalk e.mmu c.iss.asid v).sendCount op c u status (x.addr v) (pteKey x.pte)
        | .absent l b n => .park (s.engPark e .write u.dst 1 l b n)
        | .malformed => .made (s.touchWalk e.mmu c.iss.asid v)
    | _ => .made s

/-- A unit is written, or reported as failed (R410 to R412); its count-down may still be owed. -/
def State.unitDone (s : State) (op k n : Nat) (c : Card) : State := (s.setOp op (.card (c.setUnit k .written))).countBar c n false
def State.unitFails (s : State) (op k : Nat) (u : CardUnit) (status : Nat) (c : Card) : State :=
  let st := if c.status = 0 then status else c.status
  match s.countFailed op c u status with
  | .made s1 => s1.setOp op (.card { c.setUnit k (.failed status) with status := st })
  | .park s1 => s1.setOp op (.card { c.setUnit k (.stuck status) with status := st })
  | .wait s1 => s1.setOp op (.card { c.setUnit k (.owed status) with status := st })

/-- The elements of a unit converted (R407) under the captured FMODE (R170). -/
def convertRow (sfmt dfmt : Nat) (fmode : W32) (bs : List Byte) : List Byte :=
  let st := Ty.ofCode (BitVec.ofNat 5 sfmt)
  let dt := Ty.ofCode (BitVec.ofNat 5 dfmt)
  let es := max (tyWidth st / 8) 1
  (List.range (bs.length / es)).flatMap fun i =>
    leBytes (tyWidth dt / 8) (cvtElem st dt (fenv fmode) (leNat ((bs.drop (i * es)).take es)))

/-- The source pages' formats suit the card (R261, R412). -/
def cardPageOk (c : Card) (ptes : List (Nat × Nat)) : Bool :=
  ptes.all fun p => (c.ty == 0 || c.ty == 1 || c.ty == 4 || p.1 == 0 || p.1 == c.sfmt
    || Config.cardAccepts c.ty c.sfmt p.1)

/-- The plane of a piece (R423). -/
def planeOf (pmask : BitVec 18) (group off : Nat) : Nat :=
  let ps := (List.range 18).filter fun p => pmask.getLsbD p
  ps.getD ((group + off / 2048) % max ps.length 1) 0

/-- A piece is sent to its switch (R423, R427): REMOTE_FAIL where the plane's link does not reach. -/
def State.sendPiece (s : State) (op k : Nat) (c : Card) (u : CardUnit) (data : List Byte) (key : Nat) : State :=
  let grp := groupNum u.dst.toNat
  let off := groupOff u.dst.toNat
  let p := planeOf (match klookup s.net.groups grp with | some g => g.pmask | none => 0) grp off
  if !linkReaches (s.link p) || (s.nodeOn && decide (15 ≤ p)) then s.unitFails op k u stRemote c
  else
    let pk := { packetOf (if c.ty = 3 then .contribution else .broadcast) s.pkgId off u.dlen data key 0 with
                group := grp, elt := if c.ty = 4 then 0 else if c.sfmt = 11 then 1 else 2 }
    match s.requestOn pk (.unit op k) p with
    | some (s1, _) => s1.setOp op (.card (c.setUnit k .sent))
    | none => s

/-- The page of a unit's source, for its key slot. -/
def lookSlot (l : EngLook) : Nat := match l with | .ok (c :: _) _ _ => c.slot | _ => 0

/-- A unit's data written at its destination (R410, R411), or sent to another package with the card's tag. -/
def State.putUnit (s : State) (e : Eng) (op k : Nat) (c : Card) (u : CardUnit) (data : List Byte) : State :=
  match s.engLook e .write u.dst u.dlen with
  | .bad st key mac =>
    (s.engNote e u.dst u.dlen key mac).unitFails op k u st c
  | .park l b n => (s.engPark e .write u.dst u.dlen l b n).setOp op (.card (c.setUnit k .parked))
  | .wait => s
  | .ok cs _ ps =>
    let remote := match cs with | ch :: _ => (match ch.loc with | .glob pa => isDomain pa | .scr _ => false) | [] => false
    if remote then
      match cs with
      | ch :: _ =>
        match ch.loc with
        | .glob pa =>
          let pk := packetOf .write (domainPkg pa) (domainAddr pa) u.dlen data ch.slot (if c.rtag then c.bar else 0)
          match (s.engUse e .write ps).request pk (.unit op k) (cardLink c.link) with
          | some (s1, _) => (s1.forgetPeer none pa u.dlen).setOp op (.card (c.setUnit k .sent))
          | none => s
        | .scr _ => s
      | [] => s
    else if c.rtag then s.unitFails op k u stFormat c
    else
      match (s.engUse e .write ps).chunksPut e cs data with
      | some s1 => s1.unitDone op k u.dlen c
      | none => s

/-- A unit started (R407, R410, R412): its source is read, converted and written. -/
def State.runUnit (s : State) (op k : Nat) (c : Card) (u : CardUnit) : State :=
  let e := s.cardEng op c.iss c.link
  if !u.align then s.unitFails op k u stAlign c
  else
    let slot := lookSlot (s.engLook e .read u.src u.slen)
    match s.engRead e u.src u.slen with
    | (s1, .bad st) => s1.unitFails op k u st c
    | (s1, .park) => s1.setOp op (.card (c.setUnit k .parked))
    | (s1, .wait) => s1
    | (s1, .ok bs ptes) =>
      if !cardPageOk c ptes then s1.unitFails op k u stFormat c
      else
        let data := if c.ty = 2 then convertRow c.sfmt c.dfmt c.iss.fmode bs else bs
        if c.ty ≤ 2 then s1.putUnit e op k c u data else s1.sendPiece op k c u data slot

/-- Every unit of a card has performed its read. -/
def Card.readAll (c : Card) : Bool := c.units.all fun u => u.st != .todo && u.st != .parked && u.st != .again

/-- CARD_UNIT_WRITE (R307, R407, R410 to R413): a unit of a card that the hazard table lets run; none starts after an error, but
one in flight, whose page a replay has brought, is completed. -/
def execCardUnitWrite (op unit : Nat) (s : State) : Host.Outcome State Fault Refusal :=
  match klookup s.ops op with
  | some (.card c) =>
    match c.units[unit]? with
    | some u =>
      if c.started ∧ ((u.st = .todo ∧ c.status = 0) ∨ u.st = .again) then
        match s.engRelease c.iss op c.mask with
        | some s1 =>
          let s2 := s1.runUnit op unit c u
          .next (match klookup s2.ops op with | some (.card c2) => if c2.readAll then s2.readsDone op else s2 | _ => s2)
        | none => .next s
      else .next s
    | none => .next s
  | _ => .next s

/-! ## Completion -/

/-- A unit as an image or a replay finds it: what is parked is tried again (R268, R412). -/
def UnitState.retried : UnitState → UnitState
  | .parked => .again
  | .stuck k => .owed k
  | u => u

/-- What a unit that is not written after an error is counted down for, and the state it then has: one not started, with the card's
status, or one whose count-down is owed. -/
def leftUnit (c : Card) : UnitState → Option (Nat × UnitState)
  | .todo => some (c.status, .failed 0)
  | .owed k => some (if k = 0 then c.status else k, .failed k)
  | _ => none

/-- The failure that a unit's count-down reports: its own, or 0 where it was not begun. -/
def UnitState.reason : UnitState → Nat
  | .owed k => k
  | _ => 0

/-- The units not written after an error, in order. -/
def State.dropUnits (s : State) (op : Nat) (c : Card) : List (CardUnit × Nat) → State × Card
  | [] => (s, c)
  | (u, k) :: r =>
    match leftUnit c u.st with
    | some (status, st) =>
      match s.countFailed op c u status with
      | .made s1 => s1.dropUnits op (c.setUnit k st) r
      | .park s1 => s1.dropUnits op (c.setUnit k (.stuck u.st.reason)) r
      | .wait s1 => s1.dropUnits op c r
    | none => s.dropUnits op c r

/-- STATUS of a card (R412): the first failing unit in the card's order. -/
def Card.verdict (c : Card) : Nat :=
  match c.units.findSome? fun u => match u.st with
      | .failed k => if k = 0 then none else some k
      | .owed k | .stuck k => if k = 0 then none else some k
      | _ => none with
  | some k => k
  | none => if c.status = 0 then stDone else c.status

/-- Destination bytes written. -/
def Card.doneBytes (c : Card) : Nat := (c.units.map fun u => if u.st = .written then u.dlen else 0).sum

/-- Units still to be written or answered. -/
def Card.unfinished (c : Card) : Bool := c.units.any fun u => match u.st with
  | .sent | .parked | .again | .todo | .owed _ | .stuck _ => true
  | _ => false

/-- CARD_COMPLETE (R410 to R412): every unit is written or reported; the token is written. -/
def execCardComplete (op : Nat) (s : State) : Host.Outcome State Fault Refusal :=
  match klookup s.ops op with
  | some (.card c) =>
    if !c.started then .next s
    else
      let (s1, c1) := if c.status = 0 then (s, c) else s.dropUnits op c c.units.zipIdx
      if c1.unfinished then .next (s1.setOp op (.card c1))
      else .next (s1.endOp c1.iss op (BitVec.ofNat 64 (c1.doneBytes * 2 ^ 24 + c1.verdict)))
  | _ => .next s

/-! ## rst -/

def rstOpnd (h : Head) : Opnd := { dataOpnd h with scal := false, imm := false }
def rstShape (h : Head) : Shape :=
  { major := 0x98, minor := 1, tyOk := tyRow h.ty, modsOk := h.mods == 0, d := fAddr, a := .op (rstOpnd h), b := fAi h.b, dUse := .read,
    params := .may, access := true, region := true, poisonLast := true,
    extra := must (accOk h true true && (match h.params with | some p => litZero p.w1 && litZero p.w2 && litZero p.w3 | none => true)) }

/-- A lane's remote store judged (R417): outside the global window, or on a page that is no domain page, ACCESS. -/
def State.rstLook (s : State) (g : Group) (asid l : Nat) (va : W64) (n : Nat) : LaneLook :=
  let ask : Ask := { use := .write, scope := 4, packed := true, noDev := true, cvt := false }
  let deny : LaneLook := { lane := l, va := va, n := n, cause := some (rankOf false cAccess, cAccess), key := false, mac := [], miss := [],
                           chunks := [], fmt := 0, pieces := [] }
  if va.toNat % n ≠ 0 then { deny with cause := some (rankOf false cAlign, cAlign) }
  else if (s.spaceOf g.core va).1 ≠ .glob then deny
  else
    let lk := s.laneLook g asid ask (some l) l va n
    match s.peek (.core g.core) asid va.toNat g.sup .write with
    | .ok pa _ => if isDomain pa then lk else { deny with pieces := lk.pieces, wait := lk.wait }
    | _ => lk

/-- RST (R417). -/
def execRst (h : Head) (s : State) : Host.Outcome State Fault Refusal :=
  issue (fun _ => rstShape h) h
    (outsideTx fun c s =>
      let n := accSize h
      let looks := c.ps.map fun l => poisonLook (rstShape h) false c (s.rstLook c.g (s.asidOf c.g) l (laneAddr c s h.d (accOff h.b) n l) n)
      if c.ps.isEmpty then .done s
      else if looks.any (·.wait) then waitLooks c s looks []
      else
        match firstCause looks with
        | some (cause, hs) => causeEffect c s cause hs
        | none =>
          if looks.any fun x => !x.miss.isEmpty then parkWhole c s .write looks
          else
            .done ((s.usePieces c.g .write looks).queueStores c.gid
              (looks.map fun x => ([x.lane], x.va, x.chunks, rowBytes (c.g.lane x.lane) (rowOf c.g h.a x.lane) n)) (accCol h.b) 4 false
              (some (if h.params.isSome then (paramValues c.g h).1 else 0)))) s

end Sys2Proof.Machine
end

