-- ==== Sys2Proof/Machine/HostCores.lean ====
section
/-!
DEFINITION. The host side: the Xovmtx instructions and host transactions (10_transactions.md R338 to R343, R346), and the accesses of
host cores and of agents on PCIe and CXL (09_order.md R312; 16_tenancy.md R485, R488).
-/

namespace Sys2Proof.Machine

/-- A Xovmtx instruction of the acting host core. A core whose xtend holds a ticket waits for XTEND_COMMIT. -/
def hostStep (s : State) (f : Nat → HostCore → State) : Host.Outcome State Fault Refusal :=
  match s.cur with
  | .host h => if (s.host h).waitRd.isSome then .next s else .next (f h (s.host h))
  | _ => .fault .noAgent

/-- A synchronous exception of a host core, taken in direct mode as the RISC-V privileged specification has it. -/
def HostCore.trap (c : HostCore) (cause tval : W64) : HostCore :=
  { c with mepc := c.pc, mcause := cause, mtval := tval, pc := c.mtvec &&& ~~~(3 : W64) }

/-- rd is written and the instruction ends. -/
def HostCore.finish (c : HostCore) (rd : Nat) (v : W64) : HostCore := { c.setX rd v with pc := c.pc + 4 }

/-- A transaction opens (R338): the registers are saved and rd reads 0. -/
def HostCore.openTx (c : HostCore) (rd : Nat) (handler : W64) : HostCore :=
  { c.finish rd 0 with
    txOpen := true, savedX := c.x, savedF := c.f, handler := handler, txRd := rd, reads := [], writes := [], buf := [] }

/-! ## Stores that are not yet visible (R312) -/

/-- The k-th queued store of a host core is performed at its home, after its older stores of the same bytes. -/
def State.drainHost (s : State) (h k : Nat) : State :=
  let c := s.host h
  match c.stq[k]? with
  | some q =>
    let older := (c.stq.take k).any fun o => decide (o.pa < q.pa + q.bytes.length ∧ q.pa < o.pa + o.bytes.length)
    if older || s.accessWaits (.host h) q.pa q.bytes.length true || s.sliceFull q.pa then s
    else (s.setHost h { c with stq := c.stq.eraseIdx k }).writeAt (.host h) q.pa q.bytes 0 false
  | none => s

/-- Every queued store of a host core, oldest first. -/
def State.drainHostAll (s : State) (h : Nat) : State := (s.host h).stq.foldl (fun s _ => s.drainHost h 0) s

/-- What comes after every earlier store of a host core: it waits while one cannot be performed. -/
def State.afterStores (s : State) (h : Nat) (go : State → State) : State :=
  let s1 := s.drainHostAll h
  if (s1.host h).stq.isEmpty then go s1 else s1

/-- XTBEG (R338, R340, R346): a second one aborts, a misaligned handler traps, and it waits while the fallback lock is held. -/
def execXtbeg (rd rs1 : BitVec 5) (s : State) : Host.Outcome State Fault Refusal :=
  hostStep s fun h c =>
    let a := c.getX rs1.toNat
    if c.txOpen then s.setHost h (c.abort 5 0)
    else if a.extractLsb' 0 2 ≠ 0 then s.setHost h (c.trap 0 a)
    else if s.tx.lock.isSome then s
    else s.afterStores h fun s => s.setHost h ((s.host h).openTx rd.toNat a)

/-- A line of a device commit, read or written, meets a host transaction: in its signatures, or in a region that would be transferred. -/
def State.commitMeets (s : State) (h : Nat) (c : HostCore) (gr : Nat) (write : Bool) : Bool :=
  c.hit h (hostLine (gr * 8)) write || (s.needsTransfer true (gr * 8) && c.inRegion (regionOf (gr * 8)))

/-- A commit with an earlier ticket will touch what the transaction has (R331, R341): the ticket is not taken before that commit is complete,
since it aborts the transaction (R339). -/
def State.commitAhead (s : State) (h : Nat) (c : HostCore) : Bool :=
  s.tx.commits.any fun k =>
    match k.who with
    | .host o => o != h && (s.host o).buf.any fun e => c.hit h (hostLine e.1) true
    | .group gid _ ls _ _ =>
      match klookup s.groups gid with
      | some g => ls.any fun l =>
          (g.lane l).tx.rlog.any (fun e => s.commitMeets h c e.gran false) || (g.lane l).tx.wbuf.any fun e => s.commitMeets h c e.gran true
      | none => false

/-- XTEND (R341): 0 outside a transaction; else it takes a ticket, and XTEND_COMMIT ends it. -/
def execXtend (rd : BitVec 5) (s : State) : Host.Outcome State Fault Refusal :=
  hostStep s fun h c =>
    if !c.txOpen then s.setHost h (c.finish rd.toNat 0)
    else if !s.ticketFree none || s.commitAhead h c then s
    else (s.takeTicket (.host h)).setHost h { c with waitRd := some rd.toNat }

/-- The buffered bytes as runs of consecutive addresses, written at their homes under slot 0 (R485). -/
def State.applyHost (s : State) (h : Nat) (buf : KMap Byte) : State :=
  (byteRuns buf).foldl (fun s p => s.writeRun (.host h) 0 p.1 p.2) s

/-- XTEND_COMMIT (R331, R341): in ticket order, the writes are applied and rd reads 1. -/
def execXtendCommit (host : Nat) (s : State) : Host.Outcome State Fault Refusal :=
  match s.tx.commits with
  | c :: rest =>
    if c.who = .host host then
      let k := s.host host
      if k.buf.any fun e => s.sliceFull e.1 then .next s
      else
      let s1 := ({ s with tx := { s.tx with commits := rest } } : State).applyHost host k.buf
      let k1 : HostCore := { k with txOpen := false, reads := [], writes := [], buf := [], waitRd := none }
      .next (s1.setHost host (k1.finish (k.waitRd.getD 0) 1))
    else .next s
  | [] => .next s

/-- XTABORT (R346): no effect outside a transaction. -/
def execXtabort (code : BitVec 8) (s : State) : Host.Outcome State Fault Refusal :=
  hostStep s fun h c => s.setHost h (if c.txOpen then c.abort 9 code else { c with pc := c.pc + 4 })

/-- XTSTAT (R346). -/
def execXtstat (rd : BitVec 5) (s : State) : Host.Outcome State Fault Refusal :=
  hostStep s fun h c => s.setHost h (c.finish rd.toNat (hostStatus c))

/-- The windows that a host core addresses (R312). -/
def hostWindow (pa : Nat) : Bool := decide (windowOf pa ≤ 6)

/-- The pool's read of a record at an address is denied or poisoned (R436). -/
def State.unreadable (s : State) (pa : Nat) : Bool :=
  pa % 128 != 0 || !hostWindow pa || isDevReg pa || decide (2 ^ 52 ≤ pa) || s.look (sectorOf pa) 0 != .ok

/-- A record submitted from an address (R436, R440): read once, its TASKID written back where it is accepted. -/
def State.submitAt (s : State) (who : Submitter) (user : Option Nat) (ag : Agent) (va pa slot : Nat) : State × Nat :=
  let (s1, bs) := s.readRun ag pa slot 128
  let (s2, code, id) := s1.submit who user va bs
  (if code = 0 then s2.writeRun ag slot (pa + 28) (leBytes 4 id) else s2, code)

/-- XSPAWN (R340, R346, R436, R443): after the core's earlier stores, the record is read where the core's own page tables put it; a walk
that faults is a load page fault. -/
def execXspawn (rd rs1 : BitVec 5) (s : State) : Host.Outcome State Fault Refusal :=
  hostStep s fun h c =>
    let a := c.getX rs1.toNat
    if c.txOpen then s.setHost h (c.abort 5 0)
    else s.afterStores h fun s =>
      let c := s.host h
      if a.toNat % 128 ≠ 0 then s.setHost h (c.finish rd.toNat 5)
      else
        match Config.hostPage s.free h a with
        | none => s.setHost h (c.trap 13 a)
        | some pa =>
          if s.unreadable pa.toNat then s.setHost h (c.finish rd.toNat 5)
          else if s.sliceFull pa.toNat || s.runWaits (.host h) pa.toNat 128 true || s.trapsWait then s
          else
            let (s1, code) := s.submitAt (.host h) none (.host h) a.toNat pa.toNat 0
            s1.setHost h ((s1.host h).finish rd.toNat (BitVec.ofNat 64 code))

/-- HOST_TX_ABORT (R328, R338 to R341): conflict, capacity (only above 16 lines), a forbidden RISC-V instruction, a synchronous
exception, or an interrupt. -/
def execHostTxAbort (host cause : Nat) (s : State) : Host.Outcome State Fault Refusal :=
  let c := s.host host
  if c.txOpen && c.waitRd.isNone && ([1, 5, 6, 7].contains cause || (cause == 3 && decide (16 < c.writes.length))) then
    .next (s.setHost host (c.abort cause 0))
  else .next s

/-! ## Accesses of the host side -/

/-- The new value of an AMO of n bytes. -/
def amoNew (op : AmoOp) (n : Nat) (old v : Nat) : Nat :=
  let w := 8 * n
  match op with
  | .swap => v % 2 ^ w
  | .add => (old + v) % 2 ^ w
  | .and => old &&& v % 2 ^ w
  | .or => old ||| v % 2 ^ w
  | .xor => old ^^^ v % 2 ^ w
  | .min => if toSigned w v < toSigned w old then v % 2 ^ w else old
  | .max => if toSigned w old < toSigned w v then v % 2 ^ w else old
  | .minu => min old (v % 2 ^ w)
  | .maxu => max old (v % 2 ^ w)

def hostAgent : HostAgent → Agent
  | .host h => .host h
  | _ => .outside

/-- A size and address that the host side can use (R312): LR, SC, AMO and fences are a host core's. -/
def hostAccessOk (a : HostAccess) : Bool :=
  let core : Bool := match a.agent with | .host _ => true | _ => false
  (match a.agent with | .host h => decide (h < 48) | _ => true) &&
    match a.kind with
    | .fence _ _ _ _ => core
    | k => hostWindow a.pa && decide (a.pa < 2 ^ 52) && a.pa % a.size == 0
      && (match k with | .amo _ | .lr | .sc => [4, 8] | _ => [1, 2, 4, 8]).contains a.size
      && (core || (match k with | .lr | .sc => false | _ => true))

/-- What the access does to memory. -/
def hostWrites (a : HostAccess) : Bool := match a.kind with | .store | .amo _ | .sc => true | _ => false
def hostReads (a : HostAccess) : Bool := match a.kind with | .load | .amo _ | .lr => true | _ => false

/-- A value that the host core of an access receives. -/
def State.hostTake (s : State) (a : HostAccess) (v : W64) : State :=
  match a.agent with
  | .host h => s.setHost h ((s.host h).setX a.rd.toNat v)
  | _ => s

/-- A failed MAC is reported; a host core takes a load access fault (R488), which aborts its open transaction with FAULT (R328). -/
def State.hostMacFault (s : State) (a : HostAccess) : State :=
  let s := s.fillSector (sectorOf a.pa) 0 0
  match a.agent with
  | .host h => let c := s.host h; s.setHost h (if c.txOpen then c.abort 6 0 else c.trap 5 (BitVec.ofNat 64 a.pa))
  | _ => s

/-- The value of bytes read; poisoned data holds no stated value. -/
def State.hostValue (s : State) (pa : Nat) (bs : List Byte) : W64 :=
  if s.look (sectorOf pa) 0 = .poison then Config.freeWord s.free pa else BitVec.ofNat 64 (leNat bs)

/-- A store of the host side: a host core's waits in its queue, which keeps no order but that of one location (R312). -/
def State.hostPut (s : State) (a : HostAccess) : State :=
  let data := leBytes a.size a.value.toNat
  match a.agent with
  | .host h => s.setHost h { s.host h with stq := (s.host h).stq ++ [{ pa := a.pa, bytes := data }] }
  | _ => s.writeAt (hostAgent a.agent) a.pa data 0 false

/-- The reservation of a host core. -/
def State.hostReserve (s : State) (a : HostAccess) (r : Option (Nat × Nat)) : State :=
  match a.agent with | .host h => s.setHost h { s.host h with resv := r } | _ => s
def State.hostReserved (s : State) (a : HostAccess) : Bool :=
  match a.agent with | .host h => (s.host h).resv == some (a.pa, a.size) | _ => false

/-- An access outside a transaction: at its home, indivisibly, but for a store that waits. An SC succeeds where the core still holds its
reservation of the bytes. -/
def State.hostPlain (s : State) (a : HostAccess) : State :=
  let who := hostAgent a.agent
  let data := leBytes a.size a.value.toNat
  if isDevReg a.pa then
    match a.kind with
    | .load | .lr => s.hostTake a (BitVec.ofNat 64 (leNat (s.devRead a.pa a.size)))
    | .store => s.devWrite a.pa data
    | .amo op =>
      let old := leNat (s.devRead a.pa a.size)
      (s.devWrite a.pa (leBytes a.size (amoNew op a.size old a.value.toNat))).hostTake a (BitVec.ofNat 64 old)
    | _ => s
  else
    match a.kind with
    | .load =>
      let (s1, bs) := s.readAt who a.pa a.size 0
      s1.hostTake a (s1.hostValue a.pa bs)
    | .store => s.hostPut a
    | .amo op =>
      let (s1, bs) := (s.otherAtomic a.pa).readAt who a.pa a.size 0
      (s1.writeAt who a.pa (leBytes a.size (amoNew op a.size (leNat bs) a.value.toNat)) 0 false).hostTake a (s1.hostValue a.pa bs)
    | .lr =>
      let (s1, bs) := (s.otherAtomic a.pa).readAt who a.pa a.size 0
      (s1.hostReserve a (some (a.pa, a.size))).hostTake a (s1.hostValue a.pa bs)
    | .sc =>
      if s.hostReserved a then (((s.otherAtomic a.pa).writeAt who a.pa data 0 false).hostReserve a none).hostTake a 0
      else (s.hostReserve a none).hostTake a 1
    | .fence _ _ _ _ => s

/-- Whether the access comes after every earlier store of its core (R312): a release, a fence from writes, a device register, and any
access that could meet a waiting store's bytes. -/
def State.hostDrains (s : State) (a : HostAccess) (h : Nat) : Bool :=
  a.rl || (match a.kind with | .fence _ pw sr sw => pw && (sr || sw) | _ => isDevReg a.pa
    || (match a.kind with | .store => false | _ => (s.host h).stq.any fun q => decide (q.pa < a.pa + a.size ∧ a.pa < q.pa + q.bytes.length)))

/-- A line is added to a signature. -/
def addLine (xs : List Nat) (x : Nat) : List Nat := if xs.contains x then xs else xs ++ [x]

/-- An access inside the core's open transaction (R338 to R340). -/
def State.hostInTx (s : State) (a : HostAccess) (h : Nat) : State :=
  let c := s.host h
  let line := hostLine a.pa
  match a.kind with
  | .load =>
    let (s1, bs) := s.readAt (.host h) a.pa a.size 0
    let bs := bs.mapIdx fun i b => (klookup c.buf (a.pa + i)).getD b
    s1.setHost h ({ c with reads := addLine c.reads line }.setX a.rd.toNat (s1.hostValue a.pa bs))
  | .store =>
    let s1 := s.arrive (.host h) a.pa a.size 0 true
    let cells := (leBytes a.size a.value.toNat).mapIdx fun i b => (a.pa + i, b)
    s1.setHost h { c with writes := addLine c.writes line, buf := cells.foldl (fun m e => kput m e.1 e.2) c.buf }
  | _ => s.setHost h (c.abort 5 0)

/-- The bytes that an access reads fail their MAC (R488). -/
def State.hostMac (s : State) (a : HostAccess) : Bool :=
  hostReads a && !isDevReg a.pa && s.hasStorage a.pa && s.look (sectorOf a.pa) 0 == .mac

/-- What an access asks of its home is held back: by an exclusion, or a full queue (R273, R336, R341). -/
def State.hostHeld (s : State) (who : Agent) (a : HostAccess) : Bool :=
  !isDevReg a.pa && (s.accessWaits who a.pa a.size (hostWrites a) || s.sliceFull a.pa)

/-- An access of a host core in its open transaction: a fence changes nothing, a forbidden one aborts (R340), an excluded one aborts with
LOCKED (R336). -/
def State.hostTx (s : State) (a : HostAccess) (h : Nat) : State :=
  let c := s.host h
  match a.kind with
  | .fence _ _ _ _ => s
  | .load | .store =>
    if isDevReg a.pa then s.setHost h (c.abort 5 0)
    else if s.lockExcludes (.host h) a.pa (hostWrites a) then s.setHost h (c.abort 8 0)
    else if s.hostHeld (.host h) a then s
    else if s.hostMac a then s.hostMacFault a
    else s.hostInTx a h
  | _ => s.setHost h (c.abort 5 0)

/-- An access of a host core outside a transaction. A store waits in the core's queue, so nothing holds it back yet. -/
def State.hostOut (s : State) (a : HostAccess) (h : Nat) : State :=
  match a.kind with
  | .fence _ _ _ _ | .store => s.hostPlain a
  | _ => if s.hostHeld (.host h) a then s else if s.hostMac a then s.hostMacFault a else s.hostPlain a

/-- HOST_ACCESS (R312, R336, R338 to R341). -/
def execHostAccess (a : HostAccess) (s : State) : Host.Outcome State Fault Refusal :=
  if !hostAccessOk a then .next s
  else
    match a.agent with
    | .host h =>
      if (s.host h).waitRd.isSome then .next s
      else if (s.host h).txOpen then .next (s.hostTx a h)
      else if s.hostDrains a h then .next (s.afterStores h fun s => s.hostOut a h)
      else .next (s.hostOut a h)
    | _ =>
      if s.hostHeld .outside a then .next s
      else if s.hostMac a then .next (s.hostMacFault a)
      else .next (s.hostPlain a)

end Sys2Proof.Machine
end

