-- ==== Sys2Proof/Machine/Tun.lean ====
section
/-!
DEFINITION. The tun (11_tun.md R348 to R361): partitions, operand tiles, exact block products (05_numbers.md R172 to R175), filing
and the firkin.
-/

namespace Sys2Proof.Machine

/-! ## Partitions -/

/-- A partition of a team; the partitions of one core are numbered apart from those of the other: `n` is 64 × HALF + PART (R350, R368; log 65). -/
def State.part (s : State) (team n : Nat) : Option Partition := (klookup s.teams team).bind fun t => klookup t.parts n
def State.modPart (s : State) (team n : Nat) (f : Partition → Partition) : State :=
  s.modTeam team fun t => { t with parts := kmap t.parts n f }

/-- The handle of a partition (R350). -/
def handleOf (n : Nat) (p : Partition) : W64 := BitVec.ofNat 64 (p.gen * 2 ^ 16 + p.half * 2 ^ 8 + n % 64)

/-- The open partition that a handle names (R351). -/
def State.handle (s : State) (team : Nat) (v : W64) : Option (Nat × Partition) :=
  let n := (v.extractLsb' 0 6).toNat + 64 * (v.extractLsb' 8 1).toNat
  match s.part team n with
  | some p => if p.closed || handleOf n p != v then none else some (n, p)
  | none => none

/-- Size of a firkin record (R355). -/
def Partition.recSize (p : Partition) : Nat := if p.elem then 16 else if p.dmr then 8256 else 4160
/-- Bytes of a record's payload, and where it starts (R355). -/
def Partition.payload (p : Partition) : Nat × Nat := if p.elem then (8, 4) else (64, p.recSize - 64)
/-- The firkin (R362). -/
def State.firkin (s : State) (iss : Issuer) (p : Partition) : List Range := s.rangeOf iss p.fbase (p.fcap * p.recSize)

/-! ## Filing -/

def fold16 (x : BitVec 32) : BitVec 16 := x.extractLsb' 0 16 ^^^ x.extractLsb' 16 16
/-- The home of a key (R352). -/
def keyHome (k : W64) : Nat := (fold16 (k.extractLsb' 32 32) ^^^ (fold16 (k.extractLsb' 0 32)).rotateLeft 5).toNat

/-- P of R349: 0 selects 4. -/
def Partition.probes (p : Partition) : Nat := if p.probe = 0 then 4 else p.probe

/-- Places in the order of R353, each with its probe number. -/
def Partition.places (p : Partition) (k : W64) : List (Nat × Nat) :=
  let h := keyHome k
  if p.elem then
    (List.range p.probes).flatMap fun i => (List.range 16).map fun j => ((h + i) % (16 * p.slots) * 16 + j, i)
  else (List.range p.probes).map fun i => ((h + i) % (if p.dmr then p.slots / 2 else p.slots), i)

def Partition.at (p : Partition) (place : Nat) : Option TunEntry := p.entries.find? fun e => e.place == place

/-- The place of a product: that which holds its key, or the first free one; none for a spill (R353). -/
def Partition.seek (p : Partition) (k : W64) : Option (Nat × Nat) :=
  (p.places k).find? fun e => match p.at e.1 with | some x => x.key == k | none => true

/-- The key's resident entry is poisoned (R473, R474). -/
def Partition.entryBad (p : Partition) (k : W64) : Bool := p.entries.any fun x => x.key == k && x.bad

/-- Counts stop at 2^32 − 1 (R377). -/
def satInc (n : Nat) : Nat := min (n + 1) (2 ^ 32 - 1)

/-- A product filed at a place (R353): `f` gives each word from the accumulated one. A new entry starts from zero. -/
def Partition.file (p : Partition) (k : W64) (at' : Nat × Nat) (f : Option W32 → Nat → W32) : Partition :=
  let add (ws : List W32) : List W32 := ws.mapIdx fun i w => f (some w) i
  let zero : List W32 := List.replicate (if p.elem then 1 else 1024) 0
  let old : TunEntry := (p.at at'.1).getD { place := at'.1, key := k, acc := zero, dup := if p.dmr then zero else [] }
  let new : TunEntry := { old with acc := add old.acc, dup := add old.dup }
  { p with entries := new :: p.entries.filter (fun e => e.place != at'.1), hist := p.hist.modify at'.2 satInc }

/-- The bytes of a spill record (R355). -/
def Partition.record (p : Partition) (k : W64) (f : Option W32 → Nat → W32) : List Byte :=
  if p.elem then leBytes 8 k.toNat ++ leBytes 4 (f none 0).toNat ++ leBytes 4 1
  else
    let pay := (List.range 1024).flatMap fun i => leBytes 4 (f none i).toNat
    leBytes 8 k.toNat ++ leBytes 4 (if p.dmr then 3 else 1) ++ List.replicate 52 0 ++ pay ++ (if p.dmr then pay else [])

/-- The outcome of a join's step: done, a status, parked, or waiting. -/
inductive JStep where
  | done
  | bad (status : Nat)
  | park
  | wait
  deriving DecidableEq, Repr

/-- A permission, format or poison error (R358). -/
def breaks (status : Nat) : Bool := status == stAccess || status == stFormat || status == stPoison
def State.breakPart (s : State) (team n status : Nat) : State :=
  if breaks status then s.modPart team n fun p => { p with broken := true } else s

/-- The end of a record's write: the record counts once it is written (R356); a failure breaks the partition (R358). -/
def State.spillDone (s : State) (e : Eng) (n : Nat) (k : W64) (status : Nat) : State × JStep :=
  if status = 0 then
    ((s.modPart e.iss.team n fun p => { p with recs := p.recs ++ [k], spills := satInc p.spills }).countCore e.iss.core 0x0D e.iss.asid,
     .done)
  else (s.breakPart e.iss.team n status, .bad status)

/-- A record under way to another package: its product is filed once the answer is here. -/
def State.spillGoes (s : State) (e : Eng) (n : Nat) (k : W64) : State × JStep :=
  match s.writeEnd e.op with
  | some (s1, st) => s1.spillDone e n k st
  | none => (s, .wait)

/-- A product filed, or appended to the firkin (R353, R355, R358); a poisoned entry takes none (R474). -/
def State.fileProduct (s : State) (e : Eng) (n : Nat) (p : Partition) (k : W64) (f : Option W32 → Nat → W32) : State × JStep :=
  if s.writeStarted e.op then s.spillGoes e n k
  else if p.entryBad k then (s, .bad stPoison)
  else match p.seek k with
  | some pl => (s.modPart e.iss.team n fun p => p.file k pl f, .done)
  | none =>
    match s.engWrite e (p.fbase + BitVec.ofNat 64 (p.recs.length * p.recSize)) (p.record k f) with
    | (s1, .ok _ _) => if s1.writesOut e.op then (s1, .wait) else s1.spillDone e n k 0
    | (s1, .bad st) => s1.spillDone e n k st
    | (s1, .park) => (s1, .park)
    | (s1, .wait) => (s1, .wait)

/-! ## Sums -/

/-- A sum of exact terms with an accumulator, rounded once (R172, R174). `ops` are the operands whose NaN it may carry under NANP (R156): the
first of them in this order, the elements of A, then those of B, then the accumulator, where R156 orders only single operands (DESIGN
CHOICE, log 69). -/
def accum (int : Bool) (env : FEnv) (ops terms : List FVal) (acc : Option W32) : W32 :=
  if int then
    match fsumExact .rne terms with
    | .fin neg m _ => BitVec.ofInt 32 ((if neg then -(m : Int) else m) + ((acc.getD 0).toNat : Int))
    | _ => acc.getD 0
  else
    let xs := match acc with | some a => [fin fmtF32 env.ftz a.toNat] | none => []
    BitVec.ofNat 32 (fresult fmtF32 env (ops ++ xs) (fsumExact env.rm (terms ++ xs)))

/-- The value of an accumulator word as a term. -/
def accTerm (int : Bool) (env : FEnv) (w : W32) : FVal := if int then fofInt w.toInt else fin fmtF32 env.ftz w.toNat

/-- A record or a tuple of one word per element added to an accumulator (R173, R175). Under NANP = 1 a NaN of the record or tuple goes before one of
the accumulator, of which R156 does not speak: DESIGN CHOICE (log 69). -/
def addWords (int : Bool) (env : FEnv) (ws : List W32) (acc : Option W32) (i : Nat) : W32 :=
  let v := accTerm int env (ws.getD i 0)
  accum int env [v] [v] acc

/-! ## Operand tiles -/

/-- Element size of a format (R359); 0 for one that no block product takes. -/
def tileElem (fmt : Nat) : Nat :=
  match fmt with
  | 1 => 1 | 2 => 1 | 9 => 2 | 10 => 2 | 13 => 1 | 14 => 1 | _ => 0

/-- The operand classes of R359 with the geometries of R360. -/
def classOk (int : Bool) (a b : Nat × Nat) : Bool :=
  let plain (x : Nat × Nat) : Bool := x.2 == 0 || x.2 == 1 || x.2 == 2 || x.2 == 7
  let f8 (k : Nat) : Bool := k == 13 || k == 14
  let i8 (k : Nat) : Bool := k == 1 || k == 2
  if a.1 = 15 ∧ b.1 = 15 then !int && a.2 == 5 && b.2 == 5
  else plain a && plain b && (if int then i8 a.1 && i8 b.1 else (f8 a.1 && f8 b.1) || ((a.1 == 9 || a.1 == 10) && a.1 == b.1))

/-- Size of the slot of a bitmap-packed tile (R263). -/
def packSlot (es : Nat) : Nat := if es = 1 then 2048 else 4096

/-- The alignment that a geometry asks of a tile address (R360). -/
def tileAlign (fmt geo : Nat) : Nat :=
  match geo with
  | 0 => max (tileElem fmt) 1 | 5 => 512 | 7 => packSlot (tileElem fmt) | _ => 1024 * max (tileElem fmt) 1

/-- An operand: its tile address, stride field, scale and code bases, and the descriptor's format and geometry. -/
structure Tile where
  a    : W64
  str  : Nat
  cb   : W64
  sb   : W64
  fmt  : Nat
  geo  : Nat
  deriving DecidableEq, Repr

/-- Rows of a linear tile (R360). -/
def tileStride (es str : Nat) : Nat := if str = 0 then 32 * es else 16 * str
/-- The scale entry of a peck tile (R263). -/
def scaleAddr (t : Tile) : W64 := t.sb + BitVec.ofNat 64 (32 * ((t.a - t.cb).toNat / 512))

/-- Format and geometry of an operand (R359): the page's for a global one, the descriptor's for one in scratchpad. -/
def State.tileForm (s : State) (e : Eng) (t : Tile) : State × EngRes :=
  match (s.spaceOf e.iss.core t.a).1 with
  | .glob =>
    if s.peekWaits e.mmu e.iss.asid t.a.toNat .read then (s, .wait)
    else match s.peek e.mmu e.iss.asid t.a.toNat e.iss.sup .read with
    | .deny => (s.engNote e t.a 1 false [], .bad stAccess)
    | .key => (s.engNote e t.a 1 true [], .bad stAccess)
    | .miss l b n => (s.engPark e .read t.a 1 l b n, .park)
    | .ok _ p => (s, .ok [] [(pteFmt p, pteGeo p)])
  | .scr => (s, .ok [] [(t.fmt, t.geo)])
  | .pair => (s, .ok [] [(t.fmt, t.geo)])
  | _ => (s, .bad stAccess)

/-- The presence bits of a bitmap-packed tile (R263). -/
def maskBits (bs : List Byte) : List Bool := (bs.take 128).flatMap fun b => (List.range 8).map b.getLsbD

/-- The bytes of a tile (R360, R361). -/
def State.readTile (s : State) (e : Eng) (fmt geo : Nat) (t : Tile) : State × EngRes :=
  let es := tileElem fmt
  match geo with
  | 0 => s.engReads e ((List.range 32).map fun x => (t.a + BitVec.ofNat 64 (x * tileStride es t.str), 32 * es))
  | 5 => s.engReads e [(t.a, 512), (scaleAddr t, 32)]
  | 7 =>
    match s.engRead e t.a 128 with
    | (s1, .ok m f) =>
      let n := ((maskBits m).filter id).length
      if n = 0 then (s1, .ok m f)
      else
        match s1.engRead e (t.a + 128) (n * es) with
        | (s2, .ok d _) => (s2, .ok (m ++ d) f)
        | x => x
    | x => x
  | _ => s.engRead e t.a (1024 * es)

/-- The value of an element's pattern (R172): f16 and bf16 sources are flushed under FTZ (R165). -/
def tileVal (env : FEnv) (fmt : Nat) (x : Nat) : FVal :=
  match fmt with
  | 1 => fofInt (toSigned 8 x)
  | 2 => fofInt (x : Int)
  | 9 => fin fmtF16 env.ftz x
  | 10 => fin fmtBf16 env.ftz x
  | 13 => fdecode fmtE4m3 x
  | _ => fdecode fmtE5m2 x

/-- The present elements dealt to their places (R263). -/
def dealPresent (es : Nat) : List Bool → List Byte → List (Option Nat)
  | [], _ => []
  | true :: r, bs => some (leNat (bs.take es)) :: dealPresent es r (bs.drop es)
  | false :: r, bs => none :: dealPresent es r bs

/-- The elements of a tile in row-major order; none for one that is absent (R162, R173, R262, R263). -/
def tileElems (env : FEnv) (fmt geo : Nat) (bs : List Byte) : List (Option FVal) :=
  let es := tileElem fmt
  let nth (i : Nat) : Option FVal := some (tileVal env fmt (leNat ((bs.drop (i * es)).take es)))
  match geo with
  | 2 => (List.range 1024).map fun i => nth (i % 32 * 32 + i / 32)
  | 5 => (List.range 1024).map fun i =>
      some (peckValue (bs.getD (512 + i / 32) 0).toNat ((bs.getD (i / 2) 0).toNat / 16 ^ (i % 2) % 16))
  | 7 => (dealPresent es (maskBits bs) (bs.drop 128)).map fun x => x.map (tileVal env fmt)
  | _ => (List.range 1024).map nth

/-- The word of element i of a block product (R172, R173). Without a pair of present elements nothing is added, so that an accumulator of -0 stays
-0: the manual gives the sign of no empty sum, DESIGN CHOICE (log 78). -/
def blockWord (int : Bool) (env : FEnv) (as bs : List (Option FVal)) (acc : Option W32) (i : Nat) : W32 :=
  let ps : List (FVal × FVal) := (List.range 32).filterMap fun k =>
    match as.getD (i / 32 * 32 + k) none, bs.getD (k * 32 + i % 32) none with
    | some a, some b => some (a, b)
    | _, _ => none
  accum int env (ps.map Prod.fst ++ ps.map Prod.snd) (ps.map fun p => fmulExact p.1 p.2) acc

/-- A block product read and filed (R359 to R361, R370). -/
def State.product (s : State) (e : Eng) (n : Nat) (k : W64) (ta tb : Tile) : State × JStep :=
  match s.part e.iss.team n with
  | none => (s, .bad stAccess)
  | some p =>
    if s.writeStarted e.op then s.spillGoes e n k
    else match s.tileForm e ta with
    | (s1, .ok _ [fa]) =>
      match s1.tileForm e tb with
      | (s2, .ok _ [fb]) =>
        if !classOk p.int fa fb then (s2, .bad stFormat)
        else if ta.a.toNat % tileAlign fa.1 fa.2 ≠ 0 ∨ tb.a.toNat % tileAlign fb.1 fb.2 ≠ 0 then (s2, .bad stAlign)
        else
          match s2.readTile e fa.1 fa.2 ta with
          | (s3, .ok da _) =>
            match s3.readTile e fb.1 fb.2 tb with
            | (s4, .ok db _) =>
              let env := fenv e.iss.fmode
              let as := tileElems env fa.1 fa.2 da
              let bs := tileElems env fb.1 fb.2 db
              match s4.fileProduct e n p k (blockWord p.int env as bs) with
              | (s5, .done) => (s5.countCore e.iss.core 0x0C e.iss.asid, .done)
              | x => x
            | (s4, .bad st) => (s4, .bad st)
            | (s4, .park) => (s4, .park)
            | (s4, .wait) => (s4, .wait)
          | (s3, .bad st) => (s3, .bad st)
          | (s3, .park) => (s3, .park)
          | (s3, .wait) => (s3, .wait)
      | (s2, .bad st) => (s2, .bad st)
      | (s2, .park) => (s2, .park)
      | (s2, _) => (s2, .wait)
    | (s1, .bad st) => (s1, .bad st)
    | (s1, .park) => (s1, .park)
    | (s1, _) => (s1, .wait)

/-- The A and B operands of a partition's product (R349). -/
def Partition.tileA (p : Partition) (a : W64) (str : Nat) : Tile :=
  { a := a, str := str, cb := p.acb, sb := p.ascb, fmt := p.afmt, geo := p.ageo }
def Partition.tileB (p : Partition) (b : W64) (str : Nat) : Tile :=
  { a := b, str := str, cb := p.bcb, sb := p.bscb, fmt := p.bfmt, geo := p.bgeo }

/-! ## Drained values -/

/-- The payload words of record i, both copies under DMR (R355). -/
def State.readRecord (s : State) (e : Eng) (p : Partition) (i : Nat) : State × EngRes :=
  s.engRead e (p.fbase + BitVec.ofNat 64 (i * p.recSize + p.payload.1)) p.payload.2

/-- Words of a byte list. -/
def wordsOf (n : Nat) (bs : List Byte) : List W32 := (List.range n).map fun i => BitVec.ofNat 32 (leNat ((bs.drop (4 * i)).take 4))

/-- Records added one after the other (R175, R376): a value that is none starts from the first of them. -/
def State.addRecords (s : State) (e : Eng) (p : Partition) : List Nat → Option (List W32) → State × Option (List W32) × JStep
  | [], v => (s, v, .done)
  | i :: r, v =>
    match s.readRecord e p i with
    | (s1, .ok bs _) =>
      let ws := wordsOf (p.payload.2 / 4) bs
      let v1 := match v with
        | some old => old.mapIdx fun j w => addWords p.int (fenv e.iss.fmode) ws (some w) j
        | none => ws
      s1.addRecords e p r (some v1)
    | (s1, .bad st) => (s1, v, .bad st)
    | (s1, .park) => (s1, v, .park)
    | (s1, .wait) => (s1, v, .wait)

/-- The value of a key that a drain emits, both copies under DMR: resident, then its records in append order; none where the key is
absent (R175, R374, R376). -/
def State.keyValue (s : State) (e : Eng) (p : Partition) (k : W64) : State × Option (List W32) × JStep :=
  let held := (p.entries.find? fun x => x.key == k).map fun x => x.acc ++ x.dup
  s.addRecords e p ((p.recs.zipIdx.filter fun x => x.1 == k).map Prod.snd) held

end Sys2Proof.Machine
end

