-- ==== Sys2Proof/Machine/Join.lean ====
section
/-!
DEFINITION. The join instructions (11_tun.md R362 to R378): the queue, the operations as they are performed, tokens.
-/

namespace Sys2Proof.Machine

/-! ## The queue -/

/-- The core whose join unit performs an operation (R351, R363): that of its partition, or the issuer's for a new one. -/
def State.joinCore (s : State) (j : JoinOp) : Nat :=
  match klookup s.teams j.iss.team with
  | some t =>
    if t.paired then
      match j.kind, klookup t.parts j.part with
      | .jopen false _ _, _ => j.iss.core
      | _, some p => 2 * pairOf t.core + p.half
      | _, none => j.iss.core
    else t.core
  | none => j.iss.core

/-- Entries of a core's queue (R363). -/
def State.joinsOn (s : State) (core : Nat) : Nat :=
  (s.ops.filter fun e => match e.2 with | .join j => s.joinCore j == core | _ => false).length

/-- An operation enters the queue of its partition's core with its footprints, in the hazard table of the issuing core (log 75), and its
reservation (R356, R362, R363): none while the queue or the hazard table is full. -/
def State.queueJoin (s : State) (c : Ctx) (j : JoinOp) (reads writes : List Range) : Option State :=
  if s.joinsOn (s.joinCore j) ≥ 32 then none
  else if reads.isEmpty && writes.isEmpty then
    some ((s.modPart c.g.team j.part fun p => { p with fres := p.fres + j.resv }).postToken c.gid (.join j) c.h.d)
  else if s.hazardFull c.g.core then none
  else
    some (((s.addHazard s.nextOp c.g.core reads writes).modPart c.g.team j.part fun p =>
      { p with fres := p.fres + j.resv }).postToken c.gid (.join j) c.h.d)

def joinEffect : Option State → Effect
  | some s => .done s
  | none => .retry

/-- The partition that A names (R367): ACCESS with the handle where it fails R351. Without a participating lane nothing happens, which for jacc and
jget is the model's choice (log 75). -/
def onPart (c : Ctx) (s : State) (a : Operand) (go : Nat → Partition → Effect) : Effect :=
  let v := c.g.getS (scalNum a)
  if c.ps.isEmpty then .done s
  else
    match s.handle c.g.team v with
    | some (n, p) => go n p
    | none => .trap cAccess (c.ps.map fun l => (l, v))

/-- A scratchpad address named at issue (R367): the causes of R241; the lanes' own earlier stores there come first. -/
def onScratch (c : Ctx) (s : State) (va : W64) (align n : Nat) (go : State → Nat → Team → Effect) : Effect :=
  match s.objAddr c.g va align n with
  | (_, some cause) => .trap cause (c.ps.map fun l => (l, va))
  | (off, none) =>
    match s.settleScr c.gid c.ps off n with
    | some s1 =>
      match klookup s1.teams c.g.team with
      | some t => go s1 off t
      | none => .trap cAccess (c.ps.map fun l => (l, va))
    | none => .retry

/-- Grain, type and firkin checks (R356, R367). -/
def onGrain (c : Ctx) (p : Partition) (n : Nat) (ok : Bool) (need : Nat) (go : Effect) : Effect :=
  let lanes := c.ps.map fun l => (l, handleOf n p)
  if !ok then .trap cFormat lanes
  else if need ≠ 0 ∧ p.fcap < p.fused + p.fres + need then .trap cSpill lanes
  else go

def joinShape (minor : Nat) (h : Head) : Shape :=
  { major := 0xA0, minor := minor, tyOk := h.ty == .b32, modsOk := h.mods == 0, d := fScal, a := fScal, access := true, region := true }

/-! ## Issue -/

def jopenShape (h : Head) : Shape :=
  { joinShape 0 h with modsOk := decide (h.mods.toNat < 2), b := if h.mods.getLsbD 0 then fScal else .zero }
/-- JOPEN (R349, R350, R368). -/
def execJopen (h : Head) (s : State) : Host.Outcome State Fault Refusal :=
  issue (fun _ => jopenShape h) h
    (outsideTx fun c s =>
      let grow := h.mods.getLsbD 0
      let va := c.g.getS (scalNum h.a)
      let go (part : Nat) : Effect := onScratch c s va 64 64 fun s off t =>
        if t.scrPoison off 64 then .poison (c.ps.map fun l => (l, va))
        else joinEffect (s.queueJoin c { iss := c.issuer s (scalNum h.d), kind := .jopen grow off (c.g.getS (scalNum h.b)),
                                         part := part, resv := 0 } [] [])
      if grow then onPart c s h.b fun n _ => go n
      else if c.ps.isEmpty then .done s else go 128) s

def jcloseShape (h : Head) : Shape := { joinShape 1 h with d := .zero }
/-- JCLOSE (R369): the handle is closed at issue. -/
def execJclose (h : Head) (s : State) : Host.Outcome State Fault Refusal :=
  issue (fun _ => jcloseShape h) h
    (outsideTx fun c s => onPart c s h.a fun n _ =>
      joinEffect ((s.queueJoin c { iss := c.issuer s 0, kind := .jclose, part := n, resv := 0 } [] []).map fun s =>
        s.modPart c.g.team n fun p => { p with closed := true })) s

/-- The declared span of an operand (R362). -/
def State.tileSpan (s : State) (iss : Issuer) (t : Tile) : List Range :=
  let es := max (tileElem t.fmt) 1
  let exact := match t.geo with
    | 0 => 31 * tileStride es t.str + 32 * es | 5 => 512 | 7 => packSlot es | _ => 1024 * es
  (match (s.spaceOf iss.core t.a).1 with
   | .glob => s.rangeOf iss t.a (max 4096 (31 * (if t.str = 0 then 64 else 16 * t.str) + 64))
   | _ => s.rangeOf iss t.a exact)
    ++ (if t.cb = 0 then [] else s.rangeOf iss (scaleAddr t) 32)

/-- Stride fields and the amount t of a jmul (R370). -/
def mulStrideA (v3 : W64) : Nat := (v3.extractLsb' 0 12).toNat
def mulStrideB (v3 : W64) : Nat := (v3.extractLsb' 12 12).toNat
def mulAmount (v3 : W64) : BitVec 40 := v3.extractLsb' 24 40

def jmulShape (h : Head) : Shape :=
  { joinShape 2 h with modsOk := decide (h.mods.toNat < 2), b := fOptScal h.b, params := .must }
/-- JMUL (R370). -/
def execJmul (h : Head) (s : State) : Host.Outcome State Fault Refusal :=
  issue (fun _ => jmulShape h) h
    (outsideTx fun c s => onPart c s h.a fun n p =>
      let (v0, v1, v2, v3) := paramValues c.g h
      let iss := c.issuer s (scalNum h.d)
      let reads := s.tileSpan iss (p.tileA v1 (mulStrideA v3)) ++ s.tileSpan iss (p.tileB v2 (mulStrideB v3))
      let go (s : State) (obj : Option Nat) : Effect := onGrain c p n (!p.elem) 1
        (joinEffect (s.queueJoin c { iss := iss, kind := .jmul v0 v1 v2 v3 obj (h.mods.getLsbD 0), part := n, resv := 1 } reads
          (s.firkin iss p)))
      if isZero h.b then go s none
      else onScratch c s (c.g.getS (scalNum h.b)) 16 16 fun s off _ => go (s.modTeam c.g.team fun t => t.markObj off) (some off)) s

/-- Fields of a dense descriptor (R371). -/
def denseKn (d : Nat) : Nat := bitsOf d 255 240
def denseNj (d : Nat) : Nat := bitsOf d 239 224
/-- The address of a dense tile (R371), exact (R8): one at or above 2^64 lies in no window. -/
def denseTile (d k col : Nat) : Nat := bitsOf d 63 0 + k * bitsOf d 127 64 + col * bitsOf d 191 128
/-- The key of a dense product: J0 + c is exact (R8), and K has 64 bits (R352; log 65). -/
def denseKey (d i col : Nat) : W64 := BitVec.ofNat 64 (i * 2 ^ 32 + (bitsOf d 223 192 + col))

/-- Counts of a jstrm (R371). -/
def strmA (v2 : W64) : Nat := (v2.extractLsb' 0 32).toNat
def strmB (dense : Bool) (v2 : W64) (d : Nat) : Nat := if dense then denseNj d else (v2.extractLsb' 32 32).toNat
def strmStart (v3 : W64) : Nat := (v3.extractLsb' 0 24).toNat
def strmOver (v2 : W64) (cols : Nat) : Bool := decide (2 ^ 24 - 1 < strmA v2 ∨ 2 ^ 24 - 1 < cols)

/-- The span of the dense tiles (R362): from BASE to the end of the last. -/
def State.denseSpan (s : State) (iss : Issuer) (d : Nat) : List Range :=
  if denseKn d = 0 ∨ denseNj d = 0 then []
  else s.rangeOf iss (BitVec.ofNat 64 (bitsOf d 63 0)) (denseTile d (denseKn d - 1) (denseNj d - 1) + 4096 - bitsOf d 63 0)

def jstrmShape (h : Head) : Shape := { joinShape 3 h with modsOk := decide (h.mods.toNat < 2), params := .must }
/-- JSTRM (R371). -/
def execJstrm (h : Head) (s : State) : Host.Outcome State Fault Refusal :=
  issue (fun _ => jstrmShape h) h
    (outsideTx fun c s => onPart c s h.a fun n p =>
      let (v0, v1, v2, v3) := paramValues c.g h
      let dense := h.mods.getLsbD 0
      let iss := c.issuer s (scalNum h.d)
      let go (s : State) (d : Nat) : Effect :=
        let cols := strmB dense v2 d
        let resv := if strmOver v2 cols then 0 else strmA v2 * cols
        onGrain c p n (!p.elem) resv
          (joinEffect (s.queueJoin c
            { iss := iss, kind := .jstrm dense v0 v1 v2 v3 d, part := n, resv := resv, stream := { ia := strmStart v3 } }
            (s.rangeOf iss v0 (16 * strmA v2) ++ (if dense then s.denseSpan iss d else s.rangeOf iss v1 (16 * cols)))
            (if resv = 0 then [] else s.firkin iss p)))
      if dense then onScratch c s v1 32 32 fun s off t =>
        if t.scrPoison off 32 then .poison (c.ps.map fun l => (l, v1)) else go s (leNat (t.scrBytes off 32))
      else go s 0) s

def tyAcc (ty : Ty) : Bool := ty == .f32 || ty == .i32
def fKeyRow (span : Nat) : Fld := .op { row := true, span := span, align := 2, spanPc := true }
/-- The key in a lane's row pair (R373). -/
def laneKey (c : Ctx) (f : Operand) (l : Nat) : W64 := (c.g.lane l).pair (rowOf c.g f l)

def jaccShape (h : Head) : Shape := { joinShape 4 h with tyOk := tyAcc h.ty, b := fKeyRow 3 }
/-- JACC (R373). -/
def execJacc (h : Head) (s : State) : Host.Outcome State Fault Refusal :=
  issue (fun _ => jaccShape h) h
    (outsideTx fun c s => onPart c s h.a fun n p =>
      let iss := c.issuer s (scalNum h.d)
      let tuples := c.ps.map fun l => (l, laneKey c h.b l, (c.g.lane l).row (rowOf c.g h.b l + 2))
      onGrain c p n (p.elem && (h.ty == .i32) == p.int) c.ps.length
        (joinEffect (s.queueJoin c { iss := iss, kind := .jacc tuples, part := n, resv := c.ps.length } [] (s.firkin iss p)))) s

def jgetShape (h : Head) : Shape :=
  { joinShape 5 h with tyOk := tyAcc h.ty, modsOk := decide (h.mods.toNat < 8), d := fDirect h.ty, b := fKeyRow 2,
                       writes := flagItems (h.mods.toNat % 8) }
/-- JGET (R374). -/
def execJget (h : Head) (s : State) : Host.Outcome State Fault Refusal :=
  issue (fun _ => jgetShape h) h
    (outsideTx fun c s => onPart c s h.a fun n p =>
      let row := rowOf c.g h.d 0
      let k := h.mods.toNat % 8
      onGrain c p n (p.elem && (h.ty == .i32) == p.int) 0
        (joinEffect ((s.queueJoin c { iss := c.issuer s 0, kind := .jget (c.ps.map fun l => (l, laneKey c h.b l)) row k, part := n,
                                      resv := 0 } [] []).map fun s1 => s1.modGroup c.gid fun g =>
          { g with busy := g.busy ++ (Item.row row :: flagItems k).map fun it => ({ item := it, op := s.nextOp } : Busy) }))) s

def jdrainShape (h : Head) : Shape := { joinShape 6 h with params := .must }
/-- Bytes of one drained value (R376). -/
def Partition.outSize (p : Partition) : Nat := if p.elem then 4 else 4096
/-- JDRAIN (R375, R376). -/
def execJdrain (h : Head) (s : State) : Host.Outcome State Fault Refusal :=
  issue (fun _ => jdrainShape h) h
    (outsideTx fun c s => onPart c s h.a fun n p =>
      let (v0, v1, v2, v3) := paramValues c.g h
      let iss := c.issuer s (scalNum h.d)
      onScratch c s v0 32 32 fun s off t =>
        let em := bitsOf (leNat (t.scrBytes off 32)) 223 192
        let cnt := min v3.toNat 65536
        joinEffect (s.queueJoin c { iss := iss, kind := .jdrain off v1 v2 v3, part := n, resv := 0 } []
          (s.rangeOf iss (v2 + BitVec.ofNat 64 (p.outSize * em)) (p.outSize * cnt)
            ++ (if v1 = 0 then [] else s.rangeOf iss (v1 + BitVec.ofNat 64 (8 * em)) (8 * cnt))))) s

def jstatShape (h : Head) : Shape := { joinShape 7 h with b := fScal }
/-- JSTAT (R377). -/
def execJstat (h : Head) (s : State) : Host.Outcome State Fault Refusal :=
  issue (fun _ => jstatShape h) h
    (outsideTx fun c s => onPart c s h.a fun n _ => onScratch c s (c.g.getS (scalNum h.b)) 64 64 fun s off _ =>
      joinEffect (s.queueJoin c { iss := c.issuer s (scalNum h.d), kind := .jstat off, part := n, resv := 0 } [] [])) s

/-! ## jopen -/

/-- The partition that a descriptor describes (R349). -/
def descPart (d gen half : Nat) : Partition :=
  { gen := gen, half := half, slots := bitsOf d 23 16, probe := bitsOf d 15 12, elem := bitsOf d 0 0 == 1, dmr := bitsOf d 8 8 == 1
    int := bitsOf d 5 4 == 1, cmask := BitVec.ofNat 8 (bitsOf d 39 32), afmt := bitsOf d 44 40, ageo := bitsOf d 47 45
    bfmt := bitsOf d 52 48, bgeo := bitsOf d 55 53, acb := BitVec.ofNat 64 (bitsOf d 319 256)
    ascb := BitVec.ofNat 64 (bitsOf d 383 320), bcb := BitVec.ofNat 64 (bitsOf d 447 384), bscb := BitVec.ofNat 64 (bitsOf d 511 448)
    fbase := BitVec.ofNat 64 (bitsOf d 127 64), fcap := bitsOf d 159 128 }

/-- Reason 2 of R350. -/
def descBad (d : Nat) : Bool :=
  let slots := bitsOf d 23 16
  let dmr := bitsOf d 8 8 == 1
  decide (slots = 0 ∨ 64 < slots ∨ 8 < bitsOf d 15 12 ∨ 1 < bitsOf d 5 4)
    || (dmr && (bitsOf d 0 0 == 1 || slots % 2 == 1))
    || [(3, 1), (7, 6), (11, 9), (31, 24), (63, 56), (255, 160)].any (fun f => bitsOf d f.1 f.2 != 0)
    || bitsOf d 127 64 % 64 != 0 || decide (2 ^ 54 ≤ bitsOf d 127 64)

/-- A failure handle (R350). -/
def failHandle (reason : Nat) : W64 := BitVec.ofNat 64 (2 ^ 63 + reason)

/-- The fields that grow must find unchanged (R350). -/
def Partition.shapeKey (p : Partition) : Partition :=
  { p with gen := 0, half := 0, closed := false, fbase := 0, fcap := 0, fused := 0, fres := 0, recs := [], broken := false, entries := [],
           hist := [], spills := 0 }

/-- A new partition (R348, R350, R368). -/
def State.openPart (s : State) (j : JoinOp) (t : Team) (d : Nat) : State × W64 :=
  let half := if t.paired then j.iss.core % 2 else 0
  let used := (t.parts.map fun e => if e.2.half = half then e.2.slots else 0).sum
  match ((List.range 64).map fun n => 64 * half + n).find? fun n => (klookup t.parts n).isNone with
  | some n =>
    if t.tun < used + bitsOf d 23 16 then (s, failHandle 1)
    else
      let gen := (t.gens + 1) % 2 ^ 24
      let p := descPart d gen half
      (s.setTeam j.iss.team { t with gens := gen, parts := kput t.parts n p }, handleOf n p)
  | none => (s, failHandle 1)

/-- jopen performed (R368). A grow does not count as a jopen for GEN (log 75). On a broken partition grow has no effect (R358); what it then writes
to its destination is not stated, and is free (log 65). -/
def State.performOpen (s : State) (j : JoinOp) (grow : Bool) (off : Nat) (hd : W64) : State × W64 :=
  match klookup s.teams j.iss.team with
  | none => (s, failHandle 1)
  | some t =>
    let d := leNat (t.scrBytes off 64)
    if grow && (match klookup t.parts j.part with | some p => p.broken | none => false) then (s, Config.freeWord s.free 0)
    else if descBad d then (s, failHandle 2)
    else if grow then
      match klookup t.parts j.part with
      | some p =>
        let q := descPart d 0 0
        if q.shapeKey ≠ p.shapeKey ∨ q.fcap < p.fused + p.fres then (s, failHandle 3)
        else (s.modPart j.iss.team j.part fun p => { p with fbase := q.fbase, fcap := q.fcap }, hd)
      | none => (s, failHandle 3)
    else s.openPart j t d

/-! ## jstrm -/

/-- What the read of an entry gives. -/
inductive EntryRes where
  | ok (e : Entry)
  | bad (status : Nat)
  | park
  | wait
  deriving DecidableEq, Repr

/-- An entry of a list read (R371): `a` says which list. -/
def State.readEntry (s : State) (e : Eng) (a : Bool) (base : W64) (i : Nat) : State × EntryRes :=
  if base.toNat % 16 ≠ 0 then (s, .bad stAlign)
  else if 2 ^ 64 ≤ base.toNat + 16 * i then (s, .bad stAccess)
  else
    match s.engRead e (base + BitVec.ofNat 64 (16 * i)) 16 with
    | (s1, .ok bs _) =>
      let n := leNat bs
      let x := if a then bitsOf n 31 0 else bitsOf n 63 32
      let k := if a then bitsOf n 63 32 else bitsOf n 31 0
      (s1, .ok { idx := i, x := x, k := k, tile := BitVec.ofNat 64 (bitsOf n 127 64) })
    | (s1, .bad st) => (s1, .bad st)
    | (s1, .park) => (s1, .park)
    | (s1, .wait) => (s1, .wait)

/-- An entry that no product needs, read only for its k: none where it cannot be read now (log 76). -/
def State.peekEntry (s : State) (e : Eng) (a : Bool) (base : W64) (i : Nat) : State × Option EntryRes :=
  if base.toNat % 16 ≠ 0 ∨ 2 ^ 64 ≤ base.toNat + 16 * i then (s, none)
  else
    match s.engLook e .read (base + BitVec.ofNat 64 (16 * i)) 16 with
    | .bad _ _ _ | .park _ _ _ => (s, none)
    | _ => let r := s.readEntry e a base i; (r.1, some r.2)

/-- What a stream comes to next: a product with its key and B tile, its end, a stop, or a read that waits. -/
inductive StreamRes where
  | product (a : Entry) (key b : W64) (ib : Nat)
  | ended
  | stop (status ia ib : Nat)
  | park
  | wait
  deriving DecidableEq, Repr

/-- The A entry at hand is done with. -/
def Stream.nextA (c : Stream) : Stream := { c with ia := c.ia + 1, a := none, col := 0 }

/-- A read entry taken into the stream, or what stops it. One whose k is below an earlier one of its list stops the stream at its first product, with
the first entry seen that it pairs with (R372, R380); one that pairs with none forms no product. -/
def tookA (c : Stream) (s : State) (r : EntryRes) : State × (Stream ⊕ StreamRes) :=
  match r with
  | .ok x =>
    if x.k < c.ka then
      match klookup c.seenB x.k with
      | some ib => (s, .inr (.stop stOrder x.idx ib))
      | none => (s, .inl { c with ia := c.ia + 1, seenA := c.seenA ++ [(x.k, x.idx)] })
    else
      let same := match c.bs with | b :: _ => b.k == x.k | [] => false
      (s, .inl { c with a := some x, ka := x.k, seenA := c.seenA ++ [(x.k, x.idx)], bs := if same then c.bs else [], closed := same && c.closed })
  | .bad st => (s, .inr (.stop st c.ia 0))
  | .park => (s, .inr .park)
  | .wait => (s, .inr .wait)
def tookB (c : Stream) (s : State) (r : EntryRes) : State × (Stream ⊕ StreamRes) :=
  match r with
  | .ok x =>
    if x.k < c.kb then
      match klookup c.seenA x.k with
      | some ia => (s, .inr (.stop stOrder ia x.idx))
      | none => (s, .inl { c with ib := c.ib + 1, seenB := c.seenB ++ [(x.k, x.idx)] })
    else (s, .inl { c with b := some x, kb := x.k, seenB := c.seenB ++ [(x.k, x.idx)] })
  | .bad st => (s, .inr (.stop st c.ia c.ib))
  | .park => (s, .inr .park)
  | .wait => (s, .inr .wait)

/-- The entry before START gives the k with which the first entry from START is compared (R371, R372). -/
def State.leadStream (s : State) (e : Eng) (al : W64) (c : Stream) : State × (Stream ⊕ StreamRes) :=
  match s.peekEntry e true al (c.ia - 1) with
  | (s1, some (.ok x)) => (s1, .inl { c with led := true, ka := x.k })
  | (s1, some .wait) => (s1, .inr .wait)
  | (s1, _) => (s1, .inl { c with led := true })

/-- The list A is used up: what is left of B can only be out of order (R380). -/
def State.restB (s : State) (e : Eng) (bl : W64) (nb : Nat) (c : Stream) : State × (Stream ⊕ StreamRes) :=
  if c.seenA.isEmpty || decide (c.ib ≥ nb) then (s, .inr .ended)
  else
    match s.peekEntry e false bl c.ib with
    | (s1, some r) =>
      match tookB c s1 r with
      | (s2, .inl c1) => (s2, .inl { c1 with b := none, ib := c.ib + 1 })
      | x => x
    | (s1, none) => (s1, .inr .ended)

/-- The list B is used up, and so is what it has for the k at hand: what is left of A can only be out of order (R380). -/
def State.restA (s : State) (e : Eng) (al : W64) (c : Stream) : State × (Stream ⊕ StreamRes) :=
  if c.seenB.isEmpty then (s, .inr .ended)
  else
    match s.peekEntry e true al c.ia with
    | (s1, some r) => tookA c s1 r
    | (s1, none) => (s1, .inr .ended)

/-- One move of a list-mode stream (R371, R372). -/
def State.moveList (s : State) (e : Eng) (al bl : W64) (na nb : Nat) (c : Stream) : State × (Stream ⊕ StreamRes) :=
  match c.a with
  | none =>
    if c.ia ≥ na then s.restB e bl nb c
    else if !c.led && decide (0 < c.ia) then s.leadStream e al c
    else if c.ib ≥ nb ∧ c.b.isNone ∧ c.bs.isEmpty then s.restA e al { c with led := true }
    else (let r := s.readEntry e true al c.ia; tookA { c with led := true } r.1 r.2)
  | some a =>
    match c.bs[c.col]? with
    | some b => (s, .inr (.product a (BitVec.ofNat 64 (a.x * 2 ^ 32 + b.x)) b.tile b.idx))
    | none =>
      if c.closed then (s, .inl c.nextA)
      else
        match c.b with
        | some b =>
          if b.k = a.k then (s, .inl { c with bs := c.bs ++ [b], b := none, ib := c.ib + 1 })
          else if b.k < a.k then (s, .inl { c with b := none, ib := c.ib + 1 })
          else if c.bs.isEmpty then (s, .inl c.nextA)
          else (s, .inl { c with closed := true })
        | none =>
          if c.ib < nb then (let r := s.readEntry e false bl c.ib; tookB c r.1 r.2)
          else if c.bs.isEmpty then (s, .inl c.nextA)
          else (s, .inl { c with closed := true })

/-- An A entry of a dense stream: out of order it stops the stream at its first product (R372), unless it forms none. -/
def tookDense (d : Nat) (c : Stream) (s : State) (r : EntryRes) : State × (Stream ⊕ StreamRes) :=
  match r with
  | .ok x =>
    if x.k < c.ka then (s, if x.k < denseKn d then .inr (.stop stOrder x.idx 0) else .inl { c with ia := c.ia + 1 })
    else (s, .inl { c with a := some x, ka := x.k })
  | .bad st => (s, .inr (.stop st c.ia 0))
  | .park => (s, .inr .park)
  | .wait => (s, .inr .wait)

/-- One move of a dense stream (R371). -/
def State.moveDense (s : State) (e : Eng) (al : W64) (na d : Nat) (c : Stream) : State × (Stream ⊕ StreamRes) :=
  match c.a with
  | none =>
    if c.ia ≥ na ∨ denseNj d = 0 then (s, .inr .ended)
    else if !c.led && decide (0 < c.ia) then s.leadStream e al c
    else (let r := s.readEntry e true al c.ia; tookDense d { c with led := true } r.1 r.2)
  | some a =>
    if a.k < denseKn d ∧ c.col < denseNj d then
      (s, .inr (if denseTile d a.k c.col < 2 ^ 64 then
          .product a (denseKey d a.x c.col) (BitVec.ofNat 64 (denseTile d a.k c.col)) 0
        else .stop stAccess a.idx 0))
    else (s, .inl c.nextA)

/-- A stream run to its next product; `fuel` bounds its moves. -/
def State.runStream (move : State → Stream → State × (Stream ⊕ StreamRes)) : Nat → State → Stream → State × Stream × StreamRes
  | 0, s, c => (s, c, .wait)
  | fuel + 1, s, c =>
    match move s c with
    | (s1, .inl c1) => State.runStream move fuel s1 c1
    | (s1, .inr r) => (s1, c, r)

/-! ## Performing -/

/-- A token (R364). -/
def tokenOf (status idxA idxB : Nat) : W64 := BitVec.ofNat 64 (idxB % 2 ^ 24 * 2 ^ 32 + idxA % 2 ^ 24 * 2 ^ 8 + status)

/-- The engine view of an operation (R271). -/
def State.joinEng (s : State) (op : Nat) (j : JoinOp) : Eng :=
  { op := op, iss := j.iss, mmu := .core (s.joinCore j), src := 0x2000 + s.joinCore j }

/-- What a step of an operation leaves: it goes on, it parks or waits as it now stands, or it has its token. -/
inductive JRes where
  | more (j : JoinOp)
  | stuck (j : JoinOp)
  | ended (j : JoinOp) (token : W64)
  deriving DecidableEq, Repr

/-- A step's outcome as that of its operation. -/
def JStep.result (r : JStep) (j : JoinOp) (ok : JRes) (bad : Nat → JRes) : JRes :=
  match r with
  | .done => ok
  | .bad st => bad st
  | .park => .stuck { j with st := .parked }
  | .wait => .stuck j

/-- One product of a jstrm (R371, R372). A v3 with bits above START ends it with FORMAT, after LIMIT (log 75). -/
def State.stepStrm (s : State) (op : Nat) (j : JoinOp) (p : Partition) (dense : Bool) (al bl v2 v3 : W64) (d : Nat) : State × JRes :=
  let e := s.joinEng op j
  let cols := strmB dense v2 d
  if strmOver v2 cols then (s, .ended j (tokenOf stLimit 0 0))
  else if v3.extractLsb' 24 40 ≠ 0 then (s, .ended j (tokenOf stFormat 0 0))
  else
    let move (s : State) (c : Stream) := if dense then s.moveDense e al (strmA v2) d c else s.moveList e al bl (strmA v2) cols c
    match State.runStream move (4 * (strmA v2 + cols) + 8) s j.stream with
    | (s1, c, .product a k b ib) =>
      let j1 := { j with stream := c }
      match s1.product e j.part k (p.tileA a.tile 0) (p.tileB b 0) with
      | (s2, r) => (s2, r.result j1 (.more { j1 with stream := { c with col := c.col + 1 } }) fun st => .ended j1 (tokenOf st a.idx ib))
    | (s1, c, .ended) => (s1, .ended { j with stream := c } (tokenOf stDone 0 0))
    | (s1, c, .stop st ia ib) => (s1, .ended { j with stream := c } (tokenOf st ia ib))
    | (s1, c, .park) => (s1, .stuck { j with stream := c, st := .parked })
    | (s1, c, .wait) => (s1, .stuck { j with stream := c })

/-- One tuple of a jacc (R373). -/
def State.stepAcc (s : State) (op : Nat) (j : JoinOp) (p : Partition) (ts : List (Nat × W64 × W32)) : State × JRes :=
  match ts[j.n]? with
  | some (_, k, v) =>
    let (s1, r) := s.fileProduct (s.joinEng op j) j.part p k (addWords p.int (fenv j.iss.fmode) [v])
    (s1, r.result j (.more { j with n := j.n + 1 }) fun st => .ended j (tokenOf st 0 0))
  | none => (s, .ended j (tokenOf stDone 0 0))

/-- The lanes of a jget from the n-th on (R374). -/
def State.getLanes (s : State) (e : Eng) (p : Partition) : List (Nat × W64) → List (Nat × Option W32) →
    State × List (Nat × Option W32) × JStep
  | [], outs => (s, outs, .done)
  | (l, k) :: r, outs =>
    match s.keyValue e p k with
    | (s1, v, .done) => s1.getLanes e p r (outs ++ [(l, v.bind (·.head?))])
    | (s1, _, x) => (s1, outs, x)

/-- jget performed: zero and flag 0 in every lane on a partition that its own reads break (R358). A lost path gives its lane values
that hold no stated value. -/
def State.stepGet (s : State) (op : Nat) (j : JoinOp) (p : Partition) (ks : List (Nat × W64)) : State × JRes :=
  match s.getLanes (s.joinEng op j) p ks [] with
  | (s1, outs, .done) => (s1, .ended { j with outs := outs } 0)
  | (s1, _, .bad st) =>
    if breaks st then (s1.breakPart j.iss.team j.part st, .ended { j with outs := ks.map fun x => (x.1, none) } 0)
    else (s1, .ended { j with outs := ks.map fun x => (x.1, some ((Config.freeWord s.free x.1).setWidth 32)) } 0)
  | (s1, _, .park) => (s1, .stuck { j with st := .parked })
  | (s1, _, .wait) => (s1, .stuck j)

/-- The next key of a dense-range drain from NEXT on (R376). -/
def rectNext (r next : Nat) : Option Nat :=
  let (i0, i1, j0, j1) := (bitsOf r 95 64, bitsOf r 127 96, bitsOf r 159 128, bitsOf r 191 160)
  let i := max i0 (next / 2 ^ 32)
  let col := if next / 2 ^ 32 < i0 then j0 else max j0 (next % 2 ^ 32)
  let (i, col) := if col < j1 then (i, col) else (i + 1, j0)
  if i < i1 ∧ col < j1 then some (i * 2 ^ 32 + col) else none

/-- The next key of a drain (R376). -/
def Partition.nextKey (p : Partition) (r next : Nat) : Option Nat :=
  if bitsOf r 225 225 = 1 then rectNext r next
  else (((p.entries.map (·.key)) ++ p.recs).map (·.toNat) |>.filter fun k => decide (next ≤ k)).min?

/-- A drain record with its NEXT, EMITTED and DONE replaced (R375). -/
def putDrain (r next em : Nat) (last : Bool) : Nat :=
  next % 2 ^ 64 + bitsOf r 191 64 * 2 ^ 64 + em % 2 ^ 32 * 2 ^ 192 + (if last then 1 else bitsOf r 224 224) * 2 ^ 224
    + bitsOf r 255 225 * 2 ^ 225

/-- A write's outcome as a step's. -/
def EngRes.step : EngRes → JStep
  | .ok _ _ => .done
  | .bad st => .bad st
  | .park => .park
  | .wait => .wait

/-- An output of a drain can be written (R376): in the global, scratch or pair window, aligned, its address exact (R8). -/
def State.drainReady (s : State) (e : Eng) (a align n : Nat) : State × JStep :=
  if 2 ^ 64 ≤ a then (s, .bad stAccess)
  else if a % align ≠ 0 then (s, .bad stAlign)
  else
    match s.engLook e .write (BitVec.ofNat 64 a) n with
    | .bad k key mac => (s.engNote e (BitVec.ofNat 64 a) n key mac, .bad k)
    | .park l b m => (s.engPark e .write (BitVec.ofNat 64 a) n l b m, .park)
    | .wait => (s, .wait)
    | .ok _ _ _ => (s, .done)

/-- The outputs of one tuple, none of them begun where one has to wait. -/
def State.drainWrites (s : State) (e : Eng) : List (Nat × List Byte) → State × JStep
  | [] => (s, .done)
  | w :: r =>
    match s.engWrite e (BitVec.ofNat 64 w.1) w.2 with
    | (s1, .ok _ _) => (match s1.drainWrites e r with | (_, .wait) => (s, .wait) | x => x)
    | (s1, x) => (s1, x.step)

/-- One tuple written: its key and its value, both judged before either is written (R376). Where an output lies in another package, the
tuple is written once its answers are here. -/
def State.drainTuple (s : State) (e : Eng) (keys : Option Nat) (vals k : Nat) (v : List W32) : State × JStep :=
  let bytes := v.flatMap fun w => leBytes 4 w.toNat
  match s.drainReady e vals 4 bytes.length with
  | (s1, .done) =>
    match (match keys with | some a => s1.drainReady e a 8 8 | none => (s1, .done)) with
    | (s2, .done) =>
      match s2.drainWrites e ((match keys with | some a => [(a, leBytes 8 k)] | none => []) ++ [(vals, bytes)]) with
      | (s3, .done) => (s3, if s3.writesOut e.op then .wait else .done)
      | x => x
    | x => x
  | x => x

/-- One tuple of a jdrain (R376, R378). -/
def State.stepDrain (s : State) (op : Nat) (j : JoinOp) (p : Partition) (off : Nat) (keys vals n : W64) : State × JRes :=
  let e := s.joinEng op j
  match j.drec, klookup s.teams j.iss.team with
  | none, some t =>
    let r := leNat (t.scrBytes off 32)
    if t.scrPoison off 32 then (s, .ended j (tokenOf stPoison 0 0))
    else if bitsOf r 255 226 ≠ 0 ∨ n.toNat = 0 ∨ 65536 < n.toNat then (s, .ended j (tokenOf stFormat 0 0))
    else if bitsOf r 224 224 = 1 then (s, .ended j (tokenOf stDone 0 0))
    else (s, .more { j with drec := some r, next := bitsOf r 63 0 })
  | some r, _ =>
    let em := bitsOf r 223 192 + j.n
    let at' (last : Bool) (next : Nat) : JoinOp := { j with drec := some (putDrain r next em last) }
    let goes (k : Nat) (x : State × JStep) : State × JRes :=
      (x.1, x.2.result j (.more { j with n := j.n + 1, next := k + 1 }) fun st => .ended (at' false j.next) (tokenOf st j.n 0))
    match p.nextKey r j.next with
    | none => (s, .ended (at' true j.next) (tokenOf stDone j.n 0))
    | some k =>
      if s.writeStarted op then
        match s.writeEnd op with
        | some (s1, st) => goes k (s1, if st = 0 then .done else .bad st)
        | none => (s, .stuck j)
      else if j.n ≥ n.toNat then (s, .ended (at' false j.next) (tokenOf stDone j.n 0))
      else if p.entryBad (BitVec.ofNat 64 k) then (s, .ended (at' false j.next) (tokenOf stPoison j.n 0))
      else
        match s.keyValue e p (BitVec.ofNat 64 k) with
        | (s1, v, .done) =>
          let words := p.outSize / 4
          let both := v.getD (List.replicate (if p.dmr then 2 * words else words) 0)
          if p.dmr ∧ both.take words ≠ both.drop words then (s1, .ended (at' false k) (tokenOf stDmr j.n 0))
          else
            goes k (s1.drainTuple e (if keys = 0 then none else some (keys.toNat + 8 * em)) (vals.toNat + p.outSize * em) k
              (both.take words))
        | (s1, _, r2) =>
          (match r2 with | .bad st => s1.breakPart j.iss.team j.part st | _ => s1,
           r2.result j (.more j) fun st => .ended (at' false j.next) (tokenOf st j.n 0))
  | none, none => (s, .ended j (tokenOf stAccess 0 0))

/-- The statistics record (R377). -/
def Partition.stats (p : Partition) : Nat :=
  let used := p.entries.length * (if p.dmr then 2 else 1)
  let state := (if p.broken then 1 else 0) + (if p.elem then 2 else 0) + (if p.dmr then 4 else 0) + (if p.int then 16 else 0)
    + p.slots * 2 ^ 8 + p.probes * 2 ^ 16
  used + p.fused * 2 ^ 32 + p.fres * 2 ^ 64 + state * 2 ^ 96
    + (p.hist.mapIdx fun i n => n * 2 ^ (128 + 32 * i)).sum + p.spills * 2 ^ 384

/-- One step of a running operation (R358, R368 to R377). -/
def State.stepJoin (s : State) (op : Nat) (j : JoinOp) : State × JRes :=
  match j.kind with
  | .jopen grow off hd => (let r := s.performOpen j grow off hd; (r.1, .ended j r.2))
  | .jclose => (s, .stuck j)
  | k =>
    match s.part j.iss.team j.part with
    | none => (s, .ended j (tokenOf stAccess 0 0))
    | some p =>
      match k with
      | .jstat out => (s.modTeam j.iss.team fun t => t.scrStore out (leBytes 64 p.stats), .ended j (tokenOf stDone 0 0))
      | .jget ks _ _ => if p.broken then (s, .ended { j with outs := ks.map fun x => (x.1, none) } 0) else s.stepGet op j p ks
      | k =>
        if p.broken then (s, .ended j (tokenOf stBroken 0 0))
        else
          match k with
          | .jmul key a b v3 obj _ =>
            if obj.isNone && v3.extractLsb' 24 40 != 0 then (s, .ended j (tokenOf stFormat 0 0))
            else
              let (s1, r) := s.product (s.joinEng op j) j.part key (p.tileA a (mulStrideA v3)) (p.tileB b (mulStrideB v3))
              (s1, r.result j (.ended j (tokenOf stDone 0 0)) fun st => .ended j (tokenOf st 0 0))
          | .jstrm dense al bl v2 v3 d => s.stepStrm op j p dense al bl v2 v3 d
          | .jacc ts => s.stepAcc op j p ts
          | .jdrain off keys vals n => s.stepDrain op j p off keys vals n
          | _ => (s, .stuck j)

/-- An operation after a step: saved as it stands, its reads done with once it has its token (R413). -/
def State.saveJoin (s : State) (op : Nat) (r : JRes) : State :=
  match r with
  | .more j => s.setOp op (.join j)
  | .stuck j => s.setOp op (.join j)
  | .ended j tok => (s.setOp op (.join { j with fin := some tok })).readsDone op

/-- Steps until the operation has its token or cannot go on. -/
def State.runJoin : Nat → State → Nat → JoinOp → State
  | 0, s, op, j => s.setOp op (.join j)
  | fuel + 1, s, op, j =>
    match s.stepJoin op j with
    | (s1, .more j1) => State.runJoin fuel s1 op j1
    | (s1, r) => s1.saveJoin op r

/-- Steps that an operation may take. -/
def JoinOp.bound (j : JoinOp) : Nat :=
  match j.kind with
  | .jstrm dense _ _ v2 _ d => strmA v2 * strmB dense v2 d + 2
  | .jacc ts => ts.length + 2
  | .jdrain _ _ _ n => min n.toNat 65536 + 3
  | _ => 2

/-! ## Events -/

/-- An earlier operation of the same partition has not completed (R363). -/
def State.joinBehind (s : State) (op : Nat) (j : JoinOp) : Bool :=
  match j.kind with
  | .jopen false _ _ => false
  | _ => s.ops.any fun e =>
      match e.2 with
      | .join x => decide (e.1 < op) && x.iss.team == j.iss.team && x.part == j.part
      | _ => false

/-- The colour mask of an operation (R307, R365). -/
def State.joinMask (s : State) (j : JoinOp) : Byte :=
  match j.kind, s.part j.iss.team j.part with
  | .jmul _ _ _ _ _ _, some p => p.cmask
  | .jstrm _ _ _ _ _ _, some p => p.cmask
  | _, _ => 0

/-- A queued operation starts (R310, R363): a jmul with a barrier that it does not count down waits on it first (R370). -/
def State.startJoin (s : State) (op : Nat) (j : JoinOp) : State :=
  if s.joinBehind op j || s.hazardBlocked op then s
  else
    match s.engRelease j.iss op (s.joinMask j) with
    | none => s
    | some s1 =>
      let waits := match j.kind with
        | .jmul _ _ _ _ (some _) false => (match s1.part j.iss.team j.part with | some p => !p.broken | none => false)
        | _ => false
      s1.setOp op (.join { j with st := if waits then .waiting else .running })

/-- JOIN_OP_START (R363): the operation starts; a running stream, accumulation or drain forms its next product or tuple. -/
def execJoinOpStart (op : Nat) (s : State) : Host.Outcome State Fault Refusal :=
  match klookup s.ops op with
  | some (.join j) =>
    match j.st, j.kind with
    | _, .jclose => .next s
    | .queued, _ => .next (s.startJoin op j)
    | .running, _ => .next (if j.fin.isSome then s else (let r := s.stepJoin op j; r.1.saveJoin op r.2))
    | _, _ => .next s
  | _ => .next s

/-- JMUL_BARRIER_SATISFIED (R309, R370): PEND is at or below t; the wait is an acquire. -/
def execJmulBarrierSatisfied (op : Nat) (s : State) : Host.Outcome State Fault Refusal :=
  match klookup s.ops op with
  | some (.join j) =>
    match j.st, j.kind, klookup s.teams j.iss.team with
    | .waiting, .jmul _ _ _ v3 (some off) _, some t =>
      if (objPend (t.obj off)).toInt ≤ (mulAmount v3).toInt then
        .next ((s.setOp op (.join { j with st := .running })).acquireAt (s.joinCore j))
      else .next s
    | _, _, _ => .next s
  | _ => .next s

/-- JCLOSE_FREE (R369): every earlier operation of the partition has completed. -/
def execJcloseFree (op : Nat) (s : State) : Host.Outcome State Fault Refusal :=
  match klookup s.ops op with
  | some (.join j) =>
    match j.kind with
    | .jclose =>
      if s.joinBehind op j then .next s
      else .next ((s.leaveOp op).modTeam j.iss.team fun t => { t with parts := kerase t.parts j.part })
    | _ => .next s
  | _ => .next s

/-- The token as answers to remote writes leave it: the first failure replaces DONE (R361, R364). -/
def State.finalToken (s : State) (op : Nat) (tok : W64) : W64 :=
  match s.writeBad op with
  | some st => if (tok.extractLsb' 0 8).toNat = stDone then (tok &&& ~~~0xFF) ||| BitVec.ofNat 64 st else tok
  | none => tok

/-- What completion writes beside the token: firkin counts (R356), a counted barrier (R370), a drain's record and its mismatch
(R376, R378), a jget's rows and flags (R374), a row poisoned by a poisoned entry (R474). -/
def State.settleJoin (s : State) (op : Nat) (j : JoinOp) (tok : W64) : State :=
  let status := (tok.extractLsb' 0 8).toNat
  let s := s.modPart j.iss.team j.part fun p => { p with fres := p.fres - j.resv, fused := p.recs.length }
  match j.kind with
  | .jmul _ _ _ v3 (some off) true => if status = stDone then s.countDown j.iss.team off (mulAmount v3).toNat false else s
  | .jdrain off _ _ _ =>
    let s := match j.drec with | some r => s.modTeam j.iss.team fun t => t.scrStore off (leBytes 32 r) | none => s
    if status = stDmr then
      s.modGroup j.iss.gid fun g => { g with dmrPend := some (j.iss.lanes, BitVec.ofNat 64 (bitsOf (j.drec.getD 0) 63 0)) }
    else s
  | .jget ks row k =>
    let bad (l : Nat) : Bool := match ks.lookup l, s.part j.iss.team j.part with
      | some key, some p => p.entryBad key
      | _, _ => false
    s.modGroup j.iss.gid fun g =>
      g.land s.free op (g.modLanes (ks.map (·.1)) fun l ln =>
        let v := (j.outs.lookup l).getD none
        let ln1 := (laneWrite .b32 false 0 ln row ((v.getD 0).setWidth 64)).setFlag k v.isSome
        if bad l then ln1.setPoison row true else ln1)
  | _ => s

/-- The operation leaves the queue with its token (R364); jopen and jget write theirs as plain results. -/
def State.endJoin (s : State) (op : Nat) (j : JoinOp) (tok : W64) : State :=
  let tok := match j.kind with | .jopen _ _ _ => tok | _ => s.finalToken op tok
  let s := s.settleJoin op j tok
  match j.kind with
  | .jget _ _ _ => s.leaveOp op
  | .jopen _ _ _ => (s.leaveOp op).writeToken j.iss.gid op j.iss.token tok
  | _ => s.endOp j.iss op tok

/-- JOIN_OP_COMPLETE (R364): what is left of the operation is performed; its writes are visible before its token is written. -/
def execJoinOpComplete (op : Nat) (s : State) : Host.Outcome State Fault Refusal :=
  match klookup s.ops op with
  | some (.join j) =>
    if j.st = .running ∧ j.kind ≠ .jclose then
      let s1 := if j.fin.isSome then s else State.runJoin j.bound s op j
      match klookup s1.ops op with
      | some (.join j1) =>
        match j1.fin with
        | some tok => .next (if s1.writesOut op then s1 else s1.endJoin op j1 tok)
        | none => .next s1
      | _ => .next s1
    else .next s
  | _ => .next s

end Sys2Proof.Machine
end

