-- ==== Sys2Proof/Machine/Fetch.lean ====
section
/-!
DEFINITION. The fetch unit (12_irregular.md R382 to R389, R402 to R404): gathers from formatted surfaces, the fetch cache, and
drop-and-grow; and the release of operations that waited behind a footprint (13_engines.md R413).
-/

namespace Sys2Proof.Machine

/-- SRC of the fetch unit (R271). -/
def fetchEng (op : Nat) (iss : Issuer) : Eng := { op := op, iss := iss, mmu := .core iss.core, src := 0x1000 + iss.core }

/-- Entries of a core's fetch queue (R382). -/
def State.fetchesOn (s : State) (core : Nat) : Nat :=
  (s.ops.filter fun e => match e.2 with | .fetch f => f.iss.core == core | _ => false).length

/-- An operation enters the queue with its footprints (R382, R389, R404). -/
def State.queueFetch (s : State) (c : Ctx) (f : FetchOp) (reads writes : List Range) : Option State :=
  if s.fetchesOn c.g.core ≥ 32 ∨ s.hazardFull c.g.core then none
  else some ((s.addHazard s.nextOp c.g.core reads writes).postToken c.gid (.fetch f) c.h.d)

/-! ## Surfaces -/

/-- Fields of a surface descriptor (R383). -/
def surfNdim (d : Nat) : Nat := bitsOf d 59 58 + 1
def surfOob (d : Nat) : Nat := bitsOf d 57 56
def surfDim (d k : Nat) : Nat := bitsOf d (143 + 16 * k) (128 + 16 * k)
def surfStride (d k : Nat) : Nat := match k with | 1 => bitsOf d 213 193 | 2 => bitsOf d 234 214 | _ => bitsOf d 255 235
def surfBase (d : Nat) : Nat := bitsOf d 53 0
def surfScale (d : Nat) : Nat := bitsOf d 117 64

/-- A descriptor that R385 rejects. -/
def surfBad (d : Nat) : Bool :=
  bitsOf d 192 192 != 0 || bitsOf d 127 118 != 0 || bitsOf d 63 60 != 0 || bitsOf d 55 54 != 0 || surfOob d == 3
    || (List.range (surfNdim d)).any fun k => surfDim d k == 0

/-- Tile shape of a geometry (R262). -/
def tileShape (geo : Nat) : Nat × Nat := match geo with | 3 => (16, 64) | 4 => (64, 16) | _ => (32, 32)

/-- Element size of a page format for the fetch unit (R384); raw pages hold 4-byte elements. -/
def surfElem (fmt : Nat) : Nat := if fmt = 0 then 4 else max (fmtBytes fmt) 1

/-- Bytes of a tile or slot (R262, R263). -/
def surfTile (fmt geo : Nat) : Nat :=
  match geo with
  | 5 => 512
  | 7 => (match surfElem fmt with | 1 => 2048 | 2 => 4096 | _ => 8192)
  | _ => 1024 * surfElem fmt

/-- The tile of an element (R384): its address, and the row and column in it. Linear surfaces give the element's own address. -/
def surfPlace (d fmt geo : Nat) (x : List Nat) : Nat × Nat × Nat :=
  let g (k : Nat) : Nat := if k < surfNdim d then x.getD k 0 else 0
  if geo = 0 then
    (surfBase d + g 0 * surfElem fmt + 16 * (g 1 * surfStride d 1 + g 2 * surfStride d 2 + g 3 * surfStride d 3), 0, 0)
  else
    let (tr, tc) := tileShape geo
    let tw := (surfDim d 0 + tc - 1) / tc
    let t := g 1 / tr * tw + g 0 / tc
    (surfBase d + t * surfTile fmt geo + 16 * (g 2 * surfStride d 2 + g 3 * surfStride d 3), g 1 % tr, g 0 % tc)

/-- The address of an element's bytes; for a bitmap-packed surface the slot's own (R262, R384). -/
def surfAddr (d fmt geo : Nat) (x : List Nat) : Nat :=
  let (t, r, c) := surfPlace d fmt geo x
  match geo with
  | 0 => t
  | 2 => t + (32 * c + r) * surfElem fmt
  | 5 => t + 16 * r + c / 2
  | 7 => t
  | _ => t + ((tileShape geo).2 * r + c) * surfElem fmt

/-- FORMAT of a page for a TYPE (R385). -/
def surfForm (ty : Ty) (d fmt geo : Nat) : Bool :=
  !(fmt == 0 && ty != .b32) && fmt != 7 && fmt != 8 && fmt != 12 && decide (fmt < 16) && geo != 6 && (fmt == 15) == (geo == 5)
    && !(geo == 5 && (surfStride d 2 % 32 != 0 || surfStride d 3 % 32 != 0))

/-- The byte after the last element that a descriptor can address, under one form (R389). -/
def surfEnd (d fmt geo : Nat) : Nat :=
  surfAddr d fmt geo ((List.range 4).map fun k => surfDim d k - 1)
    + (match geo with | 5 => 1 | 7 => surfTile fmt geo | _ => surfElem fmt)

/-- The scale entries of a peck surface (R384). -/
def surfScales (d fmt : Nat) : Nat :=
  32 * (((surfPlace d fmt 5 ((List.range 4).map fun k => surfDim d k - 1)).1 - surfBase d) / 512) + 32

/-- The form of the page at an address, where it can be read. -/
def State.readForm (s : State) (e : Eng) (a : Nat) : Option (Nat × Nat) :=
  match s.peek e.mmu e.iss.asid a e.iss.sup .read with | .ok _ p => some (pteFmt p, pteGeo p) | _ => none

/-- Every page that a surface reaches under a form has that form: each element then lies where the form says (R384). -/
def State.oneForm (s : State) (e : Eng) (d fmt geo : Nat) : Bool :=
  let first := surfBase d / 2 ^ 14
  (List.range ((surfEnd d fmt geo - 1) / 2 ^ 14 + 1 - first)).all fun k =>
    s.readForm e (max (surfBase d) ((first + k) * 2 ^ 14)) == some (fmt, geo)

/-- The footprint of a descriptor (R389): under the one form of its pages, or the widest where they differ or cannot all be read. -/
def State.surfRanges (s : State) (e : Eng) (d : Nat) : List Range :=
  let upTo (n : Nat) : List Range := s.rangeOf e.iss (BitVec.ofNat 64 (surfBase d)) (n - surfBase d)
  let scales (fmt : Nat) : List Range := s.rangeOf e.iss (BitVec.ofNat 64 (surfScale d)) (surfScales d fmt)
  let widest : List Range := upTo (((List.range 8).map fun k => surfEnd d 11 k).foldl max 0) ++ scales 15
  if surfBad d then []
  else
    match s.readForm e (surfBase d) with
    | some (fmt, geo) => if s.oneForm e d fmt geo then upTo (surfEnd d fmt geo) ++ (if geo = 5 then scales fmt else []) else widest
    | none => widest

/-- A queued store of the core that writes into n bytes at a generic address. -/
def State.storeQueued (s : State) (core : Nat) (a : W64) (n : Nat) : Bool :=
  s.groups.any fun e => e.2.core == core && e.2.stores.any fun q =>
    decide (q.va.toNat < a.toNat + n ∧ a.toNat < q.va.toNat + q.bytes.length)

/-- The descriptor that memory holds when the operation is accepted, where it is there to be read and no store to it is queued. -/
def State.surfNow (s : State) (e : Eng) (a : W64) : Option Nat :=
  match s.engLook e .read a 32 with
  | .ok cs _ _ =>
    if s.storeQueued e.iss.core a 32 || cs.any fun c => match c.loc with | .glob pa => isDomain pa || isDevReg pa | .scr _ => false then none
    else some (leNat (cs.flatMap fun c =>
        match c.loc with
        | .glob pa => s.homeBytes pa c.n
        | .scr off => match klookup s.teams e.iss.team with | some t => t.scrBytes off c.n | none => []))
  | _ => none

/-- The footprint declared at acceptance (R389). A descriptor that is not yet there declares the whole global window, until it is read
(log 47). -/
def State.surfDeclared (s : State) (e : Eng) (a : W64) : List Range :=
  match s.surfNow e a with
  | some d => s.surfRanges e d
  | none => [{ scr := false, ctx := e.iss.asid, lo := 0, hi := 2 ^ 54 }]

/-! ## fch -/

def tyFch (ty : Ty) : Bool := [Ty.b32, .i32, .n32, .f32, .f16, .bf16].contains ty

def fchShape (h : Head) (g : Group) : Shape :=
  let w1 := (paramValues g h).2.1
  { major := 0xB0, minor := 0, tyOk := tyFch h.ty, modsOk := h.mods == 0, d := fScal, a := fDirect h.ty,
    b := .op { row := true, span := 4, spanPc := true }, params := .must, access := true, cross := true,
    writes := flagItems (w1.extractLsb' 8 3).toNat,
    judged := match h.params with | some p => (pwordScal p.w1).map Item.scal | none => []
    extra := match h.params with
      | some p => must (litZero p.w2 && litZero p.w3 && (match p.w1 with | .lit v => decide (v.toNat < 2 ^ 11) | .sub _ _ => true))
      | none => .ok }

/-- The handle's address (R386): the checks of R241, a global address being in its window. -/
def State.fchAddr (s : State) (g : Group) (a : W64) : Option Nat :=
  if a.toNat % 32 ≠ 0 then some cAlign
  else match s.target g none a 32 with | .bound => some cScratch | .deny => some cAccess | _ => none

/-- FCH (R383 to R386). -/
def execFch (h : Head) (s : State) : Host.Outcome State Fault Refusal :=
  issue (fchShape h) h
    (outsideTx fun c s =>
      let (a, w1, _, _) := paramValues c.g h
      let iss := c.issuer s (scalNum h.d)
      let rows (l : Nat) : List Int := (List.range 4).map fun k => ((c.g.lane l).row (rowOf c.g h.b l + k)).toInt
      if c.ps.isEmpty then .done s
      else if w1.toNat ≥ 2 ^ 11 then .trap cIllegal (c.ps.map fun l => (l, c.g.pc))
      else
        match s.fchAddr c.g a with
        | some cause => .trap cause (c.ps.map fun l => (l, a))
        | none =>
          let settled := match s.target c.g none a 32 with | .scr off => s.settleScr c.gid c.ps off 32 | _ => some s
          match settled with
          | none => .retry
          | some s1 =>
            let row := rowOf c.g h.a 0
            let k := (w1.extractLsb' 8 3).toNat
            let f : FetchOp := { iss := iss, mask := w1.extractLsb' 0 8,
                                 kind := .fch a (c.ps.map fun l => (l, rows l)) row (partOf h.a) k h.ty }
            joinEffect ((s1.queueFetch c f (s1.surfDeclared (fetchEng 0 iss) a) []).map fun s2 => s2.modGroup c.gid fun g =>
              { g with busy := g.busy ++ (Item.row row :: flagItems k).map fun it => ({ item := it, op := s1.nextOp } : Busy) })) s

/-! ## Reading elements -/

/-- Size of a line of the fetch cache. -/
def fetchLineOf (pa : Nat) : Nat := pa / 256

/-- A line that an element read has brought in (R388), under the key slot of its mapping (R488); 64 KiB are held. -/
def State.fillFetch (s : State) (core pa slot : Nat) : State :=
  let x : FetchLine := { core := core, line := fetchLineOf pa, slot := slot, bytes := s.homeBytes (pa / 256 * 256) 256 }
  let others := s.mem.fcache.filter fun y => !(y.core == core && y.line == x.line)
  let mine := (others.filter fun y => y.core == core).take 255
  { s with mem := { s.mem with fcache := x :: mine ++ others.filter fun y => y.core != core } }

/-- Bytes that lie in one line (R388): from a copy that the fetch cache holds under the same key slot (R488), or from memory, the choice
being free; `pick` tells the choices of one step apart. Hits and misses are counted (R496). -/
def State.fetchPiece (s : State) (e : Eng) (pick a n : Nat) : State × EngRes :=
  let va : W64 := BitVec.ofNat 64 a
  match s.peek e.mmu e.iss.asid a e.iss.sup .read with
  | .ok pa p =>
    let copy := s.mem.fcache.find? fun y =>
      y.core == e.iss.core && y.line == fetchLineOf pa && y.slot == pteKey p && !isDomain pa
    let cached : Bool := decide (pteFmt p < 16) && !s.peekWaits e.mmu e.iss.asid a .read
    match (if cached then copy else none), Config.freeBit s.free pick with
    | some y, true =>
      ((s.useEntry e.mmu e.iss.asid a .read).countCore e.iss.core 0x0E e.iss.asid,
       .ok ((y.bytes.drop (pa % 256)).take n) [(pteFmt p, pteGeo p)])
    | _, fill =>
      match s.engRead e va n with
      | (s1, .ok bs f) =>
        let s2 := if isDomain pa || isDevReg pa then s1 else s1.countCore e.iss.core 0x0F e.iss.asid
        (if isDomain pa || isDevReg pa || !fill then s2 else s2.fillFetch e.iss.core pa (pteKey p), .ok bs f)
      | x => x
  | _ => s.engRead e va n

/-- Bytes of one element, or of a slot's bitmap, which may lie in two lines (R263, R388). -/
def State.fetchBytes (s : State) (e : Eng) (pick a n : Nat) : State × EngRes :=
  let k := min n (256 - a % 256)
  if k = n then s.fetchPiece e pick a n
  else
    match s.fetchPiece e pick a k with
    | (s1, .ok bs f) =>
      match s1.fetchPiece e (pick + 2) (a + k) (n - k) with
      | (s2, .ok cs f2) => (s2, .ok (bs ++ cs) (f ++ f2))
      | x => x
    | x => x

/-- Every page form. -/
def allForms : List (Nat × Nat) := (List.range 32).flatMap fun f => (List.range 8).map fun g => (f, g)

/-- What the page at an address does to a read that needs its form. -/
def State.formFails (s : State) (e : Eng) (a : Nat) : State × EngRes :=
  match s.peek e.mmu e.iss.asid a e.iss.sup .read with
  | .ok _ _ => (s, .bad stFormat)
  | .miss l b n => (s.engPark e .read (BitVec.ofNat 64 a) 1 l b n, .park)
  | .key => (s.engNote e (BitVec.ofNat 64 a) 1 true [], .bad stAccess)
  | .deny => (s.engNote e (BitVec.ofNat 64 a) 1 false [], .bad stAccess)

/-- The form under which an element lies (R384): that of its own page, which is the page at the address that this form gives. The form
of element 0's page is tried first. Where no page agrees, the page that the form of element 0's page leads to decides, or a page that is
not resident, or the page of element 0 (log 47). -/
def State.elemForm (s : State) (e : Eng) (d : Nat) (x : List Nat) : State × EngRes :=
  let base := s.readForm e (surfBase d)
  let at' (f : Nat × Nat) : Nat := surfAddr d f.1 f.2 x
  let unread := (surfBase d :: (base.toList ++ allForms).map at').find? fun a => s.peekWaits e.mmu e.iss.asid a .read
  match (base.toList ++ allForms).find? fun f => s.readForm e (at' f) == some f, unread with
  | some f, _ => (s, .ok [] [f])
  | none, some a => (s.askTables e.mmu e.iss.asid a, .wait)
  | none, none =>
    let missing : Option Nat := (allForms.map fun f => surfAddr d f.1 f.2 x).find? fun a =>
      match s.peek e.mmu e.iss.asid a e.iss.sup .read with | .miss _ _ _ => true | _ => false
    s.formFails e (match base, missing with
      | some f, _ => surfAddr d f.1 f.2 x
      | none, some a => a
      | none, none => surfBase d)

/-- The value of an element under a TYPE (R385): as cvt converts it, also where the types agree. -/
def surfValue (ty : Ty) (env : FEnv) (fmt code scale : Nat) : W32 :=
  if ty = .b32 then BitVec.ofNat 32 code
  else if fmt = 15 then
    BitVec.ofNat 32 (match tyFmt ty with | some f => peckTo f env scale code | none => ftoInt env.rm (tySigned ty) 32 (peckValue scale code))
  else BitVec.ofNat 32 (cvtElem (Ty.ofCode (BitVec.ofNat 5 fmt)) ty env code)

/-- Position of a present element among those of its slot (R263); none where it is absent. -/
def packPlace (mask : List Byte) (i : Nat) : Option Nat :=
  let bits := maskBits mask
  if bits.getD i false then some ((bits.take i).filter id).length else none

/-- The bytes of an element: its code and its scale byte (R384); an absent one has no bytes. -/
def State.elemCode (s : State) (e : Eng) (pick d fmt geo : Nat) (x : List Nat) : State × Option (Nat × Nat) × EngRes :=
  let a := surfAddr d fmt geo x
  let es := surfElem fmt
  let (t, r, c) := surfPlace d fmt geo x
  match geo with
  | 5 =>
    match s.fetchBytes e pick a 1 with
    | (s1, .ok bs _) =>
      match s1.fetchBytes e (pick + 1) (surfScale d + 32 * ((t - surfBase d) / 512) + r) 1 with
      | (s2, .ok sc _) => (s2, some (leNat bs / 16 ^ (c % 2) % 16, leNat sc), .ok [] [])
      | (s2, y) => (s2, none, y)
    | (s1, y) => (s1, none, y)
  | 7 =>
    match s.fetchBytes e pick t 128 with
    | (s1, .ok mask _) =>
      match packPlace mask (32 * r + c) with
      | none => (s1, none, .ok [] [])
      | some k =>
        let at' := t + 128 + k * es
        if at' % es ≠ 0 then (s1, none, .bad stAlign)
        else
          match s1.fetchBytes e (pick + 1) at' es with
          | (s2, .ok bs _) => (s2, some (leNat bs, 0), .ok [] [])
          | (s2, y) => (s2, none, y)
    | (s1, y) => (s1, none, y)
  | _ =>
    if a % es ≠ 0 then (s, none, .bad stAlign)
    else
      match s.fetchBytes e pick a es with
      | (s1, .ok bs _) => (s1, some (leNat bs, 0), .ok [] [])
      | (s1, y) => (s1, none, y)

/-- Coordinates under the out-of-bounds policy (R386): a failure, a zero, or the coordinates to read. -/
inductive Coords where
  | bounds
  | zero
  | at (x : List Nat)
  deriving DecidableEq, Repr

def surfCoords (d : Nat) (xs : List Int) : Coords :=
  let out (k : Nat) : Bool := decide (xs.getD k 0 < 0 ∨ (surfDim d k : Int) ≤ xs.getD k 0)
  let any := (List.range (surfNdim d)).any out
  let clamp : List Nat := (List.range (surfNdim d)).map fun k => (min (max (xs.getD k 0) 0) ((surfDim d k : Int) - 1)).toNat
  if !any then .at clamp
  else match surfOob d with | 0 => .zero | 1 => .at clamp | _ => .bounds

/-- One lane of an fch read (R386, R387): its value or its failure recorded. -/
def State.fetchLane (s : State) (op : Nat) (f : FetchOp) (d : Nat) (ty : Ty) (l : Nat) (xs : List Int) : State :=
  let e := fetchEng op f.iss
  let fail (s : State) (st : Nat) : State := s.setOp op (.fetch { f with fails := f.fails ++ [(l, st)] })
  let give (s : State) (v : W32) : State := s.setOp op (.fetch { f with res := f.res ++ [(l, v)] })
  let stop (s : State) (r : EngRes) : State :=
    match r with
    | .bad st => fail s st
    | .park => s.setOp op (.fetch { f with parked := true })
    | _ => s
  match surfCoords d xs with
  | .bounds => fail s stBounds
  | .zero => give s 0
  | .at x =>
    match s.elemForm e d x with
    | (s1, .ok _ [(fmt, geo)]) =>
      if !surfForm ty d fmt geo then fail s1 stFormat
      else
        match s1.elemCode e (4 * l) d fmt geo x with
        | (s2, some (code, scale), .ok _ _) => give s2 (surfValue ty (fenv f.iss.fmode) fmt code scale)
        | (s2, none, .ok _ _) => give s2 0
        | (s2, _, r) => stop s2 r
    | (s1, r) => stop s1 r

/-- A lane of a started fch that has not been read is read. -/
def State.stepFetch (s : State) (op l : Nat) : State :=
  match klookup s.ops op with
  | some (.fetch f) =>
    match f.kind, f.desc with
    | .fch _ coords _ _ _ ty, some d =>
      match coords.lookup l with
      | some xs =>
        if f.parked || (f.res.lookup l).isSome || (f.fails.lookup l).isSome || s.hazardBlocked op then s else s.fetchLane op f d ty l xs
      | none => s
    | _, _ => s
  | _ => s

/-! ## Start -/

/-- An earlier operation of the core's queue has not started (R382). -/
def State.fetchBehind (s : State) (op core : Nat) : Bool :=
  s.ops.any fun e => match e.2 with | .fetch f => decide (e.1 < op) && f.iss.core == core && !f.started | _ => false

/-- Every participating lane of an fch fails with a status (R387). -/
def FetchOp.failAll (f : FetchOp) (st : Nat) : FetchOp :=
  match f.kind with
  | .fch _ coords _ _ _ _ => { f with started := true, desc := some 0, fails := coords.map fun x => (x.1, st) }
  | _ => f

/-- The footprint of an operation, once its descriptor is read (R389). -/
def State.redeclare (s : State) (op : Nat) (reads : List Range) : State :=
  { s with hazards := s.hazards.map fun h => if h.op = op then { h with reads := reads } else h }

/-- The descriptor read when an fch starts (R383, R387); its footprint is then the descriptor's (R389). -/
def State.readSurface (s : State) (op : Nat) (f : FetchOp) (a : W64) : State :=
  match s.engRead (fetchEng op f.iss) a 32 with
  | (s1, .ok bs _) =>
    let d := leNat bs
    (s1.redeclare op (s1.surfRanges (fetchEng op f.iss) d)).setOp op
      (.fetch (if surfBad d then f.failAll stFormat else { f with started := true, desc := some d }))
  | (s1, .bad st) => s1.setOp op (.fetch (f.failAll st))
  | (s1, .park) => s1.setOp op (.fetch { f with started := true, parked := true })
  | (s1, _) => s1.setOp op (.fetch { f with started := true })

/-- A queued operation starts in issue order once R307 and R310 allow it. -/
def State.startFetch (s : State) (op : Nat) (f : FetchOp) : State :=
  if s.fetchBehind op f.iss.core || s.hazardBlocked op then s
  else
    match s.engRelease f.iss op f.mask with
    | none => s
    | some s1 =>
      match f.kind with
      | .fch a _ _ _ _ _ => s1.readSurface op f a
      | .dgrow _ _ _ _ => s1.setOp op (.fetch { f with started := true })

/-- FETCH_OP_START (R382, R383). -/
def execFetchOpStart (op : Nat) (s : State) : Host.Outcome State Fault Refusal :=
  match klookup s.ops op with
  | some (.fetch f) =>
    if f.started then
      match f.kind with
      | .fch a _ _ _ _ _ => .next (if f.desc.isNone && !f.parked then s.readSurface op f a else s)
      | _ => .next s
    else .next (s.startFetch op f)
  | _ => .next s

/-! ## Completion -/

/-- A token of the fetch unit (R386). -/
def fetchToken (status n : Nat) : W64 := BitVec.ofNat 64 (n * 2 ^ 8 + status)

/-- An fch whose lanes are all read writes its rows, its flag and its token together (R386). -/
def State.finishFch (s : State) (op : Nat) (f : FetchOp) (row part flag : Nat) (ty : Ty) (lanes : List Nat) : State :=
  let status := match lanes.findSome? fun l => f.fails.lookup l with | some st => st | none => stDone
  let s := s.modGroup f.iss.gid fun g => g.blend s.free op (g.modLanes lanes fun l ln =>
    let ln := match f.res.lookup l with | some v => laneWrite ty false part ln row (v.setWidth 64) | none => ln
    ln.setFlag flag (f.fails.lookup l).isSome)
  s.endOp f.iss op (fetchToken status f.fails.length)

/-- FETCH_OP_COMPLETE (R386): the lanes still to be read are read, then all results are written. -/
def execFetchOpComplete (op : Nat) (s : State) : Host.Outcome State Fault Refusal :=
  match klookup s.ops op with
  | some (.fetch f) =>
    match f.kind, f.desc with
    | .fch _ coords row part flag ty, some _ =>
      let lanes := coords.map (·.1)
      let s1 := lanes.foldl (fun s l => s.stepFetch op l) s
      match klookup s1.ops op with
      | some (.fetch f1) =>
        .next (if f1.res.length + f1.fails.length = lanes.length then s1.finishFch op f1 row part flag ty lanes else s1)
      | _ => .next s1
    | _, _ => .next s
  | _ => .next s

/-! ## dgrow -/

/-- A stable insertion sort; `le` says that its first argument may stand first. -/
def insertBy {α : Type} (le : α → α → Bool) (x : α) : List α → List α
  | [] => [x]
  | y :: r => if le x y then x :: y :: r else y :: insertBy le x r
def sortBy {α : Type} (le : α → α → Bool) (xs : List α) : List α := xs.foldr (insertBy le) []

def dgrowShape (h : Head) : Shape :=
  { major := 0xB1, minor := 1, tyOk := h.ty == .b32, modsOk := h.mods == 0, d := fScal, a := fScalRaw, params := .must, access := true, region := true }

/-- DGROW (R402, R404). -/
def execDgrow (h : Head) (s : State) : Host.Outcome State Fault Refusal :=
  issue (fun _ => dgrowShape h) h
    (outsideTx fun c s =>
      let (v0, v1, v2, v3) := paramValues c.g h
      let iss := c.issuer s (scalNum h.d)
      if c.ps.isEmpty then .done s
      else
        joinEffect (s.queueFetch c { iss := iss, mask := (readRaw c.g h.a).extractLsb' 0 8, kind := .dgrow v0 v1 v2 v3 }
          (s.rangeOf iss v1 2048) (s.rangeOf iss v0 2048 ++ s.rangeOf iss v2 144))) s

/-- Magnitude of a bf16 pattern as an ordered number; a NaN has the largest (R403). -/
def bf16Mag (x : Nat) : Nat := if x % 2 ^ 15 > 0x7F80 then 2 ^ 15 else x % 2 ^ 15

/-- The update of R403 on the weights, the gradients and the presence bits: new weights and new bits. -/
def dropGrow (w g : List Nat) (bits : List Bool) (n : Nat) : List Nat × List Bool :=
  let pos := List.range 1024
  let e := pos.filter fun p => bits.getD p false && decide (bf16Mag (w.getD p 0) < 2 ^ 15)
  let drop := (sortBy (fun a b => decide (bf16Mag (w.getD a 0) ≤ bf16Mag (w.getD b 0))) e).take n
  let a0 := pos.filter fun p => !bits.getD p false
  let grow := (sortBy (fun a b => decide (bf16Mag (g.getD b 0) ≤ bf16Mag (g.getD a 0))) a0).take n
  (w.mapIdx fun p x => if drop.contains p || grow.contains p then 0 else x,
   bits.mapIdx fun p b => grow.contains p || (b && !drop.contains p))

/-- The bytes of a list of bits, lowest first. -/
def bitBytes (bits : List Bool) : List Byte :=
  (List.range (bits.length / 8)).map fun i =>
    BitVec.ofNat 8 ((List.range 8).map fun k => if bits.getD (8 * i + k) false then 2 ^ k else 0).sum

/-- Bytes as 16-bit elements. -/
def halves (bs : List Byte) : List Nat := (List.range (bs.length / 2)).map fun i => leNat ((bs.drop (2 * i)).take 2)

/-- The state record after the update, and the weights where the step ran (R403). -/
def growBytes (v3 : W64) (w g st : List Byte) : List Byte × Option (List Byte) :=
  let count := (leNat ((st.drop 128).take 4) + 1) % 2 ^ 32
  let epoch := leNat ((st.drop 132).take 4)
  if count ≥ v3.toNat % 2 ^ 16 then
    let r := dropGrow (halves w) (halves g) (maskBits st) (v3.toNat / 2 ^ 16 % 2 ^ 11)
    (bitBytes r.2 ++ leBytes 4 0 ++ leBytes 4 ((epoch + 1) % 2 ^ 32), some (r.1.flatMap fun x => leBytes 2 x))
  else (st.take 128 ++ leBytes 4 count ++ leBytes 4 epoch, none)

/-- The parameters of R402. -/
def growBad (v3 : W64) : Bool := v3.toNat % 2 ^ 16 == 0 || decide (1024 < v3.toNat / 2 ^ 16 % 2 ^ 11) || decide (2 ^ 27 ≤ v3.toNat)

/-- dgrow ends with a status, or waits. -/
def State.growStop (s : State) (op : Nat) (f : FetchOp) (r : EngRes) : State :=
  match r with
  | .bad st => s.endOp f.iss op (fetchToken st 0)
  | .park => s.setOp op (.fetch { f with parked := true })
  | _ => s

/-- The writes of a dgrow (R403), both or neither: the record, then the tile. -/
def State.growWrite (s : State) (e : Eng) (tile st : W64) (r : List Byte × Option (List Byte)) : State × EngRes :=
  match r.2 with
  | none => s.engWrite e (st + 128) ((r.1.drop 128).take 4)
  | some w =>
    match s.engLook e .write tile 2048 with
    | .ok _ _ _ =>
      match s.engWrite e st r.1 with
      | (s1, .ok _ _) =>
        match s1.engWrite e tile w with
        | (s2, .ok b f) => (s2, .ok b f)
        | (_, x) => (s, x)
      | x => x
    | _ => s.engWrite e tile w

/-- DGROW_COMPLETE (R402, R403). -/
def execDgrowComplete (op : Nat) (s : State) : Host.Outcome State Fault Refusal :=
  match klookup s.ops op with
  | some (.fetch f) =>
    match f.kind, f.fin with
    | .dgrow tile grad st v3, none =>
      let e := fetchEng op f.iss
      if !f.started || f.parked then .next s
      else if growBad v3 then .next (s.endOp f.iss op (fetchToken stFormat 0))
      else if tile.toNat % 64 ≠ 0 ∨ grad.toNat % 64 ≠ 0 ∨ st.toNat % 16 ≠ 0 then .next (s.endOp f.iss op (fetchToken stAlign 0))
      else
        match s.engRead e tile 2048 with
        | (s1, .ok w fw) =>
          match s1.engRead e grad 2048 with
          | (s2, .ok g fg) =>
            match s2.engRead e st 144 with
            | (s3, .ok r _) =>
              if (fw ++ fg).any fun p => p.2 == 7 then .next (s3.endOp f.iss op (fetchToken stFormat 0))
              else
                let out := growBytes v3 w g r
                match s3.growWrite e tile st out with
                | (s4, .ok _ _) =>
                  let tok := fetchToken stDone (if out.2.isSome then 1 else 0)
                  .next (if s4.writesOut op then s4.setOp op (.fetch { f with fin := some tok }) else s4.endOp f.iss op tok)
                | (s4, x) => .next (s4.growStop op f x)
            | (s3, x) => .next (s3.growStop op f x)
          | (s2, x) => .next (s2.growStop op f x)
        | (s1, x) => .next (s1.growStop op f x)
    | .dgrow _ _ _ _, some tok => .next (if s.writesOut op then s else s.endOp f.iss op (s.finalToken op tok))
    | _, _ => .next s
  | _ => .next s

/-! ## HAZARD_RELEASE -/

/-- HAZARD_RELEASE (R310, R413): an operation that no earlier conflicting footprint holds any more starts. -/
def execHazardRelease (op : Nat) (s : State) : Host.Outcome State Fault Refusal :=
  if s.hazardBlocked op then .next s
  else
    match klookup s.ops op with
    | some (.card c) => .next (if c.started then s else s.setOp op (.card { c with started := true }))
    | some (.join j) => .next (if j.st = .queued ∧ j.kind ≠ .jclose then s.startJoin op j else s)
    | some (.fetch f) => .next (if f.started then s else s.startFetch op f)
    | _ => .next s

end Sys2Proof.Machine
end

