-- ==== Sys2Proof/Machine/Worklists.lean ====
section
/-!
DEFINITION. Work-lists and topk (12_irregular.md R390 to R401). Items lie at logical places of the ring and the spill area; where a
place is in memory is Config's (R397), and so is the coding of PRIV.

The logical layout: the last ring block takes the pushes, the other ring blocks are a circular queue of the oldest blocks, and the
spill area is a circular queue of the blocks between them.
-/

namespace Sys2Proof.Machine

/-! ## Headers -/

/-- A list at work: its header's offset, the scratch window's base, the header as it was, and the fields that operations change.
`skip` items of the oldest block are popped; `nf` blocks from slot `fj` on are in the front of the ring; `q` is the oldest spilled
block. -/
structure Wl where
  at'     : Nat
  base    : W64
  hd      : Nat
  pushed  : Nat
  popped  : Nat
  hcnt    : Nat
  spilled : Nat
  skip    : Nat
  fj      : Nat
  nf      : Nat
  q       : Nat
  deriving DecidableEq, Repr

/-- Fields of R390. -/
def wlRing (hd : Nat) : Nat := bitsOf hd 275 256
def wlBlocks (hd : Nat) : Nat := bitsOf hd 191 185
def wlSbase (hd : Nat) : Nat := bitsOf hd 255 192
def wlScap (hd : Nat) : Nat := bitsOf hd 299 276
def wlHoff (hd : Nat) : Nat := bitsOf hd 319 300
def wlHlog (hd : Nat) : Nat := bitsOf hd 351 347
/-- Bytes of the hash set. -/
def wlHash (hd : Nat) : Nat := if wlHlog hd = 0 then 0 else 4 * 2 ^ wlHlog hd
/-- C of R390. -/
def wlCap (hd : Nat) : Nat := (wlBlocks hd + wlScap hd - 1) * 1024

/-- A header read (R390). -/
def readWl (at' : Nat) (base : W64) (hd : Nat) : Wl :=
  let pv := (Config.privCode.symm (BitVec.ofNat 128 (bitsOf hd 511 384))).toNat
  { at' := at', base := base, hd := hd, pushed := bitsOf hd 31 0, popped := bitsOf hd 63 32, hcnt := bitsOf hd 383 352
    spilled := bitsOf hd 184 161, skip := bitsOf pv 9 0, fj := bitsOf pv 15 10, nf := bitsOf pv 22 16, q := bitsOf pv 46 23 }

/-- The header's value after an operation. -/
def Wl.header (w : Wl) : Nat :=
  let pv := w.skip % 2 ^ 10 + w.fj % 2 ^ 6 * 2 ^ 10 + w.nf % 2 ^ 7 * 2 ^ 16 + w.q % 2 ^ 24 * 2 ^ 23
  w.pushed % 2 ^ 32 + w.popped % 2 ^ 32 * 2 ^ 32 + bitsOf w.hd 160 64 * 2 ^ 64 + w.spilled % 2 ^ 24 * 2 ^ 161
    + bitsOf w.hd 351 185 * 2 ^ 185 + w.hcnt % 2 ^ 32 * 2 ^ 352 + (Config.privCode (BitVec.ofNat 128 pv)).toNat * 2 ^ 384

/-- Items held (R390). -/
def Wl.items (w : Wl) : Nat := (w.pushed + 2 ^ 32 - w.popped) % 2 ^ 32
/-- Words used in the block that takes the pushes. -/
def Wl.tail (w : Wl) : Nat := min 1024 (w.items + w.skip - 1024 * (w.nf + w.spilled))

/-! ## Places -/

/-- The word or block that holds logical place i of n (R397). -/
def placeIn (n i : Nat) : Nat := if h : i < n then (Config.place n ⟨i, h⟩).val else 0

/-- The scratchpad offset of word j of ring slot b. -/
def Wl.ringAt (w : Wl) (b j : Nat) : Nat := wlRing w.hd + 4 * placeIn (1024 * wlBlocks w.hd) (1024 * b + j)
/-- Slots of the front queue. -/
def Wl.slots (w : Wl) : Nat := wlBlocks w.hd - 1
/-- The virtual address of spill slot i. -/
def Wl.spillAt (w : Wl) (i : Nat) : W64 := BitVec.ofNat 64 (wlSbase w.hd + 4096 * placeIn (wlScap w.hd) (i % max (wlScap w.hd) 1))

/-- What an operation on a list comes to: the list after it with the items it took; a cause at an address, with what the alarm is
told; a page to wait for; a wait, with what is asked of or written to another package; a wait for page-table entries. -/
inductive WlRes where
  | ok (s : State) (w : Wl) (xs : List W32)
  | trap (cause : Nat) (a : W64) (key : Bool) (mac : List (Nat × Nat))
  | park (u : Use) (a : W64) (level base pages : Nat)
  | wait (ask : List Chunk) (put : List Byte)
  | walk (a : W64)
  deriving DecidableEq, Repr

/-- One list operation after another. -/
def WlRes.bind (r : WlRes) (f : State → Wl → List W32 → WlRes) : WlRes :=
  match r with
  | .ok s w xs => f s w xs
  | x => x

/-- The number under which the answers to a group's own requests are kept, apart from every operation's; a handler has its own. -/
def groupOp (gid : Nat) (sup : Bool) : Nat := 2 ^ 64 + 2 * gid + (if sup then 1 else 0)
/-- The group that a number stands for, if it is no operation's. -/
def opGroup (op : Nat) : Option Nat := if 2 ^ 64 ≤ op then some ((op - 2 ^ 64) / 2) else none

/-- The engine view of a work-list access of a group: its core's translation, SRC the core; the unit gives no FORMAT (R261). -/
def wlEng (c : Ctx) (s : State) : Eng :=
  { op := groupOp c.gid c.g.sup, iss := c.issuer s 0, mmu := .core c.g.core, src := c.g.core, fmt := false }

/-- A group's own requests are out, or their answers have not been used. -/
def State.groupAway (s : State) (gid : Nat) : Bool :=
  (s.net.outs.any fun o => match o.kind with
    | .engRead op _ _ => opGroup op == some gid
    | .engWrite op => opGroup op == some gid
    | _ => false)
    || s.net.got.any fun r => opGroup r.op == some gid

/-- The requests and answers of a group that leaves are dropped. -/
def State.dropAway (s : State) (gid : Nat) : State :=
  { s with net := { s.net with got := s.net.got.filter fun r => opGroup r.op != some gid } }

/-- Words of the team's scratchpad: none where a word is poisoned. -/
def State.scrWord (s : State) (team off : Nat) : Option W32 :=
  match klookup s.teams team with
  | some t => if t.scrPoison off 4 then none else some (BitVec.ofNat 32 (leNat (t.scrBytes off 4)))
  | none => some 0
def State.setScrWord (s : State) (team off : Nat) (v : W32) : State := s.modTeam team fun t => t.scrStore off (leBytes 4 v.toNat)

/-- Words of a ring slot, in item order. -/
def State.slotWords (s : State) (team : Nat) (w : Wl) (b : Nat) : Nat → Nat → Option (List W32)
  | 0, _ => some []
  | n + 1, j =>
    match s.scrWord team (w.ringAt b j) with
    | some x => (s.slotWords team w b n (j + 1)).map (x :: ·)
    | none => none
def State.putSlot (s : State) (team : Nat) (w : Wl) (b : Nat) : Nat → List W32 → State
  | _, [] => s
  | j, x :: r => (s.setScrWord team (w.ringAt b j) x).putSlot team w b (j + 1) r

/-- The block's words as its 4,096 bytes in the spill area hold them, and back. -/
def blockBytes (ws : List W32) : List Byte :=
  let m := ws.zipIdx.foldl (fun m x => kput m (placeIn 1024 x.2) x.1) ([] : KMap W32)
  (List.range 1024).flatMap fun i => leBytes 4 (kget 0 m i).toNat
def blockWords (bs : List Byte) : List W32 :=
  (List.range 1024).map fun i => BitVec.ofNat 32 (leNat ((bs.drop (4 * placeIn 1024 i)).take 4))

/-! ## Block moves -/

/-- The cause of a status (R397). -/
def statusCause (st : Nat) : Nat := if st = stPoison then cPoison else if st = stRemote then cRemote else cAccess

/-- A ring word that is poisoned: POISON with its generic address. -/
def Wl.poisoned (w : Wl) : WlRes := .trap cPoison (w.base + BitVec.ofNat 64 (wlRing w.hd)) false []

/-- A block move's access judged (R390, R397): a virtual address in the global window. A failed MAC is the reading lane's SECURITY (R488;
log 47). -/
def State.blockLook (s : State) (e : Eng) (u : Use) (a : W64) (go : List Chunk → List (Nat × Nat) → WlRes) : WlRes :=
  if (s.spaceOf e.iss.core a).1 ≠ .glob then .trap cAccess a false []
  else
    match s.engLook e u a 4096 with
    | .bad st key mac => .trap (if mac.isEmpty then statusCause st else cSecurity) a key mac
    | .park l b n => .park u a l b n
    | .wait => .walk a
    | .ok cs _ ps => go cs ps

/-- The chunks of a block lie in another package; a block lies in one page. -/
def blockAway (cs : List Chunk) : Bool := cs.any fun c => match c.loc with | .glob pa => isDomain pa | .scr _ => false

/-- The block that takes the pushes moves to the spill area; a block written to another package has moved once it is answered. -/
def State.spillTail (s : State) (e : Eng) (w : Wl) : WlRes :=
  let moved := { w with spilled := w.spilled + 1 }
  let a := w.spillAt (w.q + w.spilled)
  if s.writeStarted e.op then
    match s.writeEnd e.op with
    | some (s1, st) => if st = 0 then .ok s1 moved [] else .trap (statusCause st) a false []
    | none => .wait [] []
  else
    match s.slotWords e.iss.team w w.slots 1024 0 with
    | none => w.poisoned
    | some ws => s.blockLook e .write a fun cs ps =>
      if blockAway cs then .wait cs (blockBytes ws)
      else
        match (s.engUse e .write ps).chunksPut e cs (blockBytes ws) with
        | some s1 => .ok s1 moved []
        | none => .wait [] []

/-- The oldest spilled block moves into the front of the ring. Without a spill area, as an inconsistent header may say, there is none:
WORKLIST_FULL (R398). -/
def State.loadFront (s : State) (e : Eng) (va : W64) (w : Wl) : WlRes :=
  let a := w.spillAt w.q
  if wlScap w.hd = 0 then .trap cWlFull va false []
  else s.blockLook e .read a fun cs _ =>
    match s.engRead e a 4096 with
    | (s1, .ok bs _) =>
      .ok (s1.putSlot e.iss.team w ((w.fj + w.nf) % max w.slots 1) 0 (blockWords bs))
        { w with nf := w.nf + 1, spilled := w.spilled - 1, q := (w.q + 1) % max (wlScap w.hd) 1 } []
    | (_, .bad st) => .trap (statusCause st) a false []
    | _ => .wait cs []

/-- The block that takes the pushes moves into the front of the ring. -/
def State.frontTail (s : State) (e : Eng) (w : Wl) : WlRes :=
  match s.slotWords e.iss.team w w.slots 1024 0 with
  | none => w.poisoned
  | some ws => .ok (s.putSlot e.iss.team w ((w.fj + w.nf) % max w.slots 1) 0 ws) { w with nf := w.nf + 1 } []

/-- A full block makes room; whether it stays in the ring is free where both can be (R397). WORKLIST_FULL where an inconsistent
header leaves no room (R398). -/
def State.makeRoom (s : State) (e : Eng) (w : Wl) (va : W64) : WlRes :=
  let roomR := decide (w.nf < w.slots)
  let roomS := decide (w.spilled < wlScap w.hd)
  if w.spilled = 0 ∧ roomR ∧ !s.writeStarted e.op ∧ (!roomS ∨ Config.freeBit s.free w.pushed) then s.frontTail e w
  else if roomS then s.spillTail e w
  else if roomR ∧ w.spilled ≠ 0 then (s.loadFront e va w).bind fun s w _ => s.spillTail e w
  else .trap cWlFull va false []

/-! ## Items -/

/-- One item appended. A header without a ring has no place for it: WORKLIST_FULL (R398). -/
def State.pushItem (s : State) (e : Eng) (va : W64) (w : Wl) (x : W32) : WlRes :=
  if wlBlocks w.hd = 0 then .trap cWlFull va false []
  else (if w.tail < 1024 then .ok s w [] else s.makeRoom e w va).bind fun s w _ =>
    .ok (s.setScrWord e.iss.team (w.ringAt w.slots (w.tail % 1024)) x) { w with pushed := (w.pushed + 1) % 2 ^ 32 } []
def State.pushItems (s : State) (e : Eng) (va : W64) : Wl → List W32 → WlRes
  | w, [] => .ok s w []
  | w, x :: r =>
    match s.pushItem e va w x with
    | .ok s1 w1 _ => s1.pushItems e va w1 r
    | y => y

/-- The oldest item removed. A header without a ring holds none: WORKLIST_FULL (R398). -/
def State.popItem (s : State) (e : Eng) (va : W64) (w : Wl) : WlRes :=
  if wlBlocks w.hd = 0 then .trap cWlFull va false []
  else (if w.nf = 0 ∧ w.spilled ≠ 0 then s.loadFront e va w else .ok s w []).bind fun s w _ =>
    let slot := if w.nf = 0 then w.slots else w.fj % max w.slots 1
    match s.scrWord e.iss.team (w.ringAt slot (w.skip % 1024)) with
    | none => w.poisoned
    | some x =>
      let w1 := { w with popped := (w.popped + 1) % 2 ^ 32, skip := (w.skip + 1) % 1024 }
      .ok s (if w.nf ≠ 0 ∧ w.skip = 1023 then { w1 with nf := w.nf - 1, fj := (w.fj + 1) % max w.slots 1 } else w1) [x]
def State.popItems (s : State) (e : Eng) (va : W64) (w : Wl) : Nat → WlRes
  | 0 => .ok s w []
  | n + 1 => (s.popItem e va w).bind fun s w xs => (s.popItems e va w n).bind fun s w ys => .ok s w (xs ++ ys)

/-! ## The common part of the instructions -/

/-- The causes of R390 for the ring and the hash set that a header names. -/
def State.wlAreas (s : State) (g : Group) (base : W64) (hd : Nat) : Option (Nat × W64) :=
  let area (o n align : Nat) : Option (Nat × W64) :=
    if n = 0 then none
    else (s.objAddr g (base + BitVec.ofNat 64 o) align n).2.map fun cause => (cause, base + BitVec.ofNat 64 o)
  match area (wlRing hd) (4096 * wlBlocks hd) 4096 with
  | some x => some x
  | none => area (wlHoff hd) (wlHash hd) 64

/-- The lanes' own earlier stores to the areas come first. -/
def State.settleWl (s : State) (c : Ctx) (hd : Nat) : Option State :=
  (s.settleScr c.gid c.ps (wlRing hd) (4096 * wlBlocks hd)).bind fun s => s.settleScr c.gid c.ps (wlHoff hd) (wlHash hd)

/-- Another group of the team is in the midst of a block move: list operations are indivisible (R392). -/
def State.listHeld (s : State) (gid team : Nat) : Bool :=
  s.groups.any fun e => e.1 != gid && e.2.team == team && s.groupAway e.1

/-- An operation on the list that A names (R390, R392). -/
def onList (a : Operand) (c : Ctx) (s : State) (go : State → W64 → Wl → Effect) : Effect :=
  let va := c.g.getS (scalNum a)
  if c.ps.isEmpty then .done s
  else if s.listHeld c.gid c.g.team then .retry
  else onScratch c s va 64 64 fun s off t =>
    let hd := leNat (t.scrBytes off 64)
    let base := s.spaceBase c.g.core 1
    if t.scrPoison off 64 then .poison (c.ps.map fun l => (l, va))
    else
      match s.wlAreas c.g base hd with
      | some (cause, x) => .trap cause (c.ps.map fun l => (l, x))
      | none => match s.settleWl c hd with | some s1 => go s1 va (readWl off base hd) | none => .retry

/-- What an operation leaves: the header written, or nothing but a trap or a wait (R397). -/
def wlEffect (c : Ctx) (s : State) (r : WlRes) (done : State → Wl → List W32 → State) : Effect :=
  let e := wlEng c s
  match r with
  | .ok s1 w xs =>
    let s2 := s1.modTeam c.g.team fun t => t.scrStore w.at' (leBytes 64 w.header)
    .done ((done s2 w xs).dropGot e.op)
  | .trap cause a key mac =>
    let lanes := c.ps.map fun l => (l, a)
    if cause = cWlFull then .trap cause lanes
    else .stop (trapAt ((s.engNote e a 4096 key mac).dropGot e.op) c.gid c.g cause lanes)
  | .park u a l b n => .stop ((s.engPark e u a 4096 l b n).modGroup c.gid fun g => { g with wait := .parked })
  | .walk a => .stop (s.askWalks e a 4096)
  | .wait cs bs => if bs.isEmpty then .stop (s.askRemote e cs) else match s.chunksPut e cs bs with | some s1 => .stop s1 | none => .retry

def wlShape (minor : Nat) (h : Head) : Shape :=
  { major := 0xB0, minor := minor, tyOk := h.ty == .b32, modsOk := h.mods == 0, a := fScal, access := true, region := true }
def fItem : Fld := .op { row := true, ind := true, scal := true, ty := .b32 }

/-! ## wini -/

def winiShape (h : Head) : Shape := { wlShape 1 h with params := .must }
/-- Values that R391 rejects. -/
def winiBad (v0 v1 v2 v3 : W64) : Bool :=
  let hlog := bitsOf v2.toNat 28 24
  let blocks := bitsOf v0.toNat 26 20
  decide (2 ^ 27 ≤ v0.toNat ∨ 2 ^ 29 ≤ v2.toNat ∨ 2 ^ 20 ≤ v3.toNat ∨ v0.toNat % 4096 ≠ 0)
    || decide (blocks < 2 ∨ 64 < blocks ∨ 2 ^ 54 ≤ v1.toNat ∨ v1.toNat % 4096 ≠ 0 ∨ v3.toNat % 64 ≠ 0)
    || (hlog != 0 && decide (hlog < 4 ∨ 20 < hlog))
/-- The header that wini writes. -/
def winiHeader (v0 v1 v2 v3 : W64) : Nat :=
  (bitsOf v0.toNat 26 20) <<< 185 + v1.toNat <<< 192 + (bitsOf v0.toNat 19 0) <<< 256 + (bitsOf v2.toNat 23 0) <<< 276
    + (bitsOf v3.toNat 19 0) <<< 300 + (bitsOf v2.toNat 28 24) <<< 347
/-- An empty list with header fields `hd` written at offset `off` of a team, its hash set filled with ones (R391). -/
def State.initList (s : State) (team off : Nat) (base : W64) (hd : Nat) : State :=
  let w : Wl := { at' := off, base := base, hd := hd, pushed := 0, popped := 0, hcnt := 0, spilled := 0, skip := 0, fj := 0, nf := 0, q := 0 }
  s.modTeam team fun t => (t.scrStore off (leBytes 64 w.header)).scrStore (wlHoff hd) (List.replicate (wlHash hd) 0xFF)
/-- WINI (R391). -/
def execWini (h : Head) (s : State) : Host.Outcome State Fault Refusal :=
  issue (fun _ => winiShape h) h
    (outsideTx fun c s =>
      let va := c.g.getS (scalNum h.a)
      let (v0, v1, v2, v3) := paramValues c.g h
      if c.ps.isEmpty then .done s
      else if s.listHeld c.gid c.g.team then .retry
      else onScratch c s va 64 64 fun s off _ =>
        let hd := winiHeader v0 v1 v2 v3
        let base := s.spaceBase c.g.core 1
        if winiBad v0 v1 v2 v3 then .trap cFormat (c.ps.map fun l => (l, va))
        else
          match s.wlAreas c.g base hd with
          | some (cause, x) => .trap cause (c.ps.map fun l => (l, x))
          | none =>
            match s.settleWl c hd with
            | none => .retry
            | some s1 =>
              .done (s1.initList c.g.team off base hd)) s

/-! ## wpush, wpop, wins, wstat -/

def wpushShape (h : Head) : Shape := { wlShape 2 h with b := fItem }
/-- WPUSH (R392, R393). -/
def execWpush (h : Head) (s : State) : Host.Outcome State Fault Refusal :=
  issue (fun _ => wpushShape h) h
    (outsideTx fun c s => onList h.a c s fun s va w =>
      if w.items + c.ps.length > wlCap w.hd then .trap cWlFull (c.ps.map fun l => (l, va))
      else
        match s.releaseAll c.gid c.ps allColours 1 true with
        | none => .retry
        | some s1 =>
          wlEffect c s1 (s1.pushItems (wlEng c s1) va w (c.ps.map fun l => (c.readB (wpushShape h) l).setWidth 32)) fun s _ _ => s) s

def wpopShape (h : Head) : Shape :=
  { wlShape 3 h with modsOk := decide (h.mods.toNat < 8), d := fRow .b32, b := fScal, writes := flagItems (h.mods.toNat % 8) ++ scalItems h.b }
/-- WPOP (R394): an acquire where an item is received (R392). -/
def execWpop (h : Head) (s : State) : Host.Outcome State Fault Refusal :=
  issue (fun _ => wpopShape h) h
    (outsideTx fun c s => onList h.a c s fun s va w =>
      let n := min c.ps.length w.items
      wlEffect c s (s.popItems (wlEng c s) va w n) fun s _ xs =>
        let s1 := if n = 0 then s else s.acquireAt c.g.core
        s1.modGroup c.gid fun g =>
          let g := g.modLanes (c.ps.take n) fun l ln =>
            writeOp c.g (opndOf (wpopShape h).d) h.d l ((xs.getD (c.ps.findIdx (· == l)) 0).setWidth 64) ln
          (g.setFlags c.ps (h.mods.toNat % 8) fun l => (c.ps.take n).contains l).setS (scalNum h.b) (BitVec.ofNat 64 n)) s

/-- The hash set searched from probe p on (R395): the entry that takes the value, and whether it is there already. -/
inductive Probe where
  | free (i : Nat)
  | dup
  | poison
  | full
  deriving DecidableEq, Repr
def State.probe (s : State) (team hoff size b : Nat) (x : W32) : Nat → Nat → Probe
  | 0, _ => .full
  | fuel + 1, p =>
    let i := (b + p) % size
    match s.scrWord team (hoff + 4 * i) with
    | none => .poison
    | some y => if y = x then .dup else if y = 0xFFFFFFFF then .free i else s.probe team hoff size b x fuel (p + 1)

/-- The home of a value in the hash set (R395). -/
def hashHome (x : W32) (hlog : Nat) : Nat := (x * 0x9E3779B1).toNat / 2 ^ (32 - hlog)

/-- The lanes' values inserted in order (R395): the accepting lanes with their values. None where the set has no place, `poison` where
an entry is poisoned. -/
def State.insertAll (s : State) (team : Nat) (hd : Nat) : List (Nat × W32) → State × Probe × List (Nat × W32)
  | [] => (s, .dup, [])
  | (l, x) :: r =>
    if x = 0xFFFFFFFF then s.insertAll team hd r
    else
      match s.probe team (wlHoff hd) (2 ^ wlHlog hd) (hashHome x (wlHlog hd)) x (2 ^ wlHlog hd) 0 with
      | .free i =>
        match (s.setScrWord team (wlHoff hd + 4 * i) x).insertAll team hd r with
        | (s1, p, ys) => (s1, p, (l, x) :: ys)
      | .dup => s.insertAll team hd r
      | p => (s, p, [])

def winsShape (h : Head) : Shape := { wlShape 4 h with d := .cls 8, b := fItem, writes := flagItems (clsNum h.d) }
/-- WINS (R395). -/
def execWins (h : Head) (s : State) : Host.Outcome State Fault Refusal :=
  issue (fun _ => winsShape h) h
    (outsideTx fun c s => onList h.a c s fun s va w =>
      let lanes (cause : Nat) (a : W64) : Effect := .trap cause (c.ps.map fun l => (l, a))
      if wlHlog w.hd = 0 then lanes cFormat va
      else
        match s.releaseAll c.gid c.ps allColours 1 true with
        | none => .retry
        | some s0 =>
          match s0.insertAll c.g.team w.hd (c.ps.map fun l => (l, (c.readB (winsShape h) l).setWidth 32)) with
          | (_, .full, _) => lanes cWlFull va
          | (_, .poison, _) => .poison (c.ps.map fun l => (l, w.base + BitVec.ofNat 64 (wlHoff w.hd)))
          | (s1, _, acc) =>
            if (!acc.isEmpty && decide (2 ^ wlHlog w.hd ≤ w.hcnt + acc.length)) || decide (wlCap w.hd < w.items + acc.length) then
              lanes cWlFull va
            else
              wlEffect c s0 (s1.pushItems (wlEng c s1) va { w with hcnt := w.hcnt + acc.length } (acc.map Prod.snd)) fun s _ _ =>
                s.modGroup c.gid fun g => g.setFlags c.ps (clsNum h.d) fun l => (acc.lookup l).isSome) s

def wstatShape (h : Head) : Shape := { wlShape 5 h with modsOk := decide (h.mods.toNat < 4), d := fScal, region := false }
/-- WSTAT (R396). -/
def execWstat (h : Head) (s : State) : Host.Outcome State Fault Refusal :=
  issue (fun _ => wstatShape h) h
    (outsideTx fun c s => onList h.a c s fun s _ w =>
      let v := match h.mods.toNat with
        | 0 => w.items | 1 => w.hcnt | 2 => w.spilled | _ => wlCap w.hd
      .done (s.modGroup c.gid fun g => g.setS (scalNum h.d) (BitVec.ofNat 64 v))) s

/-! ## topk -/

/-- k and n of topk (R400). -/
def topkK (h : Head) : Nat := h.mods.toNat % 8 + 1
def topkN (g : Group) (h : Head) : Nat := (readNum g h.b).toNat
/-- Rows that topk writes (R401). -/
def topkRows (k : Nat) : Nat := (k + 1) / 2 + k

/-- topk: an immediate count outside 1 to 256 decides before the row spans, which the chapter does not order (R58, R401): DESIGN CHOICE
(log 63). A scalar count is judged at issue. -/
def topkShape (h : Head) (g : Group) : Shape :=
  let off := isImm h.b && !decide (1 ≤ topkN g h ∧ topkN g h ≤ 256)
  let n := max 1 (min (topkN g h) 256)
  let span := if off then 1 else if isImm h.b || isInd h.a then n
    else match h.a with | .row r _ _ => max 1 (min n (g.nrows - r.toNat)) | _ => 1
  { major := 0xB1, minor := 0, tyOk := h.ty == .f32 || h.ty == .i32 || h.ty == .n32,
    modsOk := decide (h.mods.toNat < 16) && !(h.mods.getLsbD 3 && h.ty != .f32),
    d := .op { row := true, ty := h.ty, span := if off then 1 else topkRows (topkK h) },
    a := .op { row := true, ind := true, ty := h.ty, span := span }, b := fScalImm .n64, judged := scalItems h.b, extra := must (!off) }

/-- The place of a value in the order of R400, larger first: a NaN above +Inf, +0 equal to −0. -/
def topkRank (ty : Ty) (v : W32) : Int :=
  match ty with
  | .f32 =>
    let m : Nat := v.toNat % 2 ^ 31
    if m > 0x7F800000 then 2 ^ 31 else if v.getLsbD 31 then -(m : Int) else (m : Int)
  | .i32 => v.toInt
  | _ => (v.toNat : Int)

def f32Nan (v : W32) : Bool := decide (0x7F800000 < v.toNat % 2 ^ 31)
def topkPad (ty : Ty) : W32 := match ty with | .f32 => 0x7FC00000 | .i32 => 0x80000000 | _ => 0

/-- The k best of a lane's values with their indices, padded (R400). -/
def topkBest (ty : Ty) (nanskip : Bool) (k : Nat) (vs : List W32) : List (W32 × Nat) :=
  let c := vs.zipIdx.filter fun x => !(nanskip && f32Nan x.1)
  let best := (sortBy (fun a b => decide (topkRank ty b.1 ≤ topkRank ty a.1)) c).take k
  best ++ List.replicate (k - best.length) (topkPad ty, 0xFFFF)

/-- The rows that a lane's selection fills (R400). -/
def topkWords (k : Nat) (best : List (W32 × Nat)) : List W32 :=
  (List.range ((k + 1) / 2)).map (fun m =>
    BitVec.ofNat 32 ((best.getD (2 * m) (0, 0xFFFF)).2 + (best.getD (2 * m + 1) (0, 0xFFFF)).2 * 2 ^ 16)) ++ best.map (·.1)

/-- TOPK (R400, R401). -/
def execTopk (h : Head) (s : State) : Host.Outcome State Fault Refusal :=
  issue (topkShape h) h
    (fun c s =>
      let n := topkN c.g h
      let past := match h.a with | .row r _ _ => decide (c.g.nrows < r.toNat + n) | _ => false
      if c.ps.isEmpty then .done s
      else if n = 0 ∨ 256 < n then .trap cIllegal (c.ps.map fun l => (l, readNum c.g h.b))
      else if past then .trap cIllegal (c.ps.map fun l => (l, BitVec.ofNat 64 c.g.nrows))
      else
        c.onGroup s fun g => g.modLanes c.ps fun l ln =>
          let r0 := rowOf c.g h.a l
          let vs := (List.range n).map fun i => (c.g.lane l).row (r0 + i)
          let ws := topkWords (topkK h) (topkBest h.ty (h.mods.getLsbD 3) (topkK h) vs)
          { ln.setRows (rowOf c.g h.d l) ws with
            poison := ln.poison.filter fun q => !decide (rowOf c.g h.d l ≤ q ∧ q < rowOf c.g h.d l + ws.length) }) s

end Sys2Proof.Machine
end

