-- ==== Sys2Proof/Machine/Spawn.lean ====
section
/-!
DEFINITION. spawn (14_time.md R439, R440).
-/

namespace Sys2Proof.Machine

def spawnShape (h : Head) : Shape :=
  { major := 0x98, minor := 2, tyOk := h.ty == .b32, modsOk := h.mods == 0, d := fScal, a := fScal, access := true, region := true }

/-- The record's address as a 128-byte load (R440): ALIGN first, then ACCESS outside the global window. -/
def State.spawnLook (s : State) (g : Group) (asid l : Nat) (va : W64) : LaneLook :=
  let ask : Ask := { use := .read, scope := 3, packed := false, noDev := true, cvt := false }
  let deny : LaneLook := { lane := l, va := va, n := 128, cause := some (rankOf false cAccess, cAccess), key := false, mac := [], miss := [],
                           chunks := [], fmt := 0, pieces := [] }
  if va.toNat % 128 ≠ 0 then { deny with cause := some (rankOf false cAlign, cAlign) }
  else if (s.spaceOf g.core va).1 ≠ .glob then deny
  else s.laneLook g asid ask none l va 128

/-- The submitter that an issuing group stands for (R436): its task, 0 for a service group. -/
def State.submitterOf (s : State) (g : Group) : Submitter := .task (match klookup s.teams g.team with | some t => t.task | none => 0)

/-- The lanes' record of another package: read at that package, submitted, its TASKID written back; the result is written once that write is
acknowledged. While an answer is awaited the instruction is issued again (R440). -/
def spawnAway (c : Ctx) (s : State) (va : W64) (dst slot pa : Nat) : Effect :=
  let e := wlEng c s
  match s.engRead e va 128 with
  | (s1, .ok bs _) =>
    if s1.trapsWait then .stop s1
    else
    let (s2, code, id) := s1.submit (s.submitterOf c.g) (if c.g.sup then none else some (s.asidOf c.g)) va.toNat bs
    let s3 := s2.dropGot e.op
    if code = 0 then
      match s3.request (packetOf .write (domainPkg pa) (domainAddr pa + 28) 4 (leBytes 4 id) slot 0) (.engWrite s3.nextOp) none with
      | some (s4, _) => .done (s4.postToken c.gid (.spawn c.gid dst c.ps va) c.h.d)
      | none => .stop s1
    else .done (s3.modGroup c.gid fun g => g.setS dst (BitVec.ofNat 64 code))
  | (s1, .bad k) =>
    if k = stPoison then .poison (c.ps.map fun l => (l, va))
    else .done (((s1.dropGot e.op).remoteFail c.gid c.ps va).modGroup c.gid fun g => g.setS dst (Config.freeWord s.free 0))
  | (s1, _) => .stop s1

/-- The submission of a record of this package, or of one in another. -/
def spawnGo (c : Ctx) (s : State) (lk : LaneLook) : Effect :=
  let dst := scalNum c.h.d
  match lk.chunks with
  | [ch] =>
    match ch.loc with
    | .glob pa =>
      if isDomain pa then spawnAway c s lk.va dst ch.slot pa
      else if s.runWaits (wlEng c s).agent pa 128 true || s.sliceFull pa || s.trapsWait then .retry
      else
        let (s1, code) := (s.usePieces c.g .read [lk]).submitAt (s.submitterOf c.g) (if c.g.sup then none else some (s.asidOf c.g))
          (wlEng c s).agent lk.va.toNat pa ch.slot
        .done (s1.modGroup c.gid fun g => g.setS dst (BitVec.ofNat 64 code))
    | .scr _ => .retry
  | _ => .retry

/-- SPAWN (R439, R440). -/
def execSpawn (h : Head) (s : State) : Host.Outcome State Fault Refusal :=
  issue (fun _ => spawnShape h) h
    (outsideTx fun c s =>
      let lk := s.spawnLook c.g (s.asidOf c.g) (lowest c.ps) (c.g.getS (scalNum h.a))
      if c.ps.isEmpty then .done s
      else if lk.wait then waitLooks c s [lk] []
      else
        match firstCause [lk] with
        | some (cause, hs) => causeEffect c s cause (hs.flatMap fun x => c.ps.map fun l => { x with lane := l })
        | none =>
          if !lk.miss.isEmpty then parkWhole c s .read [lk]
          else
            match s.releaseAll c.gid c.ps allColours 2 true with
            | none => .retry
            | some s1 => spawnGo c s1 lk) s

end Sys2Proof.Machine
end

