-- ==== Sys2Proof/Machine/Wire.lean ====
section
/-!
DEFINITION. Packets and flits as the bits that a link carries (13_engines.md R426, R427).
-/

namespace Sys2Proof.Machine

/-- OP of a header, and back; 8 to 15 are reserved. -/
def packetCode : PacketOp → BitVec 4
  | .write => 0 | .readReq => 1 | .readResp => 2 | .contribution => 3 | .broadcast => 4 | .delivery => 5 | .atomic => 6 | .atomicResp => 7
def packetOps : List PacketOp := [.write, .readReq, .readResp, .contribution, .broadcast, .delivery, .atomic, .atomicResp]

/-- The header of R427. -/
def headerBits (p : Packet) : BitVec 192 :=
  p.btag ++ BitVec.ofNat 12 p.key ++ BitVec.ofNat 12 p.group ++ BitVec.ofNat 8 p.src ++ BitVec.ofNat 8 p.dst ++ BitVec.ofNat 3 p.elt
    ++ (0 : BitVec 5) ++ BitVec.ofNat 12 p.len ++ packetCode p.op ++ BitVec.ofNat 12 p.rid ++ BitVec.ofNat 4 p.stat ++ (0 : BitVec 5)
    ++ BitVec.ofNat 43 p.addr

/-- A header read, with the data that follows in its flit; none for a reserved OP. Reserved bits are ignored. -/
def headerPacket (h : BitVec 192) (data : List Byte) : Option Packet :=
  (packetOps[(h.extractLsb' 64 4).toNat]?).map fun op =>
    let f (lo n : Nat) : Nat := (h.extractLsb' lo n).toNat
    let p : Packet := { op := op, src := f 96 8, dst := f 88 8, addr := f 0 43, len := f 68 12, data := [], btag := h.extractLsb' 128 64,
                        key := f 116 12, group := f 104 12, elt := f 85 3, rid := f 52 12, stat := f 48 4 }
    if inlineData p then { p with data := data.take p.len } else p

/-- Bytes of a flit's body. -/
def bodyBytes (b : BitVec 2048) : List Byte := (List.range 256).map fun i => b.extractLsb' (8 * i) 8

/-- FK and body of a flit. -/
def bodyKind : FlitBody → BitVec 2
  | .idle => 0 | .header _ => 1 | .reserved => 1 | .data _ => 2 | .control => 3
def bodyBits : FlitBody → BitVec 2048
  | .header p => ((headerBits p).setWidth 2048) ||| (if inlineData p then BitVec.ofNat 2048 (leNat (p.data.take 192)) <<< 512 else 0)
  | .data bs => BitVec.ofNat 2048 (leNat (bs.take 256))
  | _ => 0

/-- CRC-64 with the ECMA-182 polynomial, from a start value of 0, each byte's highest bit first; the manual names only the polynomial
(PRESUMED: the parameters of ECMA-182; log 50). -/
def crcByte (c : W64) (b : Byte) : W64 :=
  (List.range 8).foldl (fun c _ => if c.msb then (c <<< 1) ^^^ 0x42F0E1EBA9EA3693 else c <<< 1) (c ^^^ (b.setWidth 64 <<< 56))
def crc64 (bs : List Byte) : W64 := bs.foldl crcByte 0

/-- The CRC of a flit: over the body and bits 63 to 0 of the sideband. -/
def flitCrc (body : BitVec 2048) (low : W64) : W64 := crc64 (bodyBytes body ++ leBytes 8 low.toNat)

/-- A flit as it is sent (R426). -/
def flitRaw (f : Flit) : RawFlit :=
  let low : W64 := (0 : BitVec 24) ++ BitVec.ofNat 8 f.cred ++ bodyKind f.body ++ BitVec.ofBool f.av ++ (0 : BitVec 5) ++ f.ack ++ f.seq
  { body := bodyBits f.body, side := flitCrc (bodyBits f.body) low ++ low }

/-- A flit as it is received (R426): none where its CRC is wrong. -/
def flitRead (r : RawFlit) : Option Flit :=
  let low := r.side.extractLsb' 0 64
  if r.side.extractLsb' 64 64 ≠ flitCrc r.body low then none
  else
    let body : FlitBody := match (low.extractLsb' 30 2).toNat with
      | 0 => .idle
      | 1 => (match headerPacket (r.body.extractLsb' 0 192) ((bodyBytes r.body).drop 64) with | some p => .header p | none => .reserved)
      | 2 => .data (bodyBytes r.body)
      | _ => .control
    some { body := body, seq := low.extractLsb' 0 12, av := low.getLsbD 29, ack := low.extractLsb' 12 12,
           cred := (low.extractLsb' 32 8).toNat }

end Sys2Proof.Machine
end

