-- ==== Sys2Proof/Machine/Fabric.lean ====
section
/-!
DEFINITION. The fabric (13_engines.md R415 to R430): packets that arrive, answers to requests, barrier tags, flits and links, lost
paths, and the switch planes' part in multicast (R422 to R425).
-/

namespace Sys2Proof.Machine

/-! ## Barrier tags -/

/-- TASK, TEAM and the scratch offset of a barrier tag (R415). -/
def tagTask (t : W64) : Nat := (t.extractLsb' 32 32).toNat
def tagTeam (t : W64) : Nat := (t.extractLsb' 16 16).toNat
def tagOff (t : W64) : Nat := 16 * (t.extractLsb' 0 16).toNat

/-- The count-down in the image of a pre-empted team (R416). -/
def countSlot (tag : W64) (n : Nat) (err : Bool) (x : TeamSlot) : TeamSlot :=
  match x with
  | .imaged im =>
    if im.team.teamid = tagTeam tag ∧ tagOff tag + 16 ≤ im.team.sp then .imaged { im with team := im.team.countDown (tagOff tag) n err }
    else .imaged im
  | x => x

/-- Whether a slot holds the image of the team that a tag names, with the offset inside its scratchpad. -/
def slotTakes (tag : W64) (x : TeamSlot) : Bool :=
  match x with
  | .imaged im => im.team.teamid == tagTeam tag && decide (tagOff tag + 16 ≤ im.team.sp)
  | _ => false

/-- A tag is resolved after a packet was written at `pa` (R416): the object of a resident team, else of an image, else the count-down
is discarded and logged at the destination hub. -/
def State.resolveTag (s : State) (tag : W64) (n : Nat) (err : Bool) (pa : Nat) : State :=
  if tag = 0 then s
  else
    match s.teams.find? fun e => e.2.task == tagTask tag && e.2.teamid == tagTeam tag && decide (tagOff tag + 16 ≤ e.2.sp) with
    | some e => s.countDown e.1 (tagOff tag) n err
    | none =>
      let held := match klookup s.pool.tasks (tagTask tag) with | some k => k.slots.any (slotTakes tag) | none => false
      if held then
        { s with pool := { s.pool with tasks := kmap s.pool.tasks (tagTask tag) fun k => { k with slots := k.slots.map (countSlot tag n err) } } }
      else s.report (hubLog (homeHub pa)) 15 0 (sliceOf pa) pa

/-! ## Answers to requests -/

/-- The bytes of a chunk in an answer; the sector of a node peer is kept, unless this package has written it since (R282). -/
def State.takeAnswer (s : State) (gid : Nat) (keep : Bool) (c : Chunk) (data : List Byte) : State × List Byte :=
  match c.loc, klookup s.groups gid with
  | .glob pa, some g =>
    if s.isPeer pa then
      (if keep then s.keepPeer g.core (s.asidOf g) c.slot (sectorOf pa) (data.take 256) else s, (data.drop (pa % 256)).take c.n)
    else (s, data.take c.n)
  | _, _ => (s, data.take c.n)

/-- An answer to a chunk of a load: its data, poison, or a cause left for the lane. -/
def State.settleLoad (s : State) (op lane k status : Nat) (keep : Bool) (data : List Byte) : State :=
  match klookup s.ops op with
  | some (.load L) =>
    match L.lanes.find? fun x => x.lane == lane with
    | some x =>
      let (s0, bs) := match x.chunks[k]? with
        | some c => if status = 0 then s.takeAnswer L.gid keep c data else (s, s.openBytes lane c.n)
        | none => (s, [])
      let x1 : LoadLane := { x with got := kput x.got k bs, bad := x.bad || status == stPoison }
      let s1 := s0.setOp op (.load (L.setLane x1))
      if status = 0 ∨ status = stPoison then s1 else s1.lateFail L.gid (loadLanes L x) x.va (status == stAccess)
    | none => s
  | _ => s

/-- An answer to a queued store: it is visible, or lost with a cause left for its lanes (R417 to R419). -/
def State.settleStore (s : State) (gid rid status : Nat) : State :=
  match klookup s.groups gid with
  | some g =>
    match g.stores.find? fun q => q.rid == some rid with
    | some q =>
      let s1 := s.setGroup gid { g with stores := g.stores.filter fun q => q.rid != some rid }
      if status = 0 then s1 else s1.lateFail gid q.lanes q.va (status == stAccess)
    | none => s
  | none => s

/-- An answer to a lane of an atomic; the last one completes it. Poison is consumed by the rows of the old value, or at once (R474). -/
def State.settleAtom (s : State) (op lane status : Nat) (data : List Byte) : State :=
  match klookup s.ops op with
  | some (.atom a) =>
    let v : W64 := if status = 0 then BitVec.ofNat 64 (leNat (data.take 8)) else Config.freeWord s.free lane
    let va := match a.lanes.find? fun x => x.lane == lane with | some x => x.va | none => 0
    let bad := status == stPoison
    let who := if a.scal.isSome then a.parts else [lane]
    let a1 : AtomOp := { a with lanes := a.lanes.map fun x => if x.lane = lane then { x with done := some v, bad := bad } else x }
    let s1 := if status = 0 then s
      else if bad then (if a.ret && a.scal.isNone then s else s.latePoison a.gid (who.map fun l => (l, va)))
      else s.lateFail a.gid who va (status == stAccess)
    if a1.lanes.all fun x => x.done.isSome then s1.finishAtom op a1 5 else s1.setOp op (.atom a1)
  | _ => s

/-- An answer to a unit of a card (R410, R411). A count-only packet stands behind the last unit, and its answer changes nothing. -/
def State.settleUnit (s : State) (op k status : Nat) : State :=
  match klookup s.ops op with
  | some (.card c) =>
    match c.units[k]? with
    | some u => if u.st ≠ .sent then s else if status = 0 then s.unitDone op k u.dlen c else s.unitFails op k u status c
    | none => s
  | _ => s

/-- An answer to the fetch of a word of code: kept until the instruction is fetched, or a cause left for the lanes of the word. -/
def State.settleCode (s : State) (gid pa status : Nat) (data : List Byte) : State :=
  match klookup s.groups gid with
  | some g =>
    if status = 0 then s.setGroup gid { g with far := kput g.far pa (data.take 4) }
    else if status = stPoison then s.latePoison gid (g.wordLanes.map fun l => (l, g.pc))
    else s.lateFail gid g.wordLanes g.pc (status == stAccess)
  | none => s

/-- What an operation, or a group for itself, has been answered. -/
def State.keepGot (s : State) (g : RemoteGot) : State :=
  let there : Bool := match opGroup g.op with | some gid => (klookup s.groups gid).isSome | none => (klookup s.ops g.op).isSome
  if there then { s with net := { s.net with got := s.net.got ++ [g] } } else s

/-- The answer to a write of an operation: the first failure stands. -/
def State.keepWrite (s : State) (op status : Nat) : State :=
  match s.gotAt op 0 0 with
  | none => s.keepGot { op := op, pa := 0, n := 0, data := [], status := status }
  | some r =>
    if status = 0 ∨ r.status ≠ 0 then s
    else { s with net := { s.net with got := s.net.got.map fun x => if x = r then { r with status := status } else x } }

/-- The TASKID of a spawn is written in another package (R440): its result is written now; a failure is left for the lanes, and its result is
then not stated (log 66). -/
def State.settleSpawn (s : State) (op gid dst : Nat) (lanes : List Nat) (va : W64) (status : Nat) : State :=
  if status = 0 then (s.delOp op).writeToken gid op dst 0
  else ((s.delOp op).lateFail gid lanes va (status == stAccess)).writeToken gid op dst (Config.freeWord s.free 0)

/-- An answer for an entry of a table (R274, R282): its bytes, or, where the read has failed, bytes of no stated value. -/
def State.settleTable (s : State) (pa status : Nat) (data : List Byte) : State :=
  { s with mem := { s.mem with tables := kput s.mem.tables pa (if status = 0 then data else s.openBytes pa 16) } }

/-- The core whose lane's store or atomic an answer is for. -/
def State.outCore (s : State) (k : OutKind) : Option Nat :=
  let gid : Option Nat := match k with
    | .store gid => some gid
    | .atom op _ => (match klookup s.ops op with | some (.atom a) => some a.gid | _ => none)
    | _ => none
  (gid.bind fun g => klookup s.groups g).map (·.core)

/-- What a request does to the other package's bytes. -/
def outWrites : OutKind → Bool
  | .store _ | .atom _ _ | .unit _ _ | .engWrite _ | .walker => true
  | .load _ _ _ | .engRead _ _ _ | .code _ _ | .table _ => false

/-- A request is answered, or has failed with a status; after a write no copy of its bytes that this package holds is used (R282, R290). -/
def State.settleOut (s : State) (o : Outstanding) (status : Nat) (data : List Byte) : State :=
  let s := { s with net := { s.net with outs := s.net.outs.filter fun x => x != o } }
  let s := if outWrites o.kind then s.forgetFar (s.outCore o.kind) o.dst o.addr o.len else s
  match o.kind with
  | .load op lane k => s.settleLoad op lane k status o.keep data
  | .store gid => s.settleStore gid o.rid status
  | .atom op lane => s.settleAtom op lane status data
  | .unit op k => s.settleUnit op k status
  | .engRead op pa n => s.keepGot { op := op, pa := pa, n := n, data := if status = 0 then data.take n else [], status := status }
  | .code gid pa => s.settleCode gid pa status data
  | .table pa => s.settleTable pa status data
  | .walker => s
  | .engWrite op =>
    match (klookup s.ops op : Option Op) with
    | some (.spawn gid dst lanes va) => s.settleSpawn op gid dst lanes va status
    | _ => s.keepWrite op status

/-! ## Packets that arrive -/

/-- The physical address that a packet names here (R419, R427). -/
def packetPa (p : Packet) : Nat := p.addr / 2 ^ 40 % 8 * 2 ^ 48 + p.addr % 2 ^ 40

/-- The answer to a packet; the manual gives no operation for the answer to a write, which travels here as a read response without
data. -/
def State.answer (s : State) (p : Packet) (op : PacketOp) (status : Nat) (data : List Byte) : State :=
  s.sendPacket { packetOf op p.src 0 data.length data p.key 0 with rid := p.rid, stat := status, src := s.pkgId }

/-- The agent of a packet's access: the device side, with no tenant (R427). -/
def packetAgent : Agent := .engine 0 0

/-- What the sectors of a read hold. -/
def State.packetLook (s : State) (pa n slot : Nat) : Look :=
  let xs := (sectorCuts (n / 256 + 2) pa n).map fun c => s.look (sectorOf c.1) slot
  if xs.contains .mac then .mac else if xs.contains .poison then .poison else .ok

/-- Every sector of a read whose MAC fails is reported to the alarm (R488). -/
def State.packetAlarm (s : State) (pa n slot : Nat) : State :=
  (sectorCuts (n / 256 + 2) pa n).foldl (fun s c => if s.look (sectorOf c.1) slot = .mac then s.fillSector (sectorOf c.1) slot 0 else s) s

/-- A packet's access waits for an exclusion in one of its lines, or for room in a slice's queue (R273, R336, R341). -/
def State.packetWaits (s : State) (pa n : Nat) (write : Bool) : Bool :=
  s.runWaits packetAgent pa n write || (sectorCuts (n / 256 + 2) pa n).any fun c => s.sliceFull c.1

/-- A write packet (R411, R416, R427): its bytes, then its tag, then its answer. -/
def State.takeWrite (s : State) (p : Packet) : State :=
  let pa := packetPa p
  if p.stat ≠ 0 then (s.resolveTag p.btag p.len true pa).answer p .readResp 0 []
  else ((s.writeRun packetAgent p.key pa (p.data.take p.len)).resolveTag p.btag p.len false pa).answer p .readResp 0 []

/-- A read request: the data, or POISON (R364, R427). A failed MAC is reported to the alarm (R488). -/
def State.takeRead (s : State) (p : Packet) : State :=
  let pa := packetPa p
  match s.packetLook pa p.len p.key with
  | .ok =>
    let (s1, bs) := s.readRun packetAgent pa p.key p.len
    s1.answer p .readResp 0 bs
  | .poison => s.answer p .readResp stPoison []
  | .mac => (s.packetAlarm pa p.len p.key).answer p .readResp stPoison []

/-- The bytes that an atomic's packet names (log 50): the run at its address, or two words where it carries a second address (R223). -/
def atomPlaces (p : Packet) (n : Nat) : List (Nat × Nat × Nat) :=
  let pa := packetPa p
  if p.data.length < 10 + 2 * n then [(pa, n, p.key)]
  else [(pa, 4, p.key), (packetPa { p with addr := leNat ((p.data.drop (2 + 2 * n)).take 8) }, 4, p.key)]

/-- The width of an atomic's packet (R314). -/
def atomWidth (p : Packet) : Nat := tyWidth (Ty.ofCode ((p.data.getD 1 0).extractLsb' 0 5)) / 8

/-- An atomic performed at its home (R305, R314, R317). -/
def State.takeAtomicPacket (s : State) (p : Packet) : State :=
  let op := (p.data.getD 0 0).toNat
  let ty := Ty.ofCode ((p.data.getD 1 0).extractLsb' 0 5)
  let n := atomWidth p
  let b := leNat ((p.data.drop 2).take n)
  let c := leNat ((p.data.drop (2 + n)).take n)
  let cs := atomPlaces p n
  let looks := cs.map fun x => s.packetLook x.1 x.2.1 p.key
  if looks.contains .mac then (cs.foldl (fun s x => s.packetAlarm x.1 x.2.1 p.key) s).answer p .atomicResp stPoison []
  else if looks.contains .poison then s.answer p .atomicResp stPoison []
  else
    let (s1, bs) := (cs.foldl (fun s x => s.otherAtomic x.1) s).readChunks packetAgent cs
    let old := leNat bs
    (s1.writeChunks packetAgent cs (leBytes n (atomNew op ty old b c))).answer p .atomicResp 0 (leBytes n old)

/-- Whether a packet asks for an answer. -/
def asksAnswer (p : Packet) : Bool := match p.op with | .write => true | .readReq => true | .atomic => true | _ => false

/-- A packet taken whole (R419, R424, R427). -/
def State.receive (s : State) (p : Packet) : State :=
  let resp : PacketOp := if p.op = .atomic then .atomicResp else .readResp
  let pa := packetPa p
  if p.dst ≠ s.pkgId then
    let s1 := s.report (hubLog 0) 15 0 0 p.addr
    if asksAnswer p then s1.answer p resp stAccess [] else s1
  else
    match p.op with
    | .readResp | .atomicResp =>
      match s.net.outs.find? fun o => o.rid == p.rid && o.dst == p.src with
      | some o => s.settleOut o p.stat p.data
      | none => s
    | .contribution | .broadcast => s
    | .delivery =>
      if (s.slot p.key).kind = 0 ∨ 5 ≤ windowOf pa then s
      else (s.writeRun packetAgent p.key pa (p.data.take p.len)).resolveTag p.btag p.len false pa
    | .write => if (s.slot p.key).kind = 0 ∨ 5 ≤ windowOf pa then s.answer p resp stAccess [] else s.takeWrite p
    | .readReq => if (s.slot p.key).kind = 0 ∨ 5 ≤ windowOf pa then s.answer p resp stAccess [] else s.takeRead p
    | .atomic => if (s.slot p.key).kind = 0 ∨ 5 ≤ windowOf pa then s.answer p resp stAccess [] else s.takeAtomicPacket p

/-- Whether a packet's own access has to wait. -/
def State.packetHeld (s : State) (p : Packet) : Bool :=
  match p.op with
  | .write => p.stat == 0 && s.packetWaits (packetPa p) p.len true
  | .delivery => s.packetWaits (packetPa p) p.len true
  | .readReq => s.packetWaits (packetPa p) p.len false
  | .atomic => (atomPlaces p (atomWidth p)).any fun x => s.packetWaits x.1 x.2.1 true
  | _ => false

/-- PACKET_RECEIVE (R416, R419, R427). -/
def execPacketReceive (p : Packet) (s : State) : Host.Outcome State Fault Refusal :=
  .next (if s.packetHeld p then s else s.receive p)

/-! ## Links -/

/-- The hub of a link (R13). -/
def linkHub (k : Nat) : Nat := if k < 9 then 0 else 1

/-- A link that carries flits. -/
def linkUp (x : Link) : Bool := x.state == 2 || x.state == 3 || x.state == 4

/-- Flits of a queue gathered into packets; `cur` is a packet of which the first flits are known. -/
def gatherPackets : Option Packet → List Flit → List Packet
  | cur, [] => cur.toList
  | cur, f :: r =>
    match f.body with
    | .header p => cur.toList ++ (if packetFlits p = 0 then p :: gatherPackets none r else gatherPackets (some p) r)
    | .data bs => gatherPackets (cur.map fun p => { p with data := p.data ++ bs }) r
    | _ => gatherPackets cur r

/-- A packet of which the last flit of a list is acknowledged, or none. -/
def partPacket : Option Packet → List Flit → Option Packet
  | cur, [] => cur
  | cur, f :: r =>
    match f.body with
    | .header p => partPacket (if packetFlits p = 0 then none else some p) r
    | .data bs => partPacket ((cur.map fun p => { p with data := p.data ++ bs }).filter fun p => decide (p.data.length < p.len)) r
    | _ => partPacket cur r

/-- Flits up to a sequence number are acknowledged (R428); a number that names no unacknowledged flit changes nothing. -/
def Link.acknowledge (x : Link) (ack : BitVec 12) : Link :=
  match x.sent.findIdx? fun f => f.seq == ack with
  | some i => { x with acked := ack, acking := partPacket x.acking (x.sent.take (i + 1)), sent := x.sent.drop (i + 1) }
  | none => x

/-- Every unacknowledged flit is sent again, from ACK + 1 (R428). -/
def Link.resend (x : Link) : Link :=
  match x.sent with
  | [] => x
  | f :: _ => { x with outQ := x.sent ++ x.outQ, sent := [], txseq := f.seq, used := x.used - x.sent.length, replays := if x.replays = 255 then 255 else x.replays + 1 }

/-- A replay of a link, logged and counted (R428, R430, R475, R496). -/
def State.replayLink (s : State) (k : Nat) : State :=
  let x := s.link k
  if x.sent.isEmpty then s
  else ((s.setLink k x.resend).report (hubLog (linkHub k)) 11 0 k 0).countHub (linkHub k) 0x26 none

/-- A control flit is made ready: it carries no SEQ and goes before other flits. -/
def Link.addControl (x : Link) : Link :=
  { x with outQ := { body := .control, seq := 0, av := true, ack := x.rxNext - 1, cred := 0 } :: x.outQ }

/-- A flit leaves: it acknowledges what this side has accepted last, and returns space of this side's buffer (R426, R429). -/
def Link.emit (x : Link) (f : Flit) : Link × Flit :=
  let g : Flit := { f with av := true, ack := x.rxNext - 1, cred := min x.owed 255 }
  ({ x with owed := x.owed - g.cred, wire := some (flitRaw g) }, g)

/-- The next flit of a link is sent (R428): no header or data flit while the replay buffer of 2,048 flits or, as far as CRED has told, the
receive buffer is full. An idle flit returns space where nothing else is to be sent. -/
def State.sendFlit (s : State) (k : Nat) : State :=
  let x := s.link k
  if !linkUp x then s
  else
    match x.outQ with
    | [] => if x.owed = 0 then s else s.setLink k (x.emit { body := .idle, seq := 0, av := true, ack := 0, cred := 0 }).1
    | f :: r =>
      match f.body with
      | .control | .idle => s.setLink k ({ x with outQ := r }.emit f).1
      | _ =>
        if 2048 ≤ x.sent.length ∨ Config.linkSpace k ≤ x.used then s
        else
          let (y, g) := { x with outQ := r }.emit { f with seq := x.txseq }
          s.setLink k { y with sent := x.sent ++ [g], txseq := x.txseq + 1, used := x.used + 1 }

/-- A header or data flit is accepted (R426, R428): the packet it completes, if any. -/
def Link.accept (x : Link) (f : Flit) : Link × Option Packet :=
  let x := { x with rxNext := x.rxNext + 1, owed := x.owed + 1 }
  match f.body with
  | .header p => if packetFlits p = 0 then ({ x with rxPart := none }, some p) else ({ x with rxPart := some { p with data := [] } }, none)
  | .data bs =>
    match x.rxPart with
    | some p =>
      let p := { p with data := p.data ++ bs }
      if p.len ≤ p.data.length then ({ x with rxPart := none }, some { p with data := p.data.take p.len }) else ({ x with rxPart := some p }, none)
    | none => (x, none)
  | _ => (x, none)

/-- What every flit with a right CRC brings: an acknowledgement and space of the far end's buffer (R426, R429). -/
def Link.heard (x : Link) (f : Flit) : Link :=
  let y := if f.av then x.acknowledge f.ack else x
  { y with used := y.used - f.cred }

/-- A flit with a right CRC (R428): one of an unexpected SEQ is discarded and a replay asked for; a control flit's ACK makes this side
resend; a packet that is complete is taken, and a flit whose packet has to wait is not accepted yet. -/
def State.takeFlit (s : State) (link : Nat) (f : Flit) : State :=
  let x := s.link link
  let y := x.heard f
  match f.body with
  | .idle => s.setLink link y
  | .control => if f.av then (s.setLink link y).replayLink link else s.setLink link y
  | _ =>
    if f.seq ≠ x.rxNext then s.setLink link y.addControl
    else
      let (z, p) := y.accept f
      match p with
      | some p => if s.packetHeld p then s else (s.setLink link z).receive p
      | none => s.setLink link z

/-- FLIT_RECEIVE (R426, R428): a flit whose CRC is wrong is discarded, counted, and a replay asked for. -/
def execFlitReceive (link : Nat) (f : RawFlit) (s : State) : Host.Outcome State Fault Refusal :=
  let x := s.link link
  if !linkUp x then .next s
  else
    match flitRead f with
    | none => .next (s.setLink link { x.addControl with crcerr := if x.crcerr = 255 then 255 else x.crcerr + 1 })
    | some f => .next (s.takeFlit link f)

/-- A packet that has to leave another way; a piece of a multicast card cannot, since it reaches its plane through that link only
(R423). -/
def State.reroute (s : State) (p : Packet) : State :=
  let piece := p.op = .contribution ∨ p.op = .broadcast
  if piece then
    match s.net.outs.find? fun o => o.rid == p.rid && o.dst == p.dst with
    | some o => s.settleOut o stRemote []
    | none => s
  else
    match s.pickLink p.dst none with
    | some k =>
      let own := asksAnswer p
      { s.giveLink k p with net := { (s.giveLink k p).net with
          outs := s.net.outs.map fun o => if own ∧ o.rid = p.rid ∧ o.dst = p.dst then { o with via := k } else o } }
    | none => s

/-- A link has failed (R429): its unacknowledged packets are resent on another. -/
def State.failLink (s : State) (k : Nat) : State :=
  let x := s.link k
  let ps := gatherPackets x.acking (x.sent ++ x.outQ) ++ x.held
  let s1 := s.setLink k { x with state := 5, sent := [], outQ := [], held := [], acking := none, rxPart := none, used := 0, owed := 0 }
  ps.foldl (fun s p => s.reroute p) s1

/-- The state on the half that stays healthy (R429, R430): 4 is UP8HI, 3 is UP8LO. -/
def halfState (lane : Nat) : Nat := if lane < 8 then 4 else 3

/-- LINK_LANE_LOSS (R429): from all lanes, or while it trains from them, the link retrains onto the healthy half; a lane of the
remaining half is its end, a lane not in use changes LANEBAD only. -/
def execLinkLaneLoss (link lane : Nat) (s : State) : Host.Outcome State Fault Refusal :=
  if 18 ≤ link ∨ 16 ≤ lane then .next s
  else
    let x := { s.link link with lanebad := (s.link link).lanebad ||| BitVec.ofNat 16 (2 ^ lane) }
    let s1 := s.setLink link x
    let used : Nat := if x.state = 1 then x.target else x.state
    if x.state = 2 then .next (s1.setLink link { x with state := 1, wasUp := true, target := halfState lane })
    else if x.state = 1 ∧ x.target = 2 then .next (s1.setLink link { x with target := halfState lane })
    else if (used = 3 ∧ lane < 8) ∨ (used = 4 ∧ 8 ≤ lane) then .next (s1.failLink link)
    else .next s1

/-- LINK_RETRAIN_COMPLETE (R429): the link returns with its target lanes, the other side's last accepted SEQ is acknowledged and the
rest resent, and held packets follow; or the link has failed. -/
def execLinkRetrainComplete (link : Nat) (ok : Bool) (farSeq : BitVec 12) (s : State) : Host.Outcome State Fault Refusal :=
  let x := s.link link
  if x.state ≠ 1 then .next s
  else if !ok then .next (s.failLink link)
  else
    let y := { x.acknowledge farSeq with state := x.target, wasUp := false, held := [] }
    let s1 := ((s.setLink link y).replayLink link)
    let z := (s1.link link).addControl
    .next (s1.setLink link { z with outQ := z.outQ ++ x.held.flatMap flitsOf })

/-! ## Lost paths -/

/-- The packets that a link has not begun to send to packages of a list leave its queue, and are returned. -/
def Link.pull (x : Link) (dsts : List Nat) : Link × List Packet :=
  let lead := x.outQ.takeWhile fun f => match f.body with | .header _ => false | _ => true
  let ps := gatherPackets none (x.outQ.drop lead.length) ++ x.held
  let stay := ps.filter fun p => !dsts.contains p.dst
  (if x.state = 1 then { x with outQ := lead, held := stay } else { x with outQ := lead ++ stay.flatMap flitsOf, held := [] },
   ps.filter fun p => dsts.contains p.dst)

/-- PLANE_PORT_REPORT (R429): the packages a plane no longer reaches. Packets it has not accepted go another way; of those it has
accepted and that are not answered, any may be lost, which its sender reports. -/
def execPlanePortReport (plane : Nat) (down : List Nat) (s : State) : Host.Outcome State Fault Refusal :=
  if !linkUp (s.link plane) || (s.nodeOn && decide (15 ≤ plane)) then .next s
  else
    let s1 := { s with net := { s.net with down := kset [] s.net.down plane down } }
    let (x, ps) := (s1.link plane).pull down
    let s2 := s1.setLink plane x
    let pieces (o : Outstanding) : Bool := match o.kind with
      | .unit op _ => (match klookup s.ops op with | some (.card c) => decide (3 ≤ c.ty) | _ => false)
      | _ => false
    let lost := s2.net.outs.filter fun o => o.via == plane && down.contains o.dst && !pieces o
      && !(ps.any fun p => p.rid == o.rid && p.dst == o.dst) && Config.freeBit s.free o.rid
    .next (ps.foldl (fun s p => s.reroute p) (lost.foldl (fun s o => s.settleOut o stRemote []) s2))

/-- REMOTE_PATH_LOST (R418, R429): no link reaches a package; what waits for its answer fails. -/
def execRemotePathLost (pkg : Nat) (s : State) : Host.Outcome State Fault Refusal :=
  if (s.routes pkg).isEmpty then
    .next ((s.net.outs.filter fun o => o.dst == pkg).foldl (fun s o => s.settleOut o stRemote []) s)
  else .next s

/-! ## Switch planes -/

/-- Elements of a chunk as f32 (R424): ELT 10 is bf16. -/
def chunkElems (elt : Nat) (data : List Byte) : List W32 :=
  if elt = 10 then (List.range (data.length / 2)).map fun i => BitVec.ofNat 32 (cvtElem .bf16 .f32 (fenv 0) (leNat ((data.drop (2 * i)).take 2)))
  else (List.range (data.length / 4)).map fun i => BitVec.ofNat 32 (leNat ((data.drop (4 * i)).take 4))

/-- The bytes of a finished chunk (R424): bf16 is rounded once. -/
def chunkBytes (elt : Nat) (sums : List W32) : List Byte :=
  sums.flatMap fun x => if elt = 10 then leBytes 2 (cvtElem .f32 .bf16 (fenv 0) x.toNat) else leBytes 4 x.toNat

/-- f32 addition of a switch (R424): RNE, no FTZ, canonical NaN. -/
def switchAdd (a b : W32) : W32 :=
  match tyFmt .f32 with
  | some f => BitVec.ofNat 32 (fadd f (fenv 0) a.toNat b.toNat)
  | none => a

/-- The switch acknowledges a piece (R423): the card of this package counts down. -/
def State.ackPiece (s : State) (p : Packet) : State :=
  if p.src ≠ s.pkgId then s
  else match s.net.outs.find? fun o => o.rid == p.rid && o.dst == p.dst && (match o.kind with | .unit _ _ => true | _ => false) with
    | some o => s.settleOut o 0 []
    | none => s

/-- A key that a table does not use. -/
def nextKey {β : Type} (m : KMap β) : Nat := match m.getLast? with | some e => e.1 + 1 | none => 0

/-- SWITCH_CONTRIBUTION (R424): the first contribution opens the chunk, a later one is added in arrival order. -/
def execSwitchContribution (plane : Nat) (p : Packet) (s : State) : Host.Outcome State Fault Refusal :=
  match klookup s.net.groups p.group with
  | some g =>
    if p.op ≠ .contribution ∨ p.data.length ≠ p.len ∨ !g.pmask.getLsbD plane then .next s
    else
      let es := chunkElems g.elt p.data
      let same (c : McChunk) : Bool := c.plane == plane && c.group == p.group && c.off == p.addr && c.len == p.len
        && decide (c.count < g.members.length)
      let chunks := match s.net.chunks.find? fun e => same e.2 with
        | some e => kput s.net.chunks e.1 { e.2 with sums := List.zipWith switchAdd e.2.sums es, count := e.2.count + 1 }
        | none => kput s.net.chunks (nextKey s.net.chunks)
            { plane := plane, group := p.group, off := p.addr, len := p.len, sums := es, count := 1, key := p.key }
      .next (({ s with net := { s.net with chunks := chunks } } : State).ackPiece p)
  | none => .next s

/-- A delivery to this package where it is a member: the write, then the tag (R424, R425). -/
def State.deliverTo (s : State) (g : McGroup) (off key : Nat) (data : List Byte) : State :=
  (g.members.filter fun m => m.pkg == s.pkgId).foldl (fun s m =>
    s.receive (packetOf .delivery s.pkgId (m.dbase + off) data.length data key m.btag)) s

def State.deliverHeld (s : State) (g : McGroup) (off n : Nat) : Bool :=
  g.members.any fun m => m.pkg == s.pkgId && s.packetWaits (packetPa (packetOf .delivery s.pkgId (m.dbase + off) n [] 0 0)) n true

/-- SWITCH_CHUNK_DELIVER (R424): a chunk with N contributions. -/
def execSwitchChunkDeliver (plane chunk : Nat) (s : State) : Host.Outcome State Fault Refusal :=
  match klookup s.net.chunks chunk with
  | some c =>
    match klookup s.net.groups c.group with
    | some g =>
      if c.plane ≠ plane ∨ c.count < g.members.length ∨ s.deliverHeld g c.off c.len then .next s
      else
        .next (({ s with net := { s.net with chunks := kerase s.net.chunks chunk } } : State).deliverTo g c.off c.key (chunkBytes g.elt c.sums))
    | none => .next s
  | none => .next s

/-- SWITCH_BROADCAST_DELIVER (R425). -/
def execSwitchBroadcastDeliver (plane : Nat) (p : Packet) (s : State) : Host.Outcome State Fault Refusal :=
  match klookup s.net.groups p.group with
  | some g =>
    if p.op ≠ .broadcast ∨ p.data.length ≠ p.len ∨ !g.pmask.getLsbD plane ∨ s.deliverHeld g p.addr p.len then .next s
    else .next ((s.deliverTo g p.addr p.key p.data).ackPiece p)
  | none => .next s

end Sys2Proof.Machine
end

