-- ==== Sys2Proof/Machine/Preempt.lean ====
section
/-!
DEFINITION. Pre-emption, images and checkpoints (14_time.md R448 to R453; 11_tun.md R379; 12_irregular.md R389, R399, R404;
13_engines.md R431), and the end of a team (03_lanes.md R74; 15_traps.md R461).
-/

namespace Sys2Proof.Machine

/-! ## The work of a team -/

/-- The groups of a team, by number. -/
def State.teamGroups (s : State) (t : Nat) : List (Nat × Group) := s.groups.filter fun e => e.2.team == t
def State.ofTeam (s : State) (t gid : Nat) : Bool := match klookup s.groups gid with | some g => g.team == t | none => false

/-- An operation belongs to a team. -/
def State.opOf (s : State) (t : Nat) (o : Op) : Bool :=
  match o with
  | .load l => s.ofTeam t l.gid
  | .atom a => s.ofTeam t a.gid
  | .deposit d => s.ofTeam t d.src || s.ofTeam t d.dst
  | .cflush g _ _ _ => s.ofTeam t g
  | .tlbi g _ _ => s.ofTeam t g
  | .ownset g _ _ _ _ _ => s.ofTeam t g
  | .card c => c.iss.team == t
  | .join j => j.iss.team == t
  | .fetch f => f.iss.team == t
  | .spawn g _ _ _ => s.ofTeam t g
def State.teamOps (s : State) (t : Nat) : List (Nat × Op) := s.ops.filter fun e => s.opOf t e.2

/-- The groups have no store queued, no commit incomplete and no request of their own out. -/
def State.quiet (s : State) (t : Nat) : Bool :=
  (s.teamGroups t).all fun e => e.2.stores.isEmpty && !s.committing e.1 && !s.groupAway e.1

/-! ## The halt -/

/-- A group halts at an instruction boundary (R449): results are written (R56), open transactions are aborted with PREEMPT (R345), and
a waiting instruction other than bar will be issued again. -/
def Group.halt (g : Group) : Group :=
  let g1 := match g.wait with | .load op => (g.release op).dropHold op | _ => g
  { g1 with
    wait := (match g.wait with | .bar n => .bar n | .stopped => .stopped | _ => .none)
    held := (match g.wait with | .bar _ => g.held | _ => none)
    late := g1.late.filter fun x => x.op != heldOp
    pend := [], ractive := false, deferUntil := 0, deferFor := [], far := [], fetched := [], sent := none
    lanes := g1.lanes.map fun ln => if ln.tx.isOpen then ln.closeTx (some (7, 0)) else ln }

def State.haltGroup (s : State) (gid : Nat) : State :=
  match klookup s.groups gid with
  | none => s
  | some g =>
    let s0 := (s.dropSent gid g).countCore g.core 0x12 (s.asidOf g) (g.lanes.filter (·.tx.isOpen)).length
    let s1 := (match g.wait with | .load op => (s0.dropReqs op).delOp op | _ => s0).dropAway gid
    (s1.setGroup gid g.halt).txSettle gid

def State.haltTeam (s : State) (t : Nat) : State :=
  ((s.teamGroups t).foldl (fun s e => s.haltGroup e.1) s).modTeam t fun tm => { tm with halted := true }

/-- PREEMPT_HALT (R449): the groups of a team that is to leave its core halt. -/
def execPreemptHalt (team : Nat) (s : State) : Host.Outcome State Fault Refusal :=
  match klookup s.teams team with
  | some t => .next (if t.asked.isSome || t.discard || t.faulted then s.haltTeam team else s)
  | none => .next s

/-- A running jdrain of the team stops after a whole tuple; its record and token are written (R379). -/
def State.stopDrain (s : State) (op : Nat) (j : JoinOp) : State :=
  match j.kind, j.drec, s.part j.iss.team j.part with
  | .jdrain _ _ _ _, some r, some p =>
    if j.st = .running ∧ j.fin.isNone ∧ !s.writeStarted op then
      let last := (p.nextKey r j.next).isNone
      s.endJoin op { j with drec := some (putDrain r j.next (bitsOf r 223 192 + j.n) last) } (tokenOf stDone j.n 0)
    else s
  | _, _, _ => s
def State.stopDrains (s : State) (t : Nat) : State :=
  (s.teamOps t).foldl (fun s e => match e.2 with | .join j => s.stopDrain e.1 j | _ => s) s

/-- A card may be recorded between whole units (R431): one that has not failed, or one that a page keeps from ending. -/
def Card.recordable (c : Card) : Bool :=
  c.unfinished && c.units.all (fun u => u.st != .sent)
    && (c.status == 0 || c.units.any fun u => match u.st with | .parked | .stuck _ => true | _ => false)

/-- An operation that a halt records before it has done its work (R379, R389, R404, R431), whatever waits behind it. -/
def State.recorded (s : State) (op : Nat) (o : Op) : Bool :=
  match o with
  | .card c => c.recordable
  | .join j => !s.writeStarted op && j.fin.isNone && (j.st == .parked || j.st == .waiting || j.st == .queued)
  | .fetch f => f.parked || (match f.kind with | .dgrow _ _ _ _ => true | _ => false)
  | _ => false

/-- A queued fch that cannot complete, since an operation that is recorded holds it or one before it in the queue (R310, R382). -/
def State.fetchStuck (s : State) (op core : Nat) : Bool :=
  s.ops.any fun e => match e.2 with
    | .fetch f => decide (e.1 ≤ op) && f.iss.core == core && !f.started && s.hazards.any fun h =>
        h.op == e.1 && s.hazards.any fun x => decide (x.op < h.op) && x.core == h.core
          && (rangesHit x.writes (h.reads ++ h.writes) || rangesHit x.reads h.writes)
          && (match klookup s.ops x.op with | some o => s.recorded x.op o | none => false)
    | _ => false

/-- Whether the work in flight of one operation has ended as R449 has it: it may be recorded as it stands. -/
def State.mayRecord (s : State) (op : Nat) (o : Op) : Bool :=
  match o with
  | .card c => c.recordable
  | .join j =>
    !s.writeStarted op && j.fin.isNone && (match j.st, j.kind with
      | .parked, _ => true
      | .waiting, _ => true
      | .running, .jstrm _ _ _ _ _ _ => true
      | .running, _ => false
      | .queued, _ => s.joinBehind op j || s.hazardBlocked op)
  | .fetch f =>
    !s.writesOut op && f.fin.isNone && (f.parked || (match f.kind with | .dgrow _ _ _ _ => true | _ => false)
      || (!f.started && s.fetchStuck op f.iss.core))
  | _ => false

/-- A halted team's work in flight has ended. -/
def State.settled (s : State) (t : Nat) : Bool := s.quiet t && (s.teamOps t).all fun e => s.mayRecord e.1 e.2

/-- An operation as an image records it (R379, R389, R404, R431): what is parked is tried again after restore. -/
def recordOp (o : Op) : Op :=
  match o with
  | .card c => .card { c with units := c.units.map fun u => { u with st := u.st.retried } }
  | .join j => .join (if j.st = .parked then { j with st := .running } else j)
  | .fetch f => .fetch { f with started := false, parked := false, desc := none, res := [], fails := [] }
  | o => o

/-! ## The end of a team -/

/-- A team leaves its core: groups, operations, hazard entries and the team itself. -/
def State.removeTeam (s : State) (t : Nat) : State :=
  let gone := (s.teamOps t).map Prod.fst
  let left (r : RemoteGot) : Bool :=
    gone.contains r.op || (match opGroup r.op with | some g => s.ofTeam t g | none => false)
  { s with
    groups := s.groups.filter fun e => e.2.team != t
    teams := kerase s.teams t
    ops := s.ops.filter fun e => !gone.contains e.1
    hazards := s.hazards.filter fun h => !gone.contains h.op
    mem := { s.mem with l2q := s.mem.l2q.filter fun e => !gone.contains e.2.op }
    net := { s.net with got := s.net.got.filter fun r => !left r } }

/-- A pair that a contained tenant leaves is to be scrubbed (R493). -/
def State.leavePair (s : State) (core asid : Nat) : State :=
  if s.contained asid then { s with pool := { s.pool with scrubs := addLine s.pool.scrubs (pairOf core) } } else s

/-- The slot of a team in its task takes a value. -/
def State.putSlotOf (s : State) (task teamid : Nat) (x : TeamSlot) : State :=
  { s with pool := { s.pool with tasks := kmap s.pool.tasks task fun k => { k with slots := k.slots.set teamid x } } }

def slotDead : TeamSlot → Bool
  | .dead => true
  | _ => false
def slotWaits : TeamSlot → Bool
  | .unplaced => true
  | .imaged _ => true
  | _ => false
def slotHeld : TeamSlot → Bool
  | .imaged im => im.held
  | _ => false

/-- The task finishes once every team is done (R442, R461). -/
def State.endTask (s : State) (task : Nat) : State :=
  match klookup s.pool.tasks task with
  | some k => if !k.record.host && k.slots.all slotDead then s.finishTask task else s
  | none => s

/-! ## Checkpoints -/

/-- CRC-32C of bytes. -/
def crc32c (bs : List Byte) : Nat := (~~~(bs.foldl sigByte (0xFFFFFFFF : W32))).toNat

/-- CKCTL holds MAN, ERR, DONE and BUSY (R454). -/
def ckDone (c : W64) (err : Nat) : W64 := (c &&& 0x000FFFFFFFFFF000) ||| BitVec.ofNat 64 (err * 16) ||| 8

/-- One manifest entry (R452). -/
def manEntry (im : Image) : List Byte :=
  leBytes 8 im.addr ++ leBytes 4 im.team.task ++ leBytes 4 im.team.teamid ++ leBytes 8 im.gen ++ leBytes 4 im.len ++ leBytes 4 0

/-- The manifest of a list of images (R452). -/
def manifestBytes (bootid : W64) (ims : List Image) : List Byte :=
  let gen := (ims.map (·.gen)).foldl max 0
  let head (crc : Nat) : List Byte :=
    leBytes 8 gen ++ leBytes 4 crc ++ leBytes 4 ims.length ++ leBytes 8 bootid.toNat ++ leBytes 40 0
  let body := ims.flatMap manEntry
  head (crc32c (head 0 ++ body)) ++ body

/-- A team returns to its task without a seat: the task enters its level anew unless it is there already, or is not ready (R445). -/
def State.returnSlot (s : State) (task i : Nat) (x : TeamSlot) : State :=
  let n := s.pool.seq + 1
  { s with pool := { s.pool with
    seq := n
    tasks := kmap s.pool.tasks task fun k =>
      let k1 := if k.order = 0 ∨ k.slots.any slotWaits then k else { k with order := n, since := s.clock }
      { k1 with slots := k1.slots.set i x } } }

/-- A restore puts its images back as unplaced teams (R453); a faulted task's teams are never placed. -/
def State.putBack (s : State) (gens : List Nat) : State :=
  (gens.foldl (fun s g =>
    match klookup s.pool.images g with
    | some im =>
      let bad := match klookup s.pool.tasks im.team.task with | some k => k.faulted | none => true
      if bad then s else s.returnSlot im.team.task im.team.teamid (.imaged { im with held := false })
    | none => s) s)

/-- The checkpoint or restore in progress ends once it waits for nothing, not even for room to write the manifest (R336, R341). -/
def State.ckFinish (s : State) : State :=
  match s.pool.ck with
  | some k =>
    if !k.waits.isEmpty || !k.begun || s.poolWaits [(k.man, 64 + 32 * k.gens.length)] true then s
    else
      let s1 := { s with pool := { s.pool with ck := none }, pkg := { s.pkg with ckctl := ckDone s.pkg.ckctl 0 } }
      if k.restore then (s1.putBack k.gens).noteReady
      else s1.writeRun poolAgent 0 k.man (manifestBytes s.pkg.ckboot (k.gens.filterMap fun g => klookup s.pool.images g))
  | none => s

/-- A team that a checkpoint or restore waits for has left, with an image or without one. -/
def State.ckLeft (s : State) (t : Nat) (gen : Option Nat) : State :=
  match s.pool.ck with
  | some k =>
    if k.waits.contains t then
      ({ s with pool := { s.pool with ck := some { k with
          waits := k.waits.filter fun x => x != t, gens := if k.restore then k.gens else k.gens ++ gen.toList } } } : State).ckFinish
    else s
  | none => s

/-! ## Retirement -/

/-- TEAM_RETIRE (R74, R442, R461): a team whose groups have ended and whose work is complete; a faulted or discarded team once it has
halted and its work in flight has ended. A discarded team that a restore does not name starts anew. -/
def execTeamRetire (team : Nat) (s : State) : Host.Outcome State Fault Refusal :=
  match klookup s.teams team with
  | some t =>
    if t.faulted || t.discard then
      let s1 := (s.haltTeam team).stopDrains team
      if s1.settled team then
        let s0 := (s1.removeTeam team).leavePair t.core t.asid
        let s2 := if t.faulted then s0.putSlotOf t.task t.teamid .dead else s0.returnSlot t.task t.teamid .unplaced
        .next ((s2.ckLeft team none).noteReady.endTask t.task)
      else .next s1
    else if (s.teamGroups team).all (fun e => e.2.ended) && s.quiet team && (s.teamOps team).isEmpty then
      let s2 := ((s.removeTeam team).leavePair t.core t.asid).putSlotOf t.task t.teamid .dead
      .next ((s2.ckLeft team none).endTask t.task)
    else .next s
  | none => .next s

/-! ## The image heap -/

def State.heapBase (s : State) : Nat := (s.pkg.imgheap.extractLsb' 26 26).toNat * 2 ^ 26
def State.heapSize (s : State) : Nat := (s.pkg.imgheap.extractLsb' 52 12).toNat * 2 ^ 26

/-- The bound on a team's image (R450). -/
def State.imageBound (s : State) (t : Nat) (tm : Team) : Nat :=
  65536 + ((s.teamGroups t).map fun e => e.2.width * 4 * (e.2.nrows + 32) + 8192).sum + tm.sp
    + 4160 * tm.tun * (if tm.paired then 2 else 1)

/-- The heap's ranges in use: images of unplaced teams and the places reserved. -/
def State.heapUsed (s : State) : List (Nat × Nat) :=
  (s.pool.tasks.flatMap fun e => e.2.slots.filterMap fun x => match x with | .imaged im => some (im.addr, im.len) | _ => none)
    ++ s.teams.filterMap fun e => e.2.asked

/-- The lowest place for n bytes, at a multiple of 64. -/
def State.heapPlace (s : State) (n : Nat) : Option Nat :=
  let used := s.heapUsed
  let starts := s.heapBase :: used.map fun r => (r.1 + r.2 + 63) / 64 * 64
  (starts.filter fun a => decide (s.heapBase ≤ a ∧ a + n ≤ s.heapBase + s.heapSize)
    && used.all fun r => decide (a + n ≤ r.1 ∨ r.1 + r.2 ≤ a)).min?

/-- Pre-emption of a team is requested with room reserved at its bound (R448). -/
def State.askTeam (s : State) (hold : Bool) (t : Nat) : Option State :=
  match klookup s.teams t with
  | none => some s
  | some tm =>
    if tm.faulted || tm.discard then some s
    else if tm.asked.isSome then some (s.setTeam t { tm with hold := tm.hold || hold })
    else
      let n := s.imageBound t tm
      (s.heapPlace n).map fun a => s.setTeam t { tm with asked := some (a, n), hold := hold }

def State.askTeams (s : State) : List Nat → Option State
  | [] => some s
  | t :: r => match s.askTeam false t with | some s1 => s1.askTeams r | none => none

/-! ## Images -/

/-- The header of an image (R450): NSEC is 9, one section of each type. -/
def imageHeader (im : Image) (crc : Nat) : List Byte :=
  leBytes 64 (im.gen % 2 ^ 64 * 2 ^ 448 + crc * 2 ^ 416 + im.len % 2 ^ 32 * 2 ^ 384 + im.team.task % 2 ^ 32 * 2 ^ 352
    + im.team.teamid % 2 ^ 16 * 2 ^ 336 + im.team.asid % 2 ^ 16 * 2 ^ 320 + 9 * 2 ^ 304 + 2 ^ 288 + im.bootid.toNat * 2 ^ 224)

/-- Bytes before the sections: header and directory. -/
def imageFront : Nat := 64 + 9 * 16

/-- The directory (R450): the sections of types 1 to 9 in that order, one behind the other; their lengths are not architectural, and the
last takes what is left of LEN (log 52). -/
def imageSections (im : Image) : List (Nat × Nat × Nat) :=
  ((List.range 9).foldl (fun (r : List (Nat × Nat × Nat) × Nat) i =>
    let left := im.len - r.2
    let n := if i = 8 then left else min (Config.sectionLen im.gen (i + 1)) left
    (r.1 ++ [(i + 1, r.2, n)], r.2 + n)) ([], imageFront)).1
def imageDirectory (im : Image) : List Byte :=
  (imageSections im).flatMap fun x => leBytes 4 x.1 ++ leBytes 4 x.2.1 ++ leBytes 8 x.2.2

/-- The bytes of an image (R450); the encoding within the sections is fixed by VER and not given. -/
def imageBytes (im : Image) : List Byte :=
  let body : List Byte := imageDirectory im
    ++ (List.range (im.len - imageFront)).map fun i => (Config.freeWord im.gen (2 ^ 32 + i)).setWidth 8
  imageHeader im (crc32c (imageHeader im 0 ++ body)) ++ body

/-- The checks of R451 on the bytes at an address, in the order of the codes of R454: the image, or the error. -/
def State.checkImage (s : State) (addr len gen : Nat) : Nat ⊕ Image :=
  let bs := s.homeBytes addr len
  let h := leNat (bs.take 64)
  let clean := (bs.take 52) ++ leBytes 4 0 ++ bs.drop 56
  if len < 64 ∨ crc32c clean ≠ bitsOf h 447 416 then .inl 1
  else if bitsOf h 303 288 ≠ 1 then .inl 5
  else if BitVec.ofNat 64 (bitsOf h 287 224) ≠ s.pkg.ckboot then .inl 6
  else if bitsOf h 511 448 ≠ gen then .inl 2
  else match klookup s.pool.images gen with
    | some im => if imageBytes im = bs then .inr im else .inl 1
    | none => .inl 1

/-- An image of a halted team as it stands. -/
def State.imageOf (s : State) (t : Nat) (tm : Team) (addr bound : Nat) : Image :=
  let gen := s.pkg.ckgen.toNat + 1
  let gs := (s.teamGroups t).map fun e => (e.1, { e.2 with fence := none, ractive := false })
  let ops := (s.teamOps t).map fun e => (e.1, recordOp e.2)
  { gen := gen, addr := addr, len := max imageFront (min (Config.imageLen gen bound) bound), bootid := s.pkg.ckboot, held := tm.hold, tnum := t
    team := { tm with asked := none, hold := false, halted := false }
    groups := gs, ops := ops, hazards := s.hazards.filter fun h => ops.any fun e => e.1 == h.op }

/-- A pre-empted team returns to its task, which enters its level anew unless it is there already (R445, R449). -/
def State.returnTeam (s : State) (im : Image) : State :=
  let dead := match klookup s.pool.tasks im.team.task with | some k => k.faulted | none => false
  ({ s with pool := { s.pool with images := kput s.pool.images im.gen { im with held := false } } } : State).returnSlot
    im.team.task im.team.teamid (if dead then .dead else .imaged im)

/-- IMAGE_WRITE (R449 to R452): the image of a halted team whose work in flight has ended is written, and the team returns to the
pool. -/
def execImageWrite (team : Nat) (s : State) : Host.Outcome State Fault Refusal :=
  match klookup s.teams team with
  | some t =>
    match t.asked with
    | some (addr, bound) =>
      if !t.halted || t.faulted || t.discard then .next s
      else
        let s1 := s.stopDrains team
        let im := s1.imageOf team t addr bound
        if !s1.settled team || s1.poolWaits [(addr, im.len)] true then .next s1
        else
          let s2 := ((s1.removeTeam team).leavePair t.core t.asid).writeRun poolAgent 0 addr (imageBytes im)
          let s3 := { s2 with pkg := { s2.pkg with ckgen := BitVec.ofNat 64 im.gen } }
          .next (((s3.returnTeam im).ckLeft team (some im.gen)).endTask t.task)
    | none => .next s
  | none => .next s

/-! ## Requests -/

/-- Resident teams that satisfy a condition. -/
def State.teamsWhere (s : State) (p : Team → Bool) : List Nat := (s.teams.filter fun e => p e.2).map Prod.fst

/-- A write of PRMT (R448, R454): with GO, the teams that ALL and ASID name, or NOROOM. -/
def State.writePrmt (s : State) (v : W64) : State :=
  let keep := (v &&& 0x1FFFF) ||| (s.pkg.prmt &&& 0x4000000000000000)
  let s1 := { s with pkg := { s.pkg with prmt := keep } }
  if !v.getLsbD 63 then s1
  else
    let names := s.teamsWhere fun t => v.getLsbD 16 || t.asid == (v.extractLsb' 0 16).toNat
    match (if s.heapSize = 0 then none else s1.askTeams names) with
    | some s2 => { s2 with pkg := { s2.pkg with prmt := v &&& 0x1FFFF } }
    | none => { s with pkg := { s.pkg with prmt := (v &&& 0x1FFFF) ||| 0x4000000000000000 } }

/-- PRMT_GO (R448). -/
def execPrmtGo (value : W64) (s : State) : Host.Outcome State Fault Refusal :=
  .next (if value.getLsbD 63 then s.writePrmt value else s)

/-- A checkpoint begins (R452). -/
def State.beginCheckpoint (s : State) (man : Nat) : State :=
  let names := s.teamsWhere fun t => decide (1 ≤ t.prio) && !t.faulted && !t.discard
  match s.askTeams names with
  | some s1 =>
    ({ s1 with pool := { s1.pool with ck := some { man := man, restore := false, waits := names, gens := [] } }
               pkg := { s1.pkg with ckctl := (s1.pkg.ckctl &&& 0x000FFFFFFFFFF008) ||| 4 } } : State).ckFinish
  | none => { s with pkg := { s.pkg with ckctl := ckDone s.pkg.ckctl 4 } }

/-- The entries of a manifest: address, TASKID, TEAMID, GEN, LEN (R452). -/
def manEntries (bs : List Byte) : Nat → List (Nat × Nat × Nat × Nat × Nat)
  | 0 => []
  | n + 1 =>
    let f (o k : Nat) : Nat := leNat ((bs.drop o).take k)
    (f 0 8, f 8 4, f 12 4, f 16 8, f 24 4) :: manEntries (bs.drop 32) n

/-- The images of a manifest's entries, or the first error (R453). -/
def State.manImages (s : State) : List (Nat × Nat × Nat × Nat × Nat) → Nat ⊕ List Image
  | [] => .inr []
  | (addr, _, _, gen, len) :: r =>
    match s.checkImage addr len gen with
    | .inl k => .inl k
    | .inr im => match s.manImages r with | .inl k => .inl k | .inr ims => .inr (im :: ims)

/-- The checks of a restore, in order (R453); entries beyond the pool's 4,096 tasks of 65,535 teams cannot be. -/
def State.checkManifest (s : State) (man : Nat) : Nat ⊕ List Image :=
  let h := s.homeBytes man 64
  let f (o k : Nat) : Nat := leNat ((h.drop o).take k)
  let n := f 12 4
  let body := s.homeBytes (man + 64) (32 * n)
  let es := manEntries body n
  if crc32c (h.take 8 ++ leBytes 4 0 ++ h.drop 12 ++ body) ≠ f 8 4 then .inl 1
  else if BitVec.ofNat 64 (f 16 8) ≠ s.pkg.ckboot then .inl 6
  else if f 0 8 < s.pkg.ckmin.toNat then .inl 2
  else if es.any fun e => (klookup s.pool.tasks e.2.1).isNone then .inl 3
  else s.manImages es

/-- What a restore reads: the manifest, and the images it names. -/
def State.restoreRuns (s : State) (man : Nat) : List (Nat × Nat) :=
  let n := leNat (s.homeBytes (man + 12) 4)
  (man, 64 + 32 * n) :: (manEntries (s.homeBytes (man + 64) (32 * n)) n).map fun e => (e.1, e.2.2.2.2)

/-- A restore begins (R453): nothing where a check fails, else the resident teams of its tasks are discarded first. While the manifest or
an image is excluded it has not begun (R336, R341). -/
def State.beginRestore (s : State) (man : Nat) : State :=
  let busy : PkgRegs := { s.pkg with ckctl := (s.pkg.ckctl &&& 0x000FFFFFFFFFF008) ||| 4 }
  if s.poolWaits (s.restoreRuns man) false then
    { s with pool := { s.pool with ck := some { man := man, restore := true, waits := [], gens := [], begun := false } }, pkg := busy }
  else
  let s : State := { s.poolReads (s.restoreRuns man) with pool := { s.pool with ck := none } }
  match s.checkManifest man with
  | .inl k => { s with pkg := { s.pkg with ckctl := ckDone s.pkg.ckctl k } }
  | .inr ims =>
    let names := s.teamsWhere fun t => ims.any fun im => im.team.task == t.task
    let s1 := names.foldl (fun s t => s.modTeam t fun tm => { tm with discard := true, asked := none }) s
    ({ s1 with pool := { s1.pool with ck := some { man := man, restore := true, waits := names, gens := ims.map (·.gen) } }
               pkg := { s1.pkg with ckctl := (s1.pkg.ckctl &&& 0x000FFFFFFFFFF008) ||| 4 } } : State).ckFinish

/-- What the pool has to bring to an end is taken up again. -/
def State.poolStep (s : State) : State :=
  match s.pool.ck with
  | some k => if k.begun then s.ckFinish else s.beginRestore k.man
  | none => s

/-- A write of CKCTL (R452 to R454): DONE is cleared by a 1, and OP is ignored while BUSY. -/
def State.writeCkctl (s : State) (v : W64) : State :=
  let old := s.pkg.ckctl
  let keep := (v &&& 0x000FFFFFFFFFF000) ||| (old &&& 0xF4) ||| (if v.getLsbD 3 then 0 else old &&& 8)
  let s1 := { s with pkg := { s.pkg with ckctl := keep } }
  let man := (v.extractLsb' 12 40).toNat * 2 ^ 12
  if old.getLsbD 2 then s1
  else match (v.extractLsb' 0 2).toNat with
    | 1 => s1.beginCheckpoint man
    | 2 => s1.beginRestore man
    | _ => s1

/-- CKCTL_CHECKPOINT (R452). -/
def execCkctlCheckpoint (value : W64) (s : State) : Host.Outcome State Fault Refusal :=
  .next (if value.extractLsb' 0 2 = 1 then s.writeCkctl value else s)

/-- CKCTL_RESTORE (R453). -/
def execCkctlRestore (value : W64) (s : State) : Host.Outcome State Fault Refusal :=
  .next (if value.extractLsb' 0 2 = 2 then s.writeCkctl value else s)

end Sys2Proof.Machine
end

