-- ==== Sys2Proof/Machine/Sched.lean ====
section
/-!
DEFINITION. Dispatch (14_time.md R443 to R448): order, quotas, placement, launch and restore, aging, the choice of victims; host
tasks and the mailbox (R438, R444); the scrub of a pair (16_tenancy.md R483).
-/

namespace Sys2Proof.Machine

/-! ## Order -/

/-- Tasks that the dispatcher considers: ready, for the device, with teams to place (R445). -/
def Task.waits (k : Task) : Bool := !k.record.host && k.order != 0 && !k.faulted && k.slots.any slotWaits

/-- The dispatcher's order (R445): by level, then by the order of entry. -/
def taskBefore (a b : Nat × Task) : Bool :=
  decide (a.2.level < b.2.level) || (a.2.level == b.2.level && decide (a.2.order ≤ b.2.order))
def State.dispatchOrder (s : State) : List (Nat × Task) := sortBy taskBefore (s.pool.tasks.filter fun e => e.2.waits)

def slotThere : TeamSlot → Bool
  | .resident _ => true
  | _ => false

/-- The slots that a task places next, by TEAMID: one, or all of a co-resident task, which waits until none of its teams is resident
(R84, R445). -/
def Task.nextSlots (k : Task) : List Nat :=
  let ws := (k.slots.zipIdx.filter fun e => slotWaits e.1).map (·.2)
  if !k.record.cores then ws.take 1 else if k.slots.any slotThere then [] else ws

/-! ## Quotas -/

/-- The entry of the quota table of a tenant (R447). -/
def State.quotaAt (s : State) (asid : Nat) : Nat := (s.pkg.qtbase.extractLsb' 19 33).toNat * 2 ^ 19 + 8 * asid

/-- CORQ and TUNQ of a tenant (R447); none where no limit holds. -/
def State.quota (s : State) (asid : Nat) : Option Nat × Option Nat :=
  let base := (s.pkg.qtbase.extractLsb' 19 33).toNat * 2 ^ 19
  if base = 0 then (none, none)
  else
    let e := leNat (s.homeBytes (s.quotaAt asid) 8)
    (if bitsOf e 7 0 = 255 then none else some (bitsOf e 7 0), if bitsOf e 29 16 = 16383 then none else some (bitsOf e 29 16))

/-- Cores on which a tenant has teams, and the tun slots it holds. -/
def State.tenantCores (s : State) (asid : Nat) : List Nat :=
  (s.teams.filter fun e => e.2.asid == asid).flatMap fun e => placeCores e.2.paired e.2.core
def State.tenantTun (s : State) (asid : Nat) : Nat :=
  ((s.teams.filter fun e => e.2.asid == asid).map fun e => e.2.tun * (if e.2.paired then 2 else 1)).sum

/-- The quotas are met with teams of a record placed on `cores` more (R446, R447); level 0 has none. -/
def State.quotaMet (s : State) (r : Record) (cores : List Nat) : Bool :=
  let q := s.quota r.asid
  r.prio == 0
    || ((match q.1 with | some n => decide ((s.tenantCores r.asid ++ cores).dedup.length ≤ n) | none => true)
      && (match q.2 with | some n => decide (s.tenantTun r.asid + r.tun * cores.length ≤ n) | none => true))

/-! ## Places -/

/-- The lowest-numbered place of one team more, given what is planned (R446). -/
def State.findPlace (s : State) (use : Nat → CoreUse) (plan : KMap CoreUse) (r : Record) (traps : Bool) (done : List Nat) :
    Option (Nat × KMap CoreUse) :=
  let cores := if r.paired then (List.range 120).map (2 * ·) else List.range 240
  cores.findSome? fun c =>
    match tryPlace use plan r traps c with
    | some p => if s.quotaMet r (done ++ placeCores r.paired c) then some (c, p) else none
    | none => none

/-- Places for n teams at once. -/
def State.findPlaces (s : State) (use : Nat → CoreUse) (r : Record) (traps : Bool) : Nat → KMap CoreUse → List Nat → Option (List Nat)
  | 0, _, _ => some []
  | n + 1, plan, done =>
    match s.findPlace use plan r traps done with
    | some (c, p) => (s.findPlaces use r traps n p (done ++ placeCores r.paired c)).map (c :: ·)
    | none => none

/-- An image that fails its checks (R451). -/
def State.badImage (s : State) (x : TeamSlot) : Bool :=
  match x with
  | .imaged im => (match s.checkImage im.addr im.len im.gen with | .inl _ => true | .inr _ => false)
  | _ => false

/-- A restore in progress names the task (R453). -/
def State.restoring (s : State) (id : Nat) : Bool :=
  match s.pool.ck with
  | some k => k.restore && k.gens.any fun g => match klookup s.pool.images g with | some im => im.team.task == id | none => false
  | none => false

/-- The next teams of a task are not to be placed: none are due, the cores are not released into dispatch (R23), the tenant is contained or
an image held (R493), or a restore is under way (R453). -/
def State.barred (s : State) (id : Nat) (k : Task) : Bool :=
  k.nextSlots.isEmpty || s.xa.stage < 4 || s.contained k.record.asid || k.nextSlots.any (fun i => slotHeld (k.slots.getD i .dead))
    || s.restoring id

/-- Where the next teams of a task go (R445, R446); none where they are barred, an image fails its checks (R451) or there is no room. -/
def State.placesFor (s : State) (id : Nat) (k : Task) : Option (List Nat) :=
  let ws := k.nextSlots
  if s.barred id k || ws.any (fun i => s.badImage (k.slots.getD i .dead)) then none
  else s.findPlaces s.useOf k.record (s.trapsFor k.record.asid) ws.length [] []

/-- A task may be placed now: no task before it in order can be (R445). -/
def State.mayPlace (s : State) (id : Nat) : Option (List Nat) :=
  match s.dispatchOrder.find? fun e => (s.placesFor e.1 e.2).isSome with
  | some e => if e.1 = id then s.placesFor e.1 e.2 else none
  | none => none

/-! ## Launch and restore -/

/-- The quarter, slot and half of the next group on a core (R76, R77). -/
def State.seatOf (s : State) (core q0 i : Nat) : Nat × Nat × Nat :=
  let q := (q0 + i) % 4
  let gs := (s.groups.map Prod.snd).filter fun g => g.core == core && g.quarter == q
  let slot := ((List.range 8).find? fun n => gs.all fun g => g.slot != n).getD 0
  (q, slot, (gs.filter fun g => g.width == 16).length % 2)

/-- A group at launch (R109, R168, R446). -/
def launchGroup (task : Nat) (r : Record) (teamid tnum grpid : Nat) : Group :=
  { team := tnum, grpid := grpid, width := r.width, nrows := r.rows, core := 0, quarter := 0, slot := 0, half := 0, service := false
    sup := false, pc := r.entry, scal := if r.arg = 0 then [] else [(1, r.arg)]
    lanes := (List.range r.width).map fun l => { sr := srSeed task teamid grpid l } }

/-- Groups seated one after another, `q0` by core (R76); each keeps its number. -/
def State.seatGroups (s : State) (core per : Nat) (paired : Bool) : List (Nat × Group) → State
  | [] => s
  | (gid, g) :: r =>
    let c := if paired then 2 * pairOf core + g.grpid / max per 1 else core
    let i := if paired then g.grpid % max per 1 else g.grpid
    let peers := (s.groups.map Prod.snd).filter fun x => x.core == c && x.team == g.team
    let q0 := match peers.find? fun x => (if paired then x.grpid % max per 1 else x.grpid) == 0 with
      | some x => x.quarter
      | none => firstQuarter (s.useOf c).quarters
    let (q, slot, half) := s.seatOf c q0 i
    let g1 : Group := { g with core := c, quarter := q, slot := slot, half := half, readyAt := s.clock + 1, born := s.free }
    (s.setGroup gid g1).seatGroups core per paired r

/-- The number of a team while it is resident. -/
def teamNumber (task teamid : Nat) : Nat := task * 65536 + teamid

/-- A new team starts (R109, R218, R446). -/
def State.launchTeam (s : State) (task : Nat) (k : Task) (teamid core : Nat) : State :=
  let r := k.record
  let n := teamNumber task teamid
  let count := if r.paired then 2 * r.groups else r.groups
  let t : Team :=
    { task := task, teamid := teamid, asid := r.asid, core := core, paired := r.paired, ngroup := r.groups, sbytes := 4096 * r.scratch
      tun := r.tun, txok := r.txok, locbase := r.locbase, locsize := r.locsize, prio := r.prio, trapsOn := s.trapsFor r.asid
      placedAt := s.clock }
  let gs := (List.range count).map fun i => (s.nextGid + i, launchGroup task r teamid n i)
  ({ s.setTeam n t with nextGid := s.nextGid + count } : State).seatGroups core r.groups r.paired gs

/-- An operation of a restored team works for the core of its group. -/
def rehome (core : Nat → Nat) (o : Op) : Op :=
  match o with
  | .card c => .card { c with iss := { c.iss with core := core c.iss.gid } }
  | .join j => .join { j with iss := { j.iss with core := core j.iss.gid } }
  | .fetch f => .fetch { f with iss := { f.iss with core := core f.iss.gid } }
  | o => o

/-- A pre-empted team starts again from its image (R451, R73). -/
def State.restoreTeam (s : State) (im : Image) (core : Nat) : State :=
  let t : Team := { im.team with core := core, placedAt := s.clock, trapsOn := s.trapsFor im.team.asid }
  let s1 := (s.setTeam im.tnum t).seatGroups core t.ngroup t.paired im.groups
  let home (gid : Nat) : Nat := match klookup s1.groups gid with | some g => g.core | none => core
  let ops := im.ops.map fun e => (e.1, rehome home e.2)
  let hz := im.hazards.map fun h =>
    { h with core := match ops.find? fun e => e.1 == h.op with
        | some (_, .card c) => c.iss.core
        | some (_, .join j) => j.iss.core
        | some (_, .fetch f) => f.iss.core
        | _ => core }
  { s1 with ops := ops.foldl (fun m e => kput m e.1 e.2) s1.ops, hazards := s1.hazards ++ hz }

/-- A core that takes a team: the SRAM of its allocation leaves the L1 (R215 to R217), and no unowned line stays that could hold values from
before the team's earlier accesses or those it follows (R292, R299, R443). -/
def State.takeSram (s : State) (core asid : Nat) : State := (s.trimL1 core asid).acquireAt core

/-- The slot of a team once it is placed. -/
def State.placeTeam (s : State) (task : Nat) (k : Task) (i core : Nat) : State :=
  let s1 := match k.slots.getD i .dead with
    | .imaged im => s.restoreTeam im core
    | _ => s.launchTeam task k i core
  let s2 := s1.putSlotOf task i (.resident (teamNumber task i))
  let s3 := (placeCores k.record.paired core).foldl (fun s c => s.takeSram c k.record.asid) s2
  { s3 with pool := { s3.pool with pairAsid := kput s3.pool.pairAsid (pairOf core) k.record.asid } }

/-- What the dispatcher reads for a task: its tenant's trap bit (R461) and quotas (R447), and the images of its next teams (R451). -/
def State.dispatchRuns (s : State) (k : Task) : List (Nat × Nat) :=
  (s.trapsAt k.record.asid, 1) :: (if s.quotaAt 0 = 0 then [] else [(s.quotaAt k.record.asid, 8)])
    ++ k.nextSlots.filterMap fun i => match k.slots.getD i .dead with | .imaged im => some (im.addr, im.len) | _ => none

/-- The next teams of a task placed. A pair whose last team had another ASID is scrubbed first (R483). -/
def State.placeNext (s : State) (task : Nat) (k : Task) (cores : List Nat) : State :=
  let dirty := ((cores.map pairOf).filter fun p => (klookup s.pool.pairAsid p).any fun a => a != k.record.asid) ++
    (cores.map pairOf).filter fun p => s.pool.scrubs.contains p
  if !dirty.isEmpty then { s with pool := { s.pool with scrubs := dirty.foldl addLine s.pool.scrubs } }
  else
    let s1 := (k.nextSlots.zip cores).foldl (fun s e => s.placeTeam task k e.1 e.2) s
    { s1 with pool := { s1.pool with tasks := kmap s1.pool.tasks task fun k => { k with since := s.clock } } }

/-- DISPATCH_PLACE (R445, R446, R451, R483): the next team of the first task in order that can be placed. A team whose image fails its
checks is not placed, which hub H0 logs. -/
def execDispatchPlace (task : Nat) (s : State) : Host.Outcome State Fault Refusal :=
  match klookup s.pool.tasks task with
  | some k =>
    if s.poolWaits (s.dispatchRuns k) false then .next s
    else
      match s.mayPlace task with
      | some cores => .next ((s.poolReads (s.dispatchRuns k)).placeNext task k cores)
      | none =>
        if k.waits && !s.barred task k && k.nextSlots.any fun i => s.badImage (k.slots.getD i .dead) then
          .next ((s.poolReads (s.dispatchRuns k)).report (hubLog 0) 15 k.record.asid 0 task)
        else .next s
  | none => .next s

/-! ## Scrubbing -/

/-- PAIR_SCRUB (R483): the rows, scratchpad and tun slots of a pair without teams hold nothing, so that what is left is its fetch
caches, its L1 lines and the entries of its L1 TLBs with G = 0. -/
def execPairScrub (pair : Nat) (s : State) : Host.Outcome State Fault Refusal :=
  if !s.pool.scrubs.contains pair || s.teams.any fun e => pairOf e.2.core == pair && e.2.asid != 0 then .next s
  else
    let on (c : Nat) : Bool := pairOf c == pair
    .next { s with
      pool := { s.pool with scrubs := s.pool.scrubs.filter (fun p => p != pair), pairAsid := kerase s.pool.pairAsid pair }
      mem := { s.mem with
        fcache := s.mem.fcache.filter fun x => !on x.core
        l1 := s.mem.l1.filter fun x => !on x.core
        atom := s.mem.atom.map fun e => if e.2.owner.any on then (e.1, { e.2 with owner := none }) else e
        tlb := s.mem.tlb.filter fun x => !(x.l1 && on x.unit) || pteG x.pte } }

/-! ## Aging -/

/-- Clocks of a time in microseconds. -/
def State.usClocks (s : State) (us : Nat) : Nat := us * s.plat.mhz

/-- AGING_STEP (R445). -/
def execAgingStep (task : Nat) (s : State) : Host.Outcome State Fault Refusal :=
  match klookup s.pool.tasks task with
  | some k =>
    if k.waits && decide (2 ≤ k.level ∧ k.since + s.usClocks (s.pkg.pquant.extractLsb' 32 32).toNat ≤ s.clock) then
      let n := s.pool.seq + 1
      .next { s with pool := { s.pool with seq := n, tasks := kput s.pool.tasks task { k with level := k.level - 1, order := n, since := s.clock } } }
    else .next s
  | none => .next s

/-! ## Pre-emption by the dispatcher -/

/-- A resident team's effective priority. -/
def State.teamLevel (s : State) (t : Team) : Nat := match klookup s.pool.tasks t.task with | some k => k.level | none => t.prio

/-- A team that may be a victim for a level (R448). -/
def State.mayYield (s : State) (lvl : Nat) (t : Team) : Bool :=
  decide (lvl < s.teamLevel t ∧ t.placedAt + s.usClocks (s.pkg.pquant.extractLsb' 0 32).toNat ≤ s.clock)
    && t.asked.isNone && !t.faulted && !t.discard

/-- Victims by unit, a co-resident task being one (R84, R448): lowest priority first, then the most recently placed. -/
def State.victims (s : State) (lvl : Nat) : List (List Nat) :=
  let vs := s.teams.filter fun e => s.mayYield lvl e.2
  let before (a b : Nat × Team) : Bool :=
    decide (s.teamLevel b.2 < s.teamLevel a.2) || (s.teamLevel a.2 == s.teamLevel b.2 && decide (b.2.placedAt ≤ a.2.placedAt))
  let whole (t : Team) : Bool := match klookup s.pool.tasks t.task with | some k => k.record.cores | none => false
  let unit (e : Nat × Team) : List Nat :=
    if whole e.2 then (if (s.teams.filter fun x => x.2.task == e.2.task).all fun x => s.mayYield lvl x.2 then s.teamsWhere fun x => x.task == e.2.task else [])
    else [e.1]
  ((sortBy before vs).map unit).filter fun u => !u.isEmpty

/-- The use of a core without some teams. -/
def State.useWithout (s : State) (gone : List Nat) (core : Nat) : CoreUse :=
  ({ s with groups := s.groups.filter fun e => !gone.contains e.2.team, teams := s.teams.filter fun e => !gone.contains e.1 } : State).useOf core

/-- The fewest victims, in order, that free enough room (R448). -/
def State.enoughVictims (s : State) (k : Task) (chosen : List Nat) : List (List Nat) → Option (List Nat)
  | [] => none
  | u :: r =>
    let gone := (chosen ++ u).dedup
    let s1 : State := { s with teams := s.teams.filter fun e => !gone.contains e.1, groups := s.groups.filter fun e => !gone.contains e.2.team }
    if (s1.findPlaces s1.useOf k.record (s.trapsFor k.record.asid) k.nextSlots.length [] []).isSome then some gone
    else s.enoughVictims k gone r

/-- DISPATCHER_PREEMPT (R448): for a ready task that cannot be placed. -/
def execDispatcherPreempt (task : Nat) (s : State) : Host.Outcome State Fault Refusal :=
  match klookup s.pool.tasks task with
  | some k =>
    if !k.waits || s.barred task k || (s.placesFor task k).isSome || s.heapSize = 0
        || k.nextSlots.any (fun i => s.badImage (k.slots.getD i .dead)) then .next s
    else
      match s.enoughVictims k [] (s.victims k.level) with
      | some gone => .next ((s.askTeams gone).getD s)
      | none => .next s
  | none => .next s

/-! ## Host tasks and the mailbox -/

/-- HOST_TASK_POST (R444): the 16-byte entry of a ready host task, while the ring has room. -/
def execHostTaskPost (task : Nat) (s : State) : Host.Outcome State Fault Refusal :=
  match klookup s.pool.tasks task with
  | some k =>
    let n := 2 ^ (s.pkg.htq.extractLsb' 0 4).toNat
    let put : BitVec 32 := s.pkg.htqptr.extractLsb' 0 32
    let get : BitVec 32 := s.pkg.htqptr.extractLsb' 32 32
    let pa := (s.pkg.htq.extractLsb' 12 40).toNat * 2 ^ 12 + 16 * (put.toNat % n)
    if !k.record.host || k.order = 0 || k.posted || decide (n ≤ (put - get).toNat) || s.poolWaits [(pa, 16)] true then .next s
    else
      let s1 := s.writeRun poolAgent 0 pa (leBytes 8 (task % 2 ^ 32) ++ leBytes 8 k.recAddr)
      .next { s1 with
        pkg := { s1.pkg with htqptr := (get ++ (put + 1) : BitVec 64) }
        pool := { s1.pool with irq40 := true, tasks := kput s1.pool.tasks task { k with posted := true } } }
  | none => .next s

/-- HTDONE (R444). -/
def execHtdone (value : W64) (s : State) : Host.Outcome State Fault Refusal := .next (s.hostDone value)

/-- The record in the mailbox is submitted (R436, R438); while the bitmap at TRAPEN is excluded the submission is in progress. -/
def State.mailboxSubmit (s : State) : State :=
  if s.trapsWait then { s with pool := { s.pool with mbstat := s.pool.mbstat ||| 0x100 } }
  else
    let (s1, code, id) := s.submit .mailbox none 0 (kgetRun 0 s.pool.mbrec 0 128)
    let last := if code = 0 then id else (s.pool.mbstat.extractLsb' 32 32).toNat
    { s1 with pool := { s1.pool with mbstat := BitVec.ofNat 64 (last * 2 ^ 32 + code) } }

/-- The mailbox's doorbell (R438): a write of 1 submits the record; it is ignored while BUSY. -/
def State.doorbell (s : State) (value : W64) : State :=
  if value ≠ 1 ∨ s.pool.mbstat.getLsbD 8 then s else s.mailboxSubmit

/-- What the pool and its mailbox have begun and not ended goes on. -/
def State.poolTurn (s : State) : State :=
  let s := s.poolStep
  if s.pool.mbstat.getLsbD 8 then s.mailboxSubmit else s

/-- MAILBOX_DOORBELL (R438). -/
def execMailboxDoorbell (value : W64) (s : State) : Host.Outcome State Fault Refusal := .next (s.doorbell value)

end Sys2Proof.Machine
end

