-- ==== Sys2Proof/Machine/CtlRegs.lean ====
section
/-!
DEFINITION. The supervisor control registers (15_traps.md R463, R465, R475; 07_local.md R221; 08_memory.md R270; 13_engines.md
R420, R430; 14_time.md R454): their numbers, what each reads as, and what a write keeps.
-/

namespace Sys2Proof.Machine

/-- A control register by name. `log` is a word of an error log: of the issuing die (`none`) or of a hub. -/
inductive CtlReg where
  | tvbase | tpc | tmask | tnest | tcause | tval | rstat | rentry | trapen | tfmode | tsrst | evpend | evmask
  | apscr | appair | aploc | ptroot | fbctl | fbput | fbget | fbstat | fabcfg | ilcfg | lstat (link : Nat)
  | pquant | qtbase | imgheap | prmt | ckctl | ckgen | ckmin | htq | htqptr | ckboot
  | log (hub : Option Nat) (off : Nat)
  deriving DecidableEq, Repr

/-- The register with a number (R463). -/
def ctlRegAt (n : Nat) : Option CtlReg :=
  match n with
  | 0x000 => some .tvbase | 0x001 => some .tpc | 0x002 => some .tmask | 0x003 => some .tnest | 0x004 => some .tcause
  | 0x005 => some .tval | 0x006 => some .rstat | 0x007 => some .rentry | 0x008 => some .trapen | 0x009 => some .tfmode
  | 0x00A => some .tsrst | 0x010 => some .evpend | 0x011 => some .evmask | 0x020 => some .apscr | 0x021 => some .appair
  | 0x022 => some .aploc | 0x030 => some .ptroot | 0x040 => some .fbctl | 0x041 => some .fbput | 0x042 => some .fbget
  | 0x043 => some .fbstat | 0x050 => some .fabcfg | 0x051 => some .ilcfg | 0x080 => some .pquant | 0x081 => some .qtbase
  | 0x082 => some .imgheap | 0x083 => some .prmt | 0x084 => some .ckctl | 0x085 => some .ckgen | 0x086 => some .ckmin
  | 0x087 => some .htq | 0x088 => some .htqptr | 0x089 => some .ckboot
  | n =>
    if 0x060 ≤ n ∧ n < 0x072 then some (.lstat (n - 0x060))
    else if 0x100 ≤ n ∧ n < 0x140 then some (.log none (n - 0x100))
    else if 0x200 ≤ n ∧ n < 0x240 then some (.log (some 0) (n - 0x200))
    else if 0x300 ≤ n ∧ n < 0x340 then some (.log (some 1) (n - 0x300))
    else none

/-- A lane-scope register (R463), and the type of the row it is read into or written from. -/
def ctlLane : CtlReg → Option Ty
  | .tnest => some .b32
  | .tcause => some .b32
  | .tval => some .n64
  | .tsrst => some .b32
  | _ => none

/-- A register that software only reads (R463, R454, R475). -/
def ctlRo : CtlReg → Bool
  | .tmask => true
  | .rentry => true
  | .fbput => true
  | .ilcfg => true
  | .lstat _ => true
  | .ckgen => true
  | .ckboot => true
  | .log _ off => off == 0 || decide (0x10 ≤ off)
  | _ => false

/-- LSTAT of a link (R430). -/
def lstatWord (x : Link) : W64 :=
  (x.lanebad ++ x.txseq ++ x.acked ++ x.replays ++ x.crcerr ++ 0#4 ++ BitVec.ofNat 4 x.state : BitVec 64)

/-- RSTAT (R463). -/
def rstatWord (g : Group) : W64 :=
  (0#48 ++ g.rcnt ++ g.rrlim ++ 0#2 ++ BitVec.ofBool g.nesterr ++ BitVec.ofBool g.ractive : BitVec 64)

/-- Number of an error log as a group of a core names it. -/
def logUnit (core : Nat) : Option Nat → Nat
  | none => dieOf core
  | some hub => hubLog hub

/-- A word of an error log (R475). An offset without a register reads zero, and so do offsets 0x20 to 0x3F of an entry that has not been
written, whose reset value the manual does not give (DESIGN CHOICE, log 67). -/
def logWord (x : ErrLog) (off : Nat) : W64 :=
  if off = 0 then x.put.setWidth 64
  else if off = 1 then x.get.setWidth 64
  else if off = 2 then x.ovf.setWidth 64
  else if off < 0x10 then 0
  else if off < 0x20 then (kget 0 x.cnt (off - 0x10)).setWidth 64
  else (kget 0 x.ent ((off - 0x20) / 2)).extractLsb' (64 * (off % 2)) 64

/-- What a register of group scope or wider reads as, for a group (R463). -/
def State.ctlRead (s : State) (g : Group) (r : CtlReg) : W64 :=
  let d := s.die (dieOf g.core)
  match r with
  | .tvbase => d.tvbase
  | .tpc => g.tpc
  | .tmask => g.tmask
  | .rstat => rstatWord g
  | .rentry => g.rentry
  | .trapen => s.pkg.trapen
  | .tfmode => g.tfmode.setWidth 64
  | .evpend => d.evpend
  | .evmask => d.evmask
  | .apscr => d.apscr
  | .appair => d.appair
  | .aploc => d.aploc
  | .ptroot => s.pkg.ptroot
  | .fbctl => d.fbctl
  | .fbput => d.fbput.setWidth 64
  | .fbget => d.fbget.setWidth 64
  | .fbstat => d.fbstat
  | .fabcfg => s.pkg.fabcfg
  | .ilcfg => s.pkg.ilcfg
  | .lstat k => lstatWord (s.link k)
  | .pquant => s.pkg.pquant
  | .qtbase => s.pkg.qtbase
  | .imgheap => s.pkg.imgheap
  | .prmt => s.pkg.prmt
  | .ckctl => s.pkg.ckctl
  | .ckgen => s.pkg.ckgen
  | .ckmin => s.pkg.ckmin
  | .htq => s.pkg.htq
  | .htqptr => s.pkg.htqptr
  | .ckboot => s.pkg.ckboot
  | .log h off => logWord (kget {} s.logs (logUnit g.core h)) off
  | _ => 0

/-- What a lane-scope register reads as in a lane (R463). -/
def ctlLaneRead (ln : Lane) (r : CtlReg) : W64 :=
  match r with
  | .tnest => BitVec.ofNat 64 ln.tnest
  | .tcause => ln.tcause.setWidth 64
  | .tval => ln.tval
  | .tsrst => ln.tsrst.setWidth 64
  | _ => 0

/-- A write of a lane-scope register in a lane: TNEST stores at most 16 (R463). -/
def ctlLaneWrite (r : CtlReg) (v : W64) (ln : Lane) : Lane :=
  match r with
  | .tnest => { ln with tnest := min v.toNat 16 }
  | .tcause => { ln with tcause := v.setWidth 8 }
  | .tval => { ln with tval := v }
  | .tsrst => { ln with tsrst := v.setWidth 32 }
  | _ => ln

/-- A change of the registers of a die, and of the package. -/
def State.modDie (s : State) (d : Nat) (f : DieRegs → DieRegs) : State := s.setDie d (f (s.die d))
def State.modPkg (s : State) (f : PkgRegs → PkgRegs) : State := { s with pkg := f s.pkg }

/-- The PUT half of HTQPTR is read-only (R454). -/
def htqptrAfter (old v : W64) : W64 := (v &&& 0xFFFFFFFF00000000) ||| (old &&& 0xFFFFFFFF)

/-- A write to FBSTAT (R270): DROPPED is cleared by a 1, DROPCNT is written. -/
def fbstatAfter (old v : W64) : W64 := (v &&& 0xFFFFFFFF) ||| (old &&& ~~~v &&& 0x100000000)

/-- A write of a register of group scope or wider (R5, R7, R463): reserved fields are ignored. -/
def State.ctlWrite (s : State) (gid : Nat) (g : Group) (r : CtlReg) (v : W64) : State :=
  let d := dieOf g.core
  match r with
  | .tvbase => s.modDie d fun x => { x with tvbase := v &&& 0xFFFFFFFFFFFFF000 }
  | .tpc => s.modGroup gid fun g => { g with tpc := v }
  | .rstat => s.modGroup gid fun g => { g with rrlim := v.extractLsb' 4 4 }
  | .trapen => s.modPkg fun x => { x with trapen := v &&& 0x000FFFFFFFFFE000 }
  | .tfmode => s.modGroup gid fun g => { g with tfmode := v.setWidth 32 &&& 0x3F }
  | .evpend => s.modDie d fun x => { x with evpend := x.evpend &&& ~~~(v &&& 0x3F) }
  | .evmask => s.modDie d fun x => { x with evmask := v }
  | .apscr => s.modDie d fun x => { x with apscr := v &&& 0xFFFFFFFF00000000 }
  | .appair => s.modDie d fun x => { x with appair := v &&& 0xFFFFFFFF00000000 }
  | .aploc => s.modDie d fun x => { x with aploc := v &&& 0xFFFFFFFF00000000 }
  | .ptroot => s.modPkg fun x => { x with ptroot := v &&& 0x000FFFFFFFF80000 }
  | .fbctl => s.modDie d fun x => { x with fbctl := v &&& 0x000FFFFFFFFE001F }
  | .fbget => s.modDie d fun x => { x with fbget := v.setWidth 32 }
  | .fbstat => s.modDie d fun x => { x with fbstat := fbstatAfter x.fbstat v }
  | .fabcfg => s.modPkg fun x => { x with fabcfg := v &&& 0x000000FFFFFF02FF }
  | .pquant => s.modPkg fun x => { x with pquant := v }
  | .qtbase => s.modPkg fun x => { x with qtbase := v &&& 0x000FFFFFFFF80000 }
  | .imgheap => s.modPkg fun x => { x with imgheap := v &&& 0xFFFFFFFFFC000000 }
  | .prmt => s.writePrmt v
  | .ckctl => s.writeCkctl v
  | .ckmin => s.modPkg fun x => { x with ckmin := v }
  | .htq => s.modPkg fun x => { x with htq := v &&& 0x000FFFFFFFFFF00F }
  | .htqptr => s.modPkg fun x => { x with htqptr := htqptrAfter x.htqptr v }
  | .log h off =>
    let u := logUnit g.core h
    let x := kget {} s.logs u
    if off = 1 then { s with logs := kput s.logs u { x with get := v.setWidth 32 } }
    else if off = 2 then { s with logs := kput s.logs u { x with ovf := v.setWidth 32 } }
    else s
  | _ => s

end Sys2Proof.Machine
end

