-- ==== Sys2Proof/Machine/System.lean ====
section
/-!
DEFINITION. The system instructions (15_traps.md R458, R466 to R471, R477 to R480): sys, sret, bkpt, sigchk, ireg, halt, zget, zset.
-/

namespace Sys2Proof.Machine

/-- The common shape of a system instruction: TYPE 0, MODS 0, no block (R477). -/
def sysShape (minor : Nat) (h : Head) : Shape :=
  { major := 0xF0, minor := minor, tyOk := h.ty == .b32, modsOk := h.mods == 0 }

/-- A cause in lanes with one TVAL. -/
def sameVal (ls : List Nat) (v : W64) : List (Nat × W64) := ls.map fun l => (l, v)

/-- SYS (R478, R456): SYSCALL in the participating lanes, saving the next address. -/
def execSys (h : Head) (s : State) : Host.Outcome State Fault Refusal :=
  issue (fun _ => { sysShape 0 h with b := fScalRaw, region := true }) h
    (outsideTx fun c s => if c.ps.isEmpty then .done s else .after s cSys (sameVal c.ps (readRaw c.g h.b))) s

/-- BKPT (R478, R456). -/
def execBkpt (h : Head) (s : State) : Host.Outcome State Fault Refusal :=
  issue (fun _ => { sysShape 2 h with b := fImm, region := true }) h
    (fun c s => if c.ps.isEmpty then .done s else .trap cBkpt (sameVal c.ps (readRaw c.g h.b))) s

/-- SRET (R458). -/
def execSret (h : Head) (s : State) : Host.Outcome State Fault Refusal :=
  issue (fun _ => { sysShape 1 h with always := true, super := true }) h
    (fun c s =>
      if c.ps.isEmpty then .done s
      else .stop ((s.returnTrap c.gid c.g).modGroup c.gid fun g => { g with readyAt := c.t + max (stallCount h.stall) 1 })) s

/-! ## Signatures and restart regions -/

/-- sigchk leaves SIG at its start value and NESTERR clear (R468). -/
def Group.resetSig (g : Group) : Group := { g.checkNest with sig := 0xFFFFFFFF, nesterr := false }

/-- TVAL of SIG_MISMATCH (R456): NESTERR above SIG. -/
def sigTval (g : Group) : W64 := (0#31 ++ BitVec.ofBool g.nesterr ++ g.sig : BitVec 64)

/-- sigchk in user mode (R468, R471): the check and the reset, a restart in an open region, or SIG_MISMATCH, which saves the next
address. -/
def sigCheck (imm : BitVec 19) (c : Ctx) (s : State) : Effect :=
  let g := c.g.checkNest
  if g.sig.extractLsb' 0 19 = imm ∧ !g.nesterr then c.onGroup s Group.resetSig
  else if g.ractive && !g.busy.isEmpty then .retry
  else if g.ractive && decide (g.rcnt.toNat < g.rrlim.toNat) then .stop (failOrRestart s c.gid g (s.asidOf g) fun s => s)
  else .after (s.modGroup c.gid fun g => (if g.ractive then g.endRegion else g).resetSig) cSig (sameVal c.g.wordLanes (sigTval g))

/-- SIGCHK (R468): no effect in supervisor mode. -/
def execSigchk (h : Head) (s : State) : Host.Outcome State Fault Refusal :=
  issue (fun _ => { sysShape 3 h with b := fImm, always := true, inactive := true }) h
    (fun c s =>
      match h.b with
      | .imm v => if c.g.sup then .done s else sigCheck v c s
      | _ => .done s) s

/-- A restart region opens at the next instruction (R469); the recorded SIG includes ireg's own word, which takes effect before it. -/
def Group.openRegion (h : Head) (g : Group) : Group :=
  { g.checkNest with
    rentry := g.pc + 12, rcnt := 0, ractive := true, rsig := foldSig g (!g.sup) 0xF0 4 h
    lanes := g.checkNest.lanes.map fun ln => if ln.eligible then { ln with regCnt := ln.cnt } else ln }

/-- IREG (R469). -/
def execIreg (h : Head) (s : State) : Host.Outcome State Fault Refusal :=
  issue (fun _ => { sysShape 4 h with always := true }) h
    (fun c s => if c.ps.isEmpty then .done s else c.onGroup s (Group.openRegion h)) s

/-! ## halt -/

/-- The events that end a halt of a die's group (R465, R480). -/
def State.wakeEvents (s : State) (core : Nat) : W64 := (s.die (dieOf core)).evpend &&& (s.die (dieOf core)).evmask

/-- halt takes its events: their AND to the destination, and the bits cleared, in one step (R480). -/
def State.takeEvents (s : State) (gid core dst : Nat) : State :=
  let ev := s.wakeEvents core
  (s.modDie (dieOf core) fun x => { x with evpend := x.evpend &&& ~~~ev }).modGroup gid fun g => g.setS dst ev

/-- HALT (R480). -/
def execHalt (h : Head) (s : State) : Host.Outcome State Fault Refusal :=
  issue (fun _ => { sysShape 5 h with d := fScal, always := true, super := true }) h
    (fun c s =>
      if c.ps.isEmpty then .done s
      else if s.wakeEvents c.g.core ≠ 0 then .done (s.takeEvents c.gid c.g.core (scalNum h.d))
      else .block s (.halt (scalNum h.d))) s

/-- HALT_WAKE (R480): a waiting halt ends; a halted team stays halted. -/
def execHaltWake (gid : Nat) (s : State) : Host.Outcome State Fault Refusal :=
  match klookup s.groups gid with
  | some g =>
    match g.wait with
    | .halt dst =>
      if s.wakeEvents g.core ≠ 0 && !s.groupHalted g then
        .next ((s.takeEvents gid g.core dst).modGroup gid fun g1 => (g.land s.free heldOp g1).completeHeld s.clock)
      else .next s
    | _ => .next s
  | none => .next s

/-! ## Supervisor registers -/

/-- The control register that a field names with cr; none for z0 to z15. -/
def crOf (h : Head) (f : Operand) : Option CtlReg := if h.mods.getLsbD 0 then ctlRegAt (clsNum f) else none

/-- The field that names a register: zK below 16, or with cr a number in [10:0] (R462, R477). -/
def crField (h : Head) : Fld := .cls (if h.mods.getLsbD 0 then 2048 else 16)

/-- An unassigned number is ILLEGAL_OP (R479). -/
def crAssigned (h : Head) (f : Operand) : Bool := !h.mods.getLsbD 0 || (ctlRegAt (clsNum f)).isSome

def zgetShape (h : Head) : Shape :=
  { major := 0xF1, minor := 0, tyOk := h.ty == .b32, modsOk := decide (h.mods.toNat < 2), super := true
    d := (match (crOf h h.a).bind ctlLane with | some ty => fRow ty | none => fScal)
    a := crField h, extra := must (crAssigned h h.a) }

/-- ZGET (R479): FBPUT is read as an acquire at .pkg scope (R508). -/
def execZget (h : Head) (s : State) : Host.Outcome State Fault Refusal :=
  issue (fun _ => zgetShape h) h
    (fun c s =>
      if c.ps.isEmpty then .done s
      else match crOf h h.a with
        | none => c.onGroup s fun g => g.setS (scalNum h.d) (kget 0 g.z (clsNum h.a))
        | some r =>
          if (ctlLane r).isSome then c.onGroup s (c.writeVec (zgetShape h) fun l => ctlLaneRead (c.g.lane l) r)
          else
            let s1 := s.modGroup c.gid fun g => g.setS (scalNum h.d) (s.ctlRead c.g r)
            .done (if r = .fbput then s1.acquireAt c.g.core else s1)) s

def zsetShape (h : Head) : Shape :=
  { major := 0xF1, minor := 1, tyOk := h.ty == .b32, modsOk := decide (h.mods.toNat < 2), super := true
    d := crField h
    a := (match (crOf h h.d).bind ctlLane with | some ty => fRow ty | none => fScalImm .n64)
    extra := must (crAssigned h h.d && !(match crOf h h.d with | some r => ctlRo r | none => false)) }

/-- ZSET (R479): the write is interlocked. -/
def execZset (h : Head) (s : State) : Host.Outcome State Fault Refusal :=
  issue (fun _ => zsetShape h) h
    (fun c s =>
      if c.ps.isEmpty then .done s
      else match crOf h h.d with
        | none => c.onGroup s fun g => { g with z := kset 0 g.z (clsNum h.d) (c.readA (zsetShape h) 0) }
        | some r =>
          if (ctlLane r).isSome then
            c.onGroup s fun g => g.modLanes c.ps fun l ln => ctlLaneWrite r (c.readA (zsetShape h) l) ln
          else .done (s.ctlWrite c.gid c.g r (c.readA (zsetShape h) 0))) s

end Sys2Proof.Machine
end

