-- ==== Sys2Proof/Machine/Tlb.lean ====
section
/-!
DEFINITION. The instructions on translations, parked accesses and ownership regions (08_memory.md R256, R280, R283 to R286), caps and
pmc (16_tenancy.md R498, R499), and their events.
-/

namespace Sys2Proof.Machine

/-! ## tlbi -/

def tlbiShape (h : Head) : Shape :=
  let form := (h.mods.extractLsb' 0 2).toNat
  { major := 0xF4, minor := 0, tyOk := h.ty == .b32, modsOk := decide (form ≤ 2 ∧ h.mods.toNat < (if form = 0 then 8 else 4))
    d := fScal, a := if form = 0 then fScal else .zero, b := if form = 2 then .zero else fScalRaw
    super := true, access := true
    extra := must (match h.b with | .imm v => decide (v.toNat < 2 ^ 16) | _ => true) }

/-- The translations that a tlbi drops (R284). -/
def tlbiDrops (h : Head) (a b : W64) (e : TlbEntry) : Bool :=
  let asid := (b.extractLsb' 0 16).toNat
  match (h.mods.extractLsb' 0 2).toNat with
  | 0 => decide (e.vpn ≤ a.toNat / 2 ^ 14 ∧ a.toNat / 2 ^ 14 < e.vpn + e.size) && (e.asid == asid || (pteG e.pte && h.mods.getLsbD 2))
  | 1 => e.asid == asid && !pteG e.pte
  | _ => true

/-- The cached table addresses that a tlbi drops (R266, R284). -/
def tlbiWalks (h : Head) (a b : W64) (w : WalkEntry) : Bool :=
  let asid := (b.extractLsb' 0 16).toNat
  match (h.mods.extractLsb' 0 2).toNat with
  | 0 => w.pre == vaAbove a.toNat w.level && (w.asid == asid || h.mods.getLsbD 2)
  | 1 => w.asid == asid
  | _ => true

/-- TLBI (R284): the entries leave at issue, and the token waits for the accesses that used them, or one that left a TLB before. -/
def execTlbi (h : Head) (s : State) : Host.Outcome State Fault Refusal :=
  issue (fun _ => tlbiShape h) h
    (fun c s =>
      if c.ps.isEmpty then .done s
      else
        let a := readNum c.g h.a
        let b := readRaw c.g h.b
        let p := tlbiDrops h a b
        let s1 := { s with mem := { s.mem with
          tlb := s.mem.tlb.filter fun e => !p e, ghosts := s.mem.ghosts.filter fun e => !p e
          walks := s.mem.walks.filter fun w => !tlbiWalks h a b w } }
        .done (s1.postToken c.gid (.tlbi c.gid (scalNum h.d) ((s.mem.tlb ++ s.mem.ghosts).filter p)) h.d)) s

/-- An access of an ASID at a virtual address used one of the dropped entries. -/
def usedDrop (drops : List TlbEntry) (asid va : Nat) : Bool := drops.any fun e => e.covers asid va

/-- A chunk in memory that was reached through one of the dropped entries. -/
def chunkDrop (drops : List TlbEntry) (asid : Nat) (c : Chunk) : Bool := !c.isScr && usedDrop drops asid c.virt

/-- A buffered granule of a transaction lies in a page of the dropped entries. -/
def granInDrop (drops : List TlbEntry) (asid gran : Nat) : Bool :=
  drops.any fun e => (e.asid == asid || pteG e.pte) &&
    decide (e.addr (e.vpn * 2 ^ 14) ≤ gran * 8 ∧ gran * 8 < e.addr (e.vpn * 2 ^ 14) + e.size * 2 ^ 14)

/-- A group has a store, buffered or queued, that is not visible and used a dropped entry. -/
def State.groupUses (s : State) (op : Nat) (drops : List TlbEntry) (g : Group) : Bool :=
  (g.stores.any fun q => decide (q.age ≤ op) && (match q.loc with | .glob _ => usedDrop drops (s.asidOf g) q.virt | .scr _ => false))
    || g.lanes.any fun ln => (ln.tx.isOpen || ln.tx.closing) && !ln.tx.doomed && ln.tx.wbuf.any fun b => granInDrop drops (s.asidOf g) b.gran

/-- An operation in flight used a dropped entry; of a join or fetch with a request to another package it is not known which it used. -/
def State.opUses (s : State) (op : Nat) (drops : List TlbEntry) (o : Op) : Bool :=
  let asid (gid : Nat) : Nat := match klookup s.groups gid with | some g => s.asidOf g | none => 0
  let away (iss : Issuer) : Bool := drops.any (fun e => e.asid == iss.asid || pteG e.pte) && s.net.outs.any fun x => match x.kind with
    | .engRead k _ _ => k == op
    | .engWrite k => k == op
    | _ => false
  match o with
  | .load l => l.lanes.any fun x => x.done.isNone && x.chunks.any (chunkDrop drops (asid l.gid))
  | .atom a => a.lanes.any fun x => x.done.isNone && (match x.place with | some c => chunkDrop drops (asid a.gid) c | none => false)
  | .card c => c.units.any fun u => u.st == .sent && usedDrop drops c.iss.asid u.dst.toNat
  | .join j => away j.iss
  | .fetch f => away f.iss
  | _ => false

/-- TLBI_COMPLETE (R284). -/
def execTlbiComplete (op : Nat) (s : State) : Host.Outcome State Fault Refusal :=
  match klookup s.ops op with
  | some (.tlbi gid dst drops) =>
    if (s.groups.any fun e => s.groupUses op drops e.2) || (s.ops.any fun e => decide (e.1 < op) && s.opUses e.1 drops e.2) then .next s
    else .next ((s.writeToken gid op dst 1).delOp op)
  | _ => .next s

/-! ## replay -/

/-- A parked access of a group is issued again (R268, R507). -/
def State.replayGroup (s : State) (gid : Nat) (g : Group) : State :=
  match g.wait with
  | .parked => s.setGroup gid { g with wait := .none, held := none }
  | .load op => s.reissueLoad gid op
  | _ => s

/-- A parked engine operation goes on (R285). -/
def replayOp (die : Nat) (o : Op) : Op :=
  match o with
  | .card c =>
    if dieOf c.iss.core = die then
      .card { c with units := c.units.map fun u => { u with st := u.st.retried } }
    else o
  | .join j => if dieOf j.iss.core = die ∧ j.st = .parked then .join { j with st := .running } else o
  | .fetch f => if dieOf f.iss.core = die then .fetch { f with parked := false } else o
  | o => o

/-- The pending-fault entries of a die are cleared, then every access parked on the die is issued again (R285, R509). -/
def State.replayDie (s : State) (die : Nat) : State :=
  let s1 : State := { s with mem := { s.mem with pfe := s.mem.pfe.filter fun f => f.die != die }
                             ops := s.ops.map fun e => (e.1, replayOp die e.2) }
  (s1.groups.filter fun e => dieOf e.2.core == die).foldl (fun s e => s.replayGroup e.1 e.2) s1

/-- REPLAY (R285). -/
def execReplay (h : Head) (s : State) : Host.Outcome State Fault Refusal :=
  issue (fun _ => { major := 0xF4, minor := 1, tyOk := h.ty == .b32, modsOk := h.mods == 0, d := fScal, super := true, access := true }) h
    (fun c s =>
      if c.ps.isEmpty then .done s
      else
        let die := dieOf c.g.core
        let n := (s.mem.pfe.filter fun f => f.die == die).length
        .done ((s.replayDie die).modGroup c.gid fun g => g.setS (scalNum h.d) (BitVec.ofNat 64 n))) s

/-! ## ownset -/

def countBad (v : W64) : Bool := decide (v.toNat < 1 ∨ 512 < v.toNat)

def ownsetShape (h : Head) : Shape :=
  { major := 0xF4, minor := 2, tyOk := h.ty == .b32, modsOk := decide (h.mods.toNat < 8 ∧ h.mods.toNat % 4 ≠ 3)
    d := fScal, a := fScal, b := fScalRaw, super := true, access := true, judged := scalItems h.b
    extra := match h.b with | .imm v => if countBad (v.signExtend 64) then .bad (some (v.signExtend 64)) else .ok | _ => .ok }

/-- A region of the table: of the local and interleaved windows and of CXL extents (R279). -/
def State.hasRegion (s : State) (pa : Nat) : Bool :=
  decide (pa < 2 ^ 52) && (decide (windowOf pa ≤ 4) || (match s.extentOf pa with | some e => windowOf pa == 5 && decide (e.st < 2) | none => false))

/-- OWNSET (R286): every check is made at issue. -/
def execOwnset (h : Head) (s : State) : Host.Outcome State Fault Refusal :=
  issue (fun _ => ownsetShape h) h
    (fun c s =>
      if c.ps.isEmpty then .done s
      else
        let a := readNum c.g h.a
        let n := readNum c.g h.b
        if countBad n then .trap cIllegal (sameVal c.ps n)
        else if a.toNat % 2 ^ 21 ≠ 0 then .trap cAlign (sameVal c.ps a)
        else match ((List.range n.toNat).map fun k => a.toNat + k * 2 ^ 21).find? fun pa => !s.hasRegion pa with
          | some pa => .trap cAccess (sameVal c.ps (BitVec.ofNat 64 pa))
          | none =>
            .done (s.postToken c.gid
              (.ownset c.gid (scalNum h.d) (regionOf a.toNat) n.toNat (h.mods.extractLsb' 0 2).toNat (h.mods.getLsbD 2)) h.d)) s

/-- One region of an ownset (R286): its atomic-owned lines revoked (R303) and its dirty sectors written back under the current VER; with ver
every copy is dropped and VER rises, else the copies of a side that does not own it under the new OWNER. -/
def State.ownRegion (s : State) (own : Nat) (ver : Bool) (asid r : Nat) : State :=
  let s := s.revokeRegion r asid
  let s1 := (s.l2Where fun sec _ => regionOf (sec * 256) == r).foldl (fun s sec => s.writeBack sec) s
  let s2 := if ver || own == 1 then s1.flushRegion r asid else s1
  let e := kget {} s2.mem.regions r
  let e' : Region := { owner := BitVec.ofNat 2 own, ver := if ver then e.ver + 1 else e.ver }
  { s2 with mem := { s2.mem with regions := kset {} s2.mem.regions r e' } }

/-- OWNSET_COMPLETE (R286): the regions in ascending order, then the token. -/
def execOwnsetComplete (op : Nat) (s : State) : Host.Outcome State Fault Refusal :=
  match klookup s.ops op with
  | some (.ownset gid dst first count own ver) =>
    let asid := match klookup s.groups gid with | some g => s.asidOf g | none => 0
    let s1 := ((List.range count).map (first + ·)).foldl (fun s r => s.ownRegion own ver asid r) s
    .next ((s1.writeToken gid op dst 1).delOp op)
  | _ => .next s

/-! ## Walks and transfers of their own -/

/-- PAGE_WALK (R256, R265): a translation miss of a core's team is walked and its leaf installed. -/
def execPageWalk (core asid : Nat) (va : BitVec 64) (s : State) : Host.Outcome State Fault Refusal :=
  if (s.groups.any fun e => e.2.core == core && s.asidOf e.2 == asid) && decide (va.toNat < 2 ^ 54) then
    match s.find (.core core) asid va.toNat with
    | .entry e true =>
      if s.peekWaits (.core core) asid va.toNat .read then .next s
      else .next (((s.walkTouch (dieOf core) asid va.toNat).countCore core 0x10 asid).installTlb (.core core) e)
    | _ => .next s
  else .next s

/-- The tenant of a device access that waits for a transfer of a region (R280). -/
def State.transferFor (s : State) (r : Nat) : Option Nat :=
  let here (loc : Loc) : Bool := match loc with | .glob pa => regionOf pa == r | .scr _ => false
  match s.groups.find? fun e => e.2.stores.any fun q => here q.loc with
  | some e => some (s.asidOf e.2)
  | none =>
    s.ops.findSome? fun e => match e.2 with
      | .load l =>
        if l.lanes.any fun x => x.done.isNone && x.chunks.any fun c => here c.loc then
          (klookup s.groups l.gid).map fun g => s.asidOf g
        else none
      | _ => none

/-- OWNERSHIP_TRANSFER (R280): started by a waiting access of the side that does not own the region; it waits for a host commit with a ticket
that has touched the region (R341). -/
def execOwnershipTransfer (region : Nat) (s : State) : Host.Outcome State Fault Refusal :=
  match s.transferFor region with
  | some asid =>
    let pa := region * 2 ^ 21
    if s.needsTransfer true pa && !s.hosts.any fun e => e.2.waitRd.isSome && e.2.inRegion region then .next (s.transfer region asid) else .next s
  | none => .next s

/-! ## caps and pmc -/

/-- The common shape (R498). -/
def capsShape (minor : Nat) (h : Head) : Shape :=
  { major := 0xF8, minor := minor, tyOk := h.ty == .b32, modsOk := decide (h.mods.toNat < 2), d := fScal, a := fScalImm .n64 }

/-- The offset of the first capability entry with an ID; all ones for none (R498). -/
def capsFind (id : Nat) : W64 :=
  match (List.range 9).find? fun k => (capsEntries.getD k (0, 0)).1 == id with
  | some k => BitVec.ofNat 64 (16 * k)
  | none => 0xFFFFFFFFFFFFFFFF

/-- CAPS (R498). -/
def execCaps (h : Head) (s : State) : Host.Outcome State Fault Refusal :=
  issue (fun _ => capsShape 0 h) h
    (fun c s =>
      let a := readNum c.g h.a
      if c.ps.isEmpty then .done s
      else c.onGroup s fun g => g.setS (scalNum h.d)
        (if h.mods.getLsbD 0 then capsFind (a.extractLsb' 0 16).toNat else capsWord a.toNat)) s

/-- Counters of a unit that pmc names. -/
def pmcCount (h : Head) : Nat := if h.mods.getLsbD 0 then 16 else 8

def pmcShape (h : Head) : Shape := { capsShape 1 h with judged := scalItems h.a }

/-- PMC (R499). -/
def execPmc (h : Head) (s : State) : Host.Outcome State Fault Refusal :=
  issue (fun _ => pmcShape h) h
    (fun c s =>
      let a := readNum c.g h.a
      let ctr := s.counterAt (if h.mods.getLsbD 0 then hubCtr (hubOf (dieOf c.g.core)) a.toNat else coreCtr c.g.core a.toNat)
      if c.ps.isEmpty then .done s
      else if pmcCount h ≤ a.toNat then .trap cIllegal (sameVal c.ps a)
      else if c.g.sup || (ctr.ctl.getLsbD 1 && ctr.ctl.getLsbD 2 && ctr.ctl.extractLsb' 48 16 == BitVec.ofNat 16 (s.asidOf c.g)) then
        c.onGroup s fun g => g.setS (scalNum h.d) (ctr.cnt.setWidth 64)
      else .trap cAccess (sameVal c.ps a)) s

end Sys2Proof.Machine
end

