-- ==== Sys2Proof/Machine/Platform.lean ====
section
/-!
DEFINITION. The package as a whole: cold reset, boot and measurement, clocks and sensors (01_package.md R18 to R26), the error logs'
arbiter and parity recovery (15_traps.md R473, R475, R476), Xaush and the alarm (16_tenancy.md R490 to R494), and writes to registers
from outside the groups (00_scope.md R5).
-/

namespace Sys2Proof.Machine

/-! ## Cold reset -/

/-- Storage after a cold reset holds no stated value. -/
def freeBytes (n : Nat) (bytes : KMap Byte) : KMap Byte :=
  (bytes.map fun e => (e.1, (Config.freeWord n e.1).setWidth 8)).filter fun e => e.2 != 0

/-- The package after a further cold reset (R22, R25): the state after reset, with what lies outside it or outlives it. -/
def State.coldReset (s : State) : State :=
  { State.reset with
    mem := { State.reset.mem with bytes := freeBytes s.free s.mem.bytes }
    pkg := { State.reset.pkg with ckboot := Config.bootId (s.plat.resets + 1) }
    net := { State.reset.net with groups := s.net.groups, chunks := s.net.chunks }
    xa := { State.reset.xa with log := if Config.freeBit s.free 0 then s.xa.log else [] }
    plat := { State.reset.plat with
      power := s.plat.power, temp := s.plat.temp, mctp := s.plat.mctp, resets := s.plat.resets + 1
      limit := if Config.freeBit s.free 1 then s.plat.limit else State.reset.plat.limit }
    cur := s.cur, sched := s.sched, free := s.free }

/-- COLD_RESET (R22). -/
def execColdReset (s : State) : Host.Outcome State Fault Refusal := .next s.coldReset

/-! ## Boot -/

def State.xlog (s : State) (source : Nat) : State :=
  { s with xa := { s.xa with log := s.xa.log ++ [{ source := source, asid := none, clock := s.dieClock 0 }] } }

/-- The first stage runs (R23, R254): ILSIZE, a number from 0 to 96, is recorded and the links train. Memory and hubs serve from then on. A field
above 96 gives a number that the manual does not state. -/
def State.firstStage (s : State) (ilsize : Nat) : State :=
  let n := if ilsize ≤ 96 then ilsize else (Config.freeWord s.free 301).toNat % 97
  let s1 := s.modPkg fun x => { x with ilcfg := BitVec.ofNat 64 n }
  (List.range 18).foldl (fun s k => s.setLink k { s.link k with state := 1, wasUp := false, target := 2 }) s1

/-- The bytes of an image that are measured and signed: with the first stage's ILSIZE, a field of that image (R254). -/
def measuredBytes (img : BootImage) (stage : Nat) : List Byte := if stage = 0 then leBytes 1 img.ilsize ++ img.payload else img.payload

/-- Where an image is loaded: the manual does not give the address, but storage stands behind it. -/
def State.imageAt (s : State) (n : Nat) : Nat :=
  let a := (Config.freeWord s.free 300).toNat % 2 ^ 52 / 256 * 256
  if (List.range (n / 256 + 1)).all fun k => s.hasStorage (a + 256 * k) then a else 0

/-- An image is loaded into memory (R23): the supervisor's by the host firmware, so on the host side, which the model takes for the firmware's own
image too, where the manual does not say which side the first stage writes from: DESIGN CHOICE (log 32). -/
def State.loadImage (s : State) (img : BootImage) : State := s.writeRun (.host 0) 0 (s.imageAt img.payload.length) img.payload

/-- The host firmware runs on the host cores (R23), from an entry the manual does not give. -/
def State.startHosts (s : State) : State :=
  (List.range 48).foldl (fun s h => s.setHost h { s.host h with running := true, pc := Config.freeWord s.free h &&& ~~~(3 : W64) }) s

/-- The number under which a die's service group is held where a team's number stands; no team has it. -/
def serviceTeam (die : Nat) : Nat := 2 ^ 60 + die

/-- A die's service group as the host firmware launches it (R23, R464): in supervisor mode on core 60n. Its shape and its entry are the
firmware's. The manual does not say which quarter, slot and half it takes, nor, as it is no task, with which TASKID, TEAMID and GRPID its lanes'
SRSTATE is seeded (R168): the model takes 0 for each. DESIGN CHOICE (log 32). -/
def serviceGroup (n die : Nat) : Group :=
  let w := if Config.freeBit n (100 + die) then 64 else if Config.freeBit n (104 + die) then 32 else 16
  { team := serviceTeam die, grpid := 0, width := w, nrows := 16 * ((Config.freeWord n (200 + die)).toNat % (rowLimit w true / 16) + 1)
    core := 60 * die, quarter := 0, slot := 0, half := 0, service := true, sup := true
    pc := Config.freeWord n (204 + die) &&& ~~~(3 : W64)
    lanes := (List.range w).map fun l => { sr := srSeed 0 0 0 l } }

/-- The service groups are launched under the next group numbers. -/
def State.startService (s : State) : State :=
  (List.range 4).foldl (fun s die =>
    { s.setGroup s.nextGid { serviceGroup s.free die with readyAt := s.clock + 1, born := s.free } with nextGid := s.nextGid + 1 }) s

/-- The effect of a stage whose image has been verified and measured (R23). -/
def State.runStage (s : State) (img : BootImage) : State :=
  match s.xa.stage with
  | 1 => s.firstStage img.ilsize
  | 2 => (s.loadImage img).startHosts
  | _ => (s.loadImage img).startService

/-- Every die but the host die is in reset (R24): compute dies and hubs, with their memories, links and registers, stand as after a cold reset. The
host die keeps its host cores, Xaush, the PCIe port and the ready pool. What ILCFG and the links held is gone until they are written or trained
again, and which of the package's registers stand in the hubs the manual does not say: DESIGN CHOICE (log 32). -/
def State.resetDies (s : State) : State :=
  { s with
    groups := [], teams := [], ops := [], hazards := [], tx := {}, dies := [], logs := [], pmc := [], qnext := []
    mem := { State.reset.mem with bytes := freeBytes s.free s.mem.bytes }
    net := { State.reset.net with groups := s.net.groups, chunks := s.net.chunks }
    pkg := { s.pkg with trapen := 0, ptroot := 0, fabcfg := 0, ilcfg := 0 } }

/-- A stage image (R23, R24): its signature is checked, its measurement extended, and the stage runs; a failure is logged with its
number and holds every die but the host die in reset. -/
def State.bootImage (s : State) (img : BootImage) : State :=
  let k := s.xa.stage
  if !Config.signatureOk (measuredBytes img k) img.signature then
    { (s.xlog (32 + k + 1)).resetDies with xa := { (s.xlog (32 + k + 1)).xa with held := true } }
  else
    ({ s with xa := { s.xa with
        stage := k + 1, held := false
        meas := kset 0 s.xa.meas k (Config.sha384Extend (kget 0 s.xa.meas k) (measuredBytes img k)) } } : State).runStage img

/-- BOOT_STAGE (R23): stages 1 to 3 from the SPI flash; the fourth, which has no image, releases the cores into dispatch. After a failed
check only the mailbox leads into the package (R24). -/
def execBootStage (img : BootImage) (s : State) : Host.Outcome State Fault Refusal :=
  if s.xa.held then .next s
  else if s.xa.stage < 3 then .next (s.bootImage img)
  else if s.xa.stage = 3 then .next { s with xa := { s.xa with stage := 4 } }
  else .next s

/-- MAILBOX_IMAGE (R26): the same check and measurement. -/
def execMailboxImage (img : BootImage) (s : State) : Host.Outcome State Fault Refusal :=
  .next (if s.xa.stage < 3 then s.bootImage img else s)

/-! ## Clocks, temperature, sideband -/

/-- CLOCK_STEP_DOWN (R18, R21): not below 1.2 GHz; both hubs' counters see the step. -/
def execClockStepDown (s : State) : Host.Outcome State Fault Refusal :=
  if 1300 ≤ s.plat.mhz then
    .next (({ s with plat := { s.plat with mhz := s.plat.mhz - 100, limited := true } } : State).countHub 0 0x25 none |>.countHub 1 0x25 none)
  else .next s

/-- CLOCK_STEP_UP (R18). -/
def execClockStepUp (s : State) : Host.Outcome State Fault Refusal :=
  if s.plat.mhz < 1800 then .next { s with plat := { s.plat with mhz := s.plat.mhz + 100, limited := decide (s.plat.mhz + 100 < 1800) } }
  else .next s

/-- THERMAL_TRIP (R20): no agent acts before the next cold reset. -/
def execThermalTrip (s : State) : Host.Outcome State Fault Refusal :=
  .next { s.xlog 16 with plat := { s.plat with tripped := true } }

/-- MCTP_READ_SENSORS (R21): the temperature and the power are what the sensors find. -/
def execMctpReadSensors (s : State) : Host.Outcome State Fault Refusal :=
  let t := (Config.freeWord s.free 0).toNat
  let p := (Config.freeWord s.free 1).toNat
  .next { s with plat := { s.plat with temp := t, power := p, mctp := s.plat.mctp ++ [[t, p]] } }

/-- MCTP_SET_POWER_LIMIT (R21): a limit below 2,400 W. -/
def execMctpSetPowerLimit (watts : Nat) (s : State) : Host.Outcome State Fault Refusal :=
  .next (if watts < 2400 then { s with plat := { s.plat with limit := watts } } else s)

/-- An event as it is read out: source, tenant (0: none, else ASID + 1), CLOCK. -/
def eventWords (e : XEvent) : List Nat := [e.source, (match e.asid with | some a => a + 1 | none => 0), e.clock.toNat]

/-- MCTP_READ_EVENT_LOG (R21). -/
def execMctpReadEventLog (s : State) : Host.Outcome State Fault Refusal :=
  .next { s with plat := { s.plat with mctp := s.plat.mctp ++ [s.xa.log.flatMap eventWords] } }

/-! ## Error logs -/

/-- An entry (R475). -/
def logEntry (count : W32) (chan m : Nat) (r : Report) : BitVec 128 :=
  (count ++ BitVec.ofNat 8 chan ++ BitVec.ofNat 8 m ++ BitVec.ofNat 16 r.asid ++ BitVec.ofNat 12 r.src ++ BitVec.ofNat 52 r.value : BitVec 128)

/-- The arbiter takes one channel (R476): at most 255 reports as one entry, which is dropped where ELPUT − ELGET, exact (R8), is 16 or more.
ELPUT itself counts modulo 2^32. -/
def ErrLog.take (x : ErrLog) (chan : Nat) (rs : List Report) : ErrLog :=
  match rs with
  | [] => x
  | r :: _ =>
    let m := min rs.length 255
    let count := kget 0 x.cnt chan + BitVec.ofNat 32 m
    let rest := rs.drop m
    let x1 := { x with cnt := kset 0 x.cnt chan count, pend := if rest.isEmpty then kerase x.pend chan else kput x.pend chan rest }
    if x.put.toNat < x.get.toNat + 16 then
      { x1 with ent := kput x1.ent (x.put.toNat % 16) (logEntry count chan m r), put := x.put + 1 }
    else { x1 with ovf := if x.ovf = 0xFFFFFFFF then x.ovf else x.ovf + 1 }

/-- Dies whose ELOG event an entry of a log sets (R465). -/
def logDies (unit : Nat) : List Nat := if unit < 4 then [unit] else [2 * (unit - 4), 2 * (unit - 4) + 1]

/-- ERROR_LOG_ARBITRATE (R476): every pending channel, in ascending order. -/
def execErrorLogArbitrate (unit : Nat) (s : State) : Host.Outcome State Fault Refusal :=
  let x := kget {} s.logs unit
  if 6 ≤ unit ∨ x.pend.isEmpty then .next s
  else
    let x1 := x.pend.foldl (fun x e => x.take e.1 e.2) x
    let s1 := { s with logs := kput s.logs unit x1 }
    .next (if x1.put = x.put then s1 else (logDies unit).foldl (fun s d => s.setEvent d 2) s1)

/-- Parity byte of a word (R473): bit k covers the data bits congruent to k modulo 8. -/
def parityOf (w : W64) : Byte := (List.range 8).foldl (fun b k => b ^^^ w.extractLsb' (8 * k) 8) 0

/-- Channels of an array's corrected and uncorrectable errors (R475). -/
def parityChan : ParityArray → Nat
  | .scratchL1 => 2
  | .tun => 4
  | .l2 => 6

/-- Word `k` of a sub-array fails its parity. -/
def wordFails (p : ParityFault) (k : Nat) : Bool := parityOf (p.words.getD k 0) != p.parity.getD k 0

/-- Recovery succeeds (R473): only the word read fails, and the XOR of the column parity word and the other 63 passes its parity. -/
def wordRecovers (p : ParityFault) : Bool :=
  let v := (List.range 64).foldl (fun x k => if k = p.index then x else x ^^^ p.words.getD k 0) p.column
  parityOf v == p.parity.getD p.index 0 && (List.range 64).all fun k => k == p.index || !wordFails p k

/-- The data of a word that cannot be recovered is poisoned (R473): a word of a team's scratchpad or a line of a core's L1, a tun
entry (partition and place in `addr`), a sector of L2. -/
def State.poisonAt (s : State) (p : ParityFault) : State :=
  match p.array with
  | .scratchL1 =>
    if (klookup s.teams p.team).isSome then s.modTeam p.team fun t => { t with spoison := addLine t.spoison (p.addr / 8) }
    else
      { s with mem := { s.mem with l1 := s.mem.l1.map fun x => if x.core = p.src ∧ x.line = p.addr / 256 then { x with bad := true } else x } }
  | .tun =>
    s.modPart p.team (p.addr / 65536) fun q =>
      { q with entries := q.entries.map fun e => if e.place = p.addr % 65536 then { e with bad := true } else e }
  | .l2 => { s with mem := { s.mem with poison := addLine s.mem.poison (sectorOf p.addr) } }

/-- PARITY_RECOVERY (R473): a corrected word changes nothing but the log. -/
def execParityRecovery (p : ParityFault) (s : State) : Host.Outcome State Fault Refusal :=
  if p.words.length ≠ 64 ∨ p.parity.length ≠ 64 ∨ 64 ≤ p.index ∨ !wordFails p p.index then .next s
  else if wordRecovers p then .next (s.report p.unit (parityChan p.array) p.asid p.src p.addr)
  else .next ((s.poisonAt p).report p.unit (parityChan p.array + 1) p.asid p.src p.addr)

/-! ## CXL extents -/

/-- Extents lie in the CXL window, in whole 2 MiB regions, apart from those that have not been released. -/
def State.extentFits (s : State) (base size : Nat) : Bool :=
  decide (windowOf base = 5 ∧ base < 2 ^ 52 ∧ windowOf (base + size - 1) = 5 ∧ base % 2 ^ 21 = 0 ∧ size % 2 ^ 21 = 0 ∧ 0 < size)
    && s.mem.extents.all fun e => decide (e.st = 2 ∨ base + size ≤ e.base ∨ e.base + e.size ≤ base)

def State.setExtent (s : State) (base st st' : Nat) : State :=
  { s with mem := { s.mem with extents := s.mem.extents.map fun e => if e.base = base ∧ e.st = st then { e with st := st' } else e } }

def State.allDies (s : State) (bit : Nat) : State := (List.range 4).foldl (fun s d => s.setEvent d bit) s

/-- CXL_EXTENT_EVENT (R278): an offer or a release request is an event of every die; the service group then adds or releases. -/
def execCxlExtentEvent (ext : ExtentEvent) (s : State) : Host.Outcome State Fault Refusal :=
  match ext with
  | .offer base size =>
    if s.extentFits base size then
      .next (({ s with mem := { s.mem with extents := s.mem.extents ++ [{ base := base, size := size, st := 0 }] } } : State).allDies 4)
    else .next s
  | .releaseReq base =>
    if s.mem.extents.any fun e => e.base == base && e.st == 0 then .next ((s.setExtent base 0 1).allDies 4) else .next s
  | .release base => .next (s.setExtent base 1 2)

/-! ## Xaush -/

/-- KCMD_CLEAR (R490). -/
def execKcmdClear (s : State) : Host.Outcome State Fault Refusal := .next (s.kcommand 0 0)
/-- KCMD_PLAIN (R490). -/
def execKcmdPlain (s : State) : Host.Outcome State Fault Refusal := .next (s.kcommand 1 0)
/-- KCMD_LOAD (R490). -/
def execKcmdLoad (value : W64) (s : State) : Host.Outcome State Fault Refusal := .next (s.kcommand 2 value)

/-- Every sector of a slot's pages leaves L2, written back under the slot as it stands (R490). -/
def State.flushSlot (s : State) (slot : Nat) : State := (s.l2Where fun _ e => e.slot == slot).foldl (fun s sec => s.dropSector sec) s

/-- A slot takes a new state and the command ends. -/
def State.endKcmd (s : State) (slot : Nat) (k : KeySlot) : State :=
  { s with xa := { s.xa with slots := kset {} s.xa.slots slot k, kbusy := none } }

/-- The number of a pair of keys: the one it had before, so that what was written under it passes its MAC again (R487), else a new one. -/
def State.keyNumber (s : State) (k : BitVec 512) : Nat :=
  match s.xa.keys.find? fun e => e.2 == k with
  | some e => e.1
  | none => s.xa.keys.length + 1

/-- The bytes of a key blob that a LOAD reads (R490). -/
def blobRun : KOp → List (Nat × Nat)
  | .load blob => [(blob, 72)]
  | _ => []

/-- A LOAD (R490): the 72-byte blob unwrapped; ERR where that fails or an erase is in force. -/
def State.loadKey (s : State) (slot : Nat) (arg : W64) (blob : Nat) : State :=
  match (if s.xa.erased then none else unwrapKey Config.provisioningKey (s.homeBytes blob 72)) with
  | none => { s with xa := { s.xa with kbusy := none, kerr := true } }
  | some (d, a) =>
    let n := s.keyNumber (a ++ d : BitVec 512)
    let s1 : State := { s with xa := { s.xa with keys := kput s.xa.keys n (a ++ d : BitVec 512) } }
    s1.endKcmd slot { kind := 2, owner := arg.extractLsb' 16 16, shared := arg.getLsbD 32, key := n, dkey := d, akey := a }

/-- KCMD_COMPLETE (R490). -/
def execKcmdComplete (s : State) : Host.Outcome State Fault Refusal :=
  match s.xa.kbusy with
  | none => .next s
  | some (k, arg) =>
    if s.poolWaits (blobRun k) false then .next s
    else
    let slot := kargSlot arg
    let s1 := (s.flushSlot slot).poolReads (blobRun k)
    match k with
    | .clear => .next (s1.endKcmd slot {})
    | .plain => .next (s1.endKcmd slot { kind := 1, owner := arg.extractLsb' 16 16, shared := arg.getLsbD 32 })
    | .load blob => .next (s1.loadKey slot arg blob)

/-- KPROV_WRITE (R491). -/
def execKprovWrite (value : W64) (s : State) : Host.Outcome State Fault Refusal := .next (s.writeKprov value)
/-- ALMCFG_WRITE (R492). -/
def execAlmcfgWrite (value : W64) (s : State) : Host.Outcome State Fault Refusal := .next (s.writeAlmcfg value)
/-- ALMREL (R493). -/
def execAlmrel (value : W64) (s : State) : Host.Outcome State Fault Refusal := .next (s.releaseTenant (value.extractLsb' 0 16).toNat)
/-- GLITCH_DETECT (R492): source 1 the clock's detector, source 2 the voltage's. -/
def execGlitchDetect (voltage : Bool) (s : State) : Host.Outcome State Fault Refusal := .next (s.alarm (if voltage then 2 else 1) none)
/-- DEBUG_INTRUSION (R492): a debug access while the debug lock is set. -/
def execDebugIntrusion (s : State) : Host.Outcome State Fault Refusal := .next (if s.plat.debugLock then s.alarm 3 none else s)

/-! ## The alarm's actions -/

/-- A team is pre-empted with its image held, or faulted where the heap has no room (R493). -/
def State.holdTeam (s : State) (t : Nat) : State :=
  if s.heapSize = 0 then s.teamFault t
  else match s.askTeam true t with
    | some s1 => s1
    | none => s.teamFault t

/-- Pairs whose last tenant satisfies a condition and that hold no team of a tenant now. -/
def State.leftPairs (s : State) (p : Nat → Bool) : List Nat :=
  (s.pool.pairAsid.filter fun e => p e.2 && !(s.teams.any fun t => pairOf t.2.core == e.1 && t.2.asid != 0)).map Prod.fst

/-- A tenant, or every tenant, is contained (R493). -/
def State.contain (s : State) (who : Option Nat) : State :=
  let hit (a : Nat) : Bool := a != 0 && (match who with | some x => a == x | none => true)
  let xa := match who with
    | some a => { s.xa with contained := addLine s.xa.contained a, released := s.xa.released.filter fun x => x != a }
    | none => { s.xa with containAll := true, released := [] }
  let s1 : State := { s with xa := xa }
  let s2 := (s1.teamsWhere fun t => hit t.asid).foldl (fun s t => s.holdTeam t) s1
  { s2 with pool := { s2.pool with scrubs := (s.leftPairs hit).foldl addLine s2.pool.scrubs } }

/-- ALARM_CONTAIN (R493, R494): the next action of level 1; void under an erase, and never for ASID 0. -/
def execAlarmContain (s : State) : Host.Outcome State Fault Refusal :=
  match s.xa.queue with
  | (lvl, e) :: rest =>
    if lvl ≠ 1 then .next s
    else
      let s1 : State := { s with xa := { s.xa with queue := rest } }
      if s.xa.erased || rest.any (fun x => x.1 == 2) || e.asid == some 0 then .next s1 else .next (s1.contain e.asid)
  | [] => .next s

/-- Work of a tenant that the pool holds is faulted and finishes without its successors (R461, R494). -/
def State.dropTask (s : State) (id : Nat) : State :=
  ({ s with pool := { s.pool with tasks := kmap s.pool.tasks id fun k =>
      { k with faulted := true, slots := k.slots.map killUnplaced } } } : State).endTask id

/-- The erase (R494). -/
def State.erase (s : State) : State :=
  let s1 := (s.teamsWhere fun t => t.asid != 0).foldl (fun s t => s.teamFault t) s
  let ids := (s1.pool.tasks.filter fun e => e.2.record.asid != 0 && !e.2.record.host).map Prod.fst
  let s2 := ids.foldl (fun s id => s.dropTask id) s1
  let s3 := ((s2.xa.slots.map Prod.fst).filter fun k => k != 0).foldl (fun s k => s.flushSlot k) s2
  { s3 with
    xa := { s3.xa with slots := s3.xa.slots.filter (fun e => e.1 == 0), kprov := false, erased := true }
    pool := { s3.pool with scrubs := List.range 120 } }

/-- ALARM_ERASE (R494): the next action of level 2. -/
def execAlarmErase (s : State) : Host.Outcome State Fault Refusal :=
  match s.xa.queue with
  | (lvl, _) :: rest => if lvl = 2 then .next ({ s with xa := { s.xa with queue := rest } } : State).erase else .next s
  | [] => .next s

/-! ## Writes from outside the groups -/

/-- HOST_EVENT_REQUEST (R465). -/
def execHostEventRequest (die : Nat) (s : State) : Host.Outcome State Fault Refusal := .next (if die < 4 then s.setEvent die 5 else s)

/-- A write to BAR0 of the endpoint (R438): the record, the doorbell; MBSTAT is read-only. -/
def State.mailboxWrite (s : State) (off : Nat) (v : W64) : State :=
  if off % 8 = 0 ∧ off < 0x80 then { s with pool := { s.pool with mbrec := ksetRun 0 s.pool.mbrec off (leBytes 8 v.toNat) } }
  else if off = 0x80 then s.doorbell v
  else s

/-- REGISTER_WRITE (R5, R7): a register of the device-register window, by its physical address; BAR0 from 2^52 on; and HTQ and HTQPTR,
which the host firmware sets through their numbers (R454). -/
def execRegisterWrite (addr : Nat) (value : W64) (s : State) : Host.Outcome State Fault Refusal :=
  if 2 ^ 52 ≤ addr then .next (s.mailboxWrite (addr - 2 ^ 52) value)
  else if isDevReg addr ∧ addr % 8 = 0 then .next (s.setDevWord (offsetOf addr) value)
  else if addr = 0x87 then .next (s.modPkg fun x => { x with htq := value &&& 0x000FFFFFFFFFF00F })
  else if addr = 0x88 then .next (s.modPkg fun x => { x with htqptr := htqptrAfter x.htqptr value })
  else .next s

/-- FIXED_LATENCY_RESULT_WRITE (R55): the results that are due are written, and no instruction meets them early any more. -/
def execFixedLatencyResultWrite (gid : Nat) (s : State) : Host.Outcome State Fault Refusal :=
  .next (s.modGroup gid fun g => { g with pend := g.pend.filter fun (p : Pend) => decide (s.clock < p.due) })

/-- UNASSIGNED_OPCODE (R57, R58): ILLEGAL_OP. -/
def execUnassignedOpcode (major : BitVec 8) (minor : BitVec 4) (h : Head) (s : State) : Host.Outcome State Fault Refusal :=
  issue (fun _ => { major := major.toNat, minor := minor.toNat, tyOk := false }) h (fun _ s => .done s) s

end Sys2Proof.Machine
end

