-- ==== Sys2Proof/Machine/Dispatch.lean ====
section
/-!
DEFINITION. One arm per constructor of Instr: each a direct call of its meaning.
-/

namespace Sys2Proof.Machine

def exec (i : Instr) (s : State) : Host.Outcome State Fault Refusal :=
  match i with
  | .coldReset => Sys2Proof.Machine.execColdReset s
  | .bootStage img => Sys2Proof.Machine.execBootStage img s
  | .mailboxImage img => Sys2Proof.Machine.execMailboxImage img s
  | .clockStepDown => Sys2Proof.Machine.execClockStepDown s
  | .clockStepUp => Sys2Proof.Machine.execClockStepUp s
  | .thermalTrip => Sys2Proof.Machine.execThermalTrip s
  | .mctpReadSensors => Sys2Proof.Machine.execMctpReadSensors s
  | .mctpSetPowerLimit watts => Sys2Proof.Machine.execMctpSetPowerLimit watts s
  | .mctpReadEventLog => Sys2Proof.Machine.execMctpReadEventLog s
  | .nop h => Sys2Proof.Machine.execNop h s
  | .bra h => Sys2Proof.Machine.execBra h s
  | .brx h => Sys2Proof.Machine.execBrx h s
  | .call h => Sys2Proof.Machine.execCall h s
  | .ret h => Sys2Proof.Machine.execRet h s
  | .exit h => Sys2Proof.Machine.execExit h s
  | .ifc h => Sys2Proof.Machine.execIfc h s
  | .elsec h => Sys2Proof.Machine.execElsec h s
  | .endif h => Sys2Proof.Machine.execEndif h s
  | .loopc h => Sys2Proof.Machine.execLoopc h s
  | .endloop h => Sys2Proof.Machine.execEndloop h s
  | .brk h => Sys2Proof.Machine.execBrk h s
  | .cont h => Sys2Proof.Machine.execCont h s
  | .iadd h => Sys2Proof.Machine.execIadd h s
  | .isub h => Sys2Proof.Machine.execIsub h s
  | .imul h => Sys2Proof.Machine.execImul h s
  | .imulh h => Sys2Proof.Machine.execImulh h s
  | .imad h => Sys2Proof.Machine.execImad h s
  | .imin h => Sys2Proof.Machine.execImin h s
  | .imax h => Sys2Proof.Machine.execImax h s
  | .iabs h => Sys2Proof.Machine.execIabs h s
  | .ineg h => Sys2Proof.Machine.execIneg h s
  | .iaddc h => Sys2Proof.Machine.execIaddc h s
  | .andb h => Sys2Proof.Machine.execAndb h s
  | .orb h => Sys2Proof.Machine.execOrb h s
  | .xorb h => Sys2Proof.Machine.execXorb h s
  | .notb h => Sys2Proof.Machine.execNotb h s
  | .andn h => Sys2Proof.Machine.execAndn h s
  | .shl h => Sys2Proof.Machine.execShl h s
  | .shr h => Sys2Proof.Machine.execShr h s
  | .sar h => Sys2Proof.Machine.execSar h s
  | .rot h => Sys2Proof.Machine.execRot h s
  | .popc h => Sys2Proof.Machine.execPopc h s
  | .clz h => Sys2Proof.Machine.execClz h s
  | .brev h => Sys2Proof.Machine.execBrev h s
  | .bfx h => Sys2Proof.Machine.execBfx h s
  | .bfi h => Sys2Proof.Machine.execBfi h s
  | .prmb h => Sys2Proof.Machine.execPrmb h s
  | .icmp h => Sys2Proof.Machine.execIcmp h s
  | .fadd h => Sys2Proof.Machine.execFadd h s
  | .fsub h => Sys2Proof.Machine.execFsub h s
  | .fmul h => Sys2Proof.Machine.execFmul h s
  | .ffma h => Sys2Proof.Machine.execFfma h s
  | .fmin h => Sys2Proof.Machine.execFmin h s
  | .fmax h => Sys2Proof.Machine.execFmax h s
  | .fcmp h => Sys2Proof.Machine.execFcmp h s
  | .fclass h => Sys2Proof.Machine.execFclass h s
  | .frnd h => Sys2Proof.Machine.execFrnd h s
  | .frcp h => Sys2Proof.Machine.execFrcp h s
  | .frsq h => Sys2Proof.Machine.execFrsq h s
  | .fsqrt h => Sys2Proof.Machine.execFsqrt h s
  | .fexp2 h => Sys2Proof.Machine.execFexp2 h s
  | .flog2 h => Sys2Proof.Machine.execFlog2 h s
  | .fsin h => Sys2Proof.Machine.execFsin h s
  | .fcos h => Sys2Proof.Machine.execFcos h s
  | .ftanh h => Sys2Proof.Machine.execFtanh h s
  | .cvt h => Sys2Proof.Machine.execCvt h s
  | .cvtsr h => Sys2Proof.Machine.execCvtsr h s
  | .qpack h => Sys2Proof.Machine.execQpack h s
  | .qunpack h => Sys2Proof.Machine.execQunpack h s
  | .qscale h => Sys2Proof.Machine.execQscale h s
  | .qdot h => Sys2Proof.Machine.execQdot h s
  | .dot8 h => Sys2Proof.Machine.execDot8 h s
  | .dot16 h => Sys2Proof.Machine.execDot16 h s
  | .mov h => Sys2Proof.Machine.execMov h s
  | .movw h => Sys2Proof.Machine.execMovw h s
  | .sel h => Sys2Proof.Machine.execSel h s
  | .sget h => Sys2Proof.Machine.execSget h s
  | .sset h => Sys2Proof.Machine.execSset h s
  | .xset h => Sys2Proof.Machine.execXset h s
  | .xld h => Sys2Proof.Machine.execXld h s
  | .xst h => Sys2Proof.Machine.execXst h s
  | .xadd h => Sys2Proof.Machine.execXadd h s
  | .shfl h => Sys2Proof.Machine.execShfl h s
  | .shflx h => Sys2Proof.Machine.execShflx h s
  | .bcast h => Sys2Proof.Machine.execBcast h s
  | .vote h => Sys2Proof.Machine.execVote h s
  | .firstc h => Sys2Proof.Machine.execFirstc h s
  | .gred h => Sys2Proof.Machine.execGred h s
  | .scan h => Sys2Proof.Machine.execScan h s
  | .compact h => Sys2Proof.Machine.execCompact h s
  | .rwr h => Sys2Proof.Machine.execRwr h s
  | .remoteDepositArrive dep => Sys2Proof.Machine.execRemoteDepositArrive dep s
  | .awaitc h => Sys2Proof.Machine.execAwaitc h s
  | .awaitSatisfied gid => Sys2Proof.Machine.execAwaitSatisfied gid s
  | .ld h => Sys2Proof.Machine.execLd h s
  | .loadDataReturn load => Sys2Proof.Machine.execLoadDataReturn load s
  | .st h => Sys2Proof.Machine.execSt h s
  | .ldu h => Sys2Proof.Machine.execLdu h s
  | .stu h => Sys2Proof.Machine.execStu h s
  | .pref h => Sys2Proof.Machine.execPref h s
  | .cvta h => Sys2Proof.Machine.execCvta h s
  | .isap h => Sys2Proof.Machine.execIsap h s
  | .cflush h => Sys2Proof.Machine.execCflush h s
  | .cflushComplete op => Sys2Proof.Machine.execCflushComplete op s
  | .cinv h => Sys2Proof.Machine.execCinv h s
  | .bar h => Sys2Proof.Machine.execBar h s
  | .barRelease team n => Sys2Proof.Machine.execBarRelease team n s
  | .binit h => Sys2Proof.Machine.execBinit h s
  | .barr h => Sys2Proof.Machine.execBarr h s
  | .barrierPhaseComplete team off => Sys2Proof.Machine.execBarrierPhaseComplete team off s
  | .bwait h => Sys2Proof.Machine.execBwait h s
  | .bwaitSatisfied gid => Sys2Proof.Machine.execBwaitSatisfied gid s
  | .btest h => Sys2Proof.Machine.execBtest h s
  | .atom h => Sys2Proof.Machine.execAtom h s
  | .contentionEnterFar line => Sys2Proof.Machine.execContentionEnterFar line s
  | .contentionReturnNear line => Sys2Proof.Machine.execContentionReturnNear line s
  | .atomu h => Sys2Proof.Machine.execAtomu h s
  | .red h => Sys2Proof.Machine.execRed h s
  | .fence h => Sys2Proof.Machine.execFence h s
  | .fenceComplete gid => Sys2Proof.Machine.execFenceComplete gid s
  | .tbeg h => Sys2Proof.Machine.execTbeg h s
  | .tbegResume gid => Sys2Proof.Machine.execTbegResume gid s
  | .fallbackLockGrant gid => Sys2Proof.Machine.execFallbackLockGrant gid s
  | .tend h => Sys2Proof.Machine.execTend h s
  | .tendCommit gid => Sys2Proof.Machine.execTendCommit gid s
  | .tabort h => Sys2Proof.Machine.execTabort h s
  | .tstat h => Sys2Proof.Machine.execTstat h s
  | .xtbeg rd rs1 => Sys2Proof.Machine.execXtbeg rd rs1 s
  | .xtend rd => Sys2Proof.Machine.execXtend rd s
  | .xtendCommit host => Sys2Proof.Machine.execXtendCommit host s
  | .xtabort code => Sys2Proof.Machine.execXtabort code s
  | .xtstat rd => Sys2Proof.Machine.execXtstat rd s
  | .xspawn rd rs1 => Sys2Proof.Machine.execXspawn rd rs1 s
  | .hostTxAbort host cause => Sys2Proof.Machine.execHostTxAbort host cause s
  | .cpost h => Sys2Proof.Machine.execCpost h s
  | .hazardRelease op => Sys2Proof.Machine.execHazardRelease op s
  | .cardUnitWrite op unit => Sys2Proof.Machine.execCardUnitWrite op unit s
  | .cardComplete op => Sys2Proof.Machine.execCardComplete op s
  | .rst h => Sys2Proof.Machine.execRst h s
  | .remotePathLost pkg => Sys2Proof.Machine.execRemotePathLost pkg s
  | .spawn h => Sys2Proof.Machine.execSpawn h s
  | .jopen h => Sys2Proof.Machine.execJopen h s
  | .jclose h => Sys2Proof.Machine.execJclose h s
  | .jcloseFree op => Sys2Proof.Machine.execJcloseFree op s
  | .jmul h => Sys2Proof.Machine.execJmul h s
  | .jmulBarrierSatisfied op => Sys2Proof.Machine.execJmulBarrierSatisfied op s
  | .jstrm h => Sys2Proof.Machine.execJstrm h s
  | .jacc h => Sys2Proof.Machine.execJacc h s
  | .jget h => Sys2Proof.Machine.execJget h s
  | .jdrain h => Sys2Proof.Machine.execJdrain h s
  | .jstat h => Sys2Proof.Machine.execJstat h s
  | .joinOpStart op => Sys2Proof.Machine.execJoinOpStart op s
  | .joinOpComplete op => Sys2Proof.Machine.execJoinOpComplete op s
  | .fch h => Sys2Proof.Machine.execFch h s
  | .fetchOpStart op => Sys2Proof.Machine.execFetchOpStart op s
  | .fetchOpComplete op => Sys2Proof.Machine.execFetchOpComplete op s
  | .wini h => Sys2Proof.Machine.execWini h s
  | .wpush h => Sys2Proof.Machine.execWpush h s
  | .wpop h => Sys2Proof.Machine.execWpop h s
  | .wins h => Sys2Proof.Machine.execWins h s
  | .wstat h => Sys2Proof.Machine.execWstat h s
  | .topk h => Sys2Proof.Machine.execTopk h s
  | .dgrow h => Sys2Proof.Machine.execDgrow h s
  | .dgrowComplete op => Sys2Proof.Machine.execDgrowComplete op s
  | .sys h => Sys2Proof.Machine.execSys h s
  | .sret h => Sys2Proof.Machine.execSret h s
  | .bkpt h => Sys2Proof.Machine.execBkpt h s
  | .sigchk h => Sys2Proof.Machine.execSigchk h s
  | .ireg h => Sys2Proof.Machine.execIreg h s
  | .halt h => Sys2Proof.Machine.execHalt h s
  | .haltWake gid => Sys2Proof.Machine.execHaltWake gid s
  | .zget h => Sys2Proof.Machine.execZget h s
  | .zset h => Sys2Proof.Machine.execZset h s
  | .tlbi h => Sys2Proof.Machine.execTlbi h s
  | .tlbiComplete op => Sys2Proof.Machine.execTlbiComplete op s
  | .replay h => Sys2Proof.Machine.execReplay h s
  | .ownset h => Sys2Proof.Machine.execOwnset h s
  | .ownsetComplete op => Sys2Proof.Machine.execOwnsetComplete op s
  | .caps h => Sys2Proof.Machine.execCaps h s
  | .pmc h => Sys2Proof.Machine.execPmc h s
  | .pageWalk core asid va => Sys2Proof.Machine.execPageWalk core asid va s
  | .l2RequestDeferred req => Sys2Proof.Machine.execL2RequestDeferred req s
  | .l2Fill sector slot => Sys2Proof.Machine.execL2Fill sector slot s
  | .gatherDirectReturn load => Sys2Proof.Machine.execGatherDirectReturn load s
  | .parityRecovery p => Sys2Proof.Machine.execParityRecovery p s
  | .ownershipTransfer region => Sys2Proof.Machine.execOwnershipTransfer region s
  | .cxlExtentEvent ext => Sys2Proof.Machine.execCxlExtentEvent ext s
  | .packetReceive p => Sys2Proof.Machine.execPacketReceive p s
  | .flitReceive link f => Sys2Proof.Machine.execFlitReceive link f s
  | .linkLaneLoss link lane => Sys2Proof.Machine.execLinkLaneLoss link lane s
  | .linkRetrainComplete link ok farSeq => Sys2Proof.Machine.execLinkRetrainComplete link ok farSeq s
  | .planePortReport plane down => Sys2Proof.Machine.execPlanePortReport plane down s
  | .switchContribution plane p => Sys2Proof.Machine.execSwitchContribution plane p s
  | .switchChunkDeliver plane chunk => Sys2Proof.Machine.execSwitchChunkDeliver plane chunk s
  | .switchBroadcastDeliver plane p => Sys2Proof.Machine.execSwitchBroadcastDeliver plane p s
  | .mailboxDoorbell value => Sys2Proof.Machine.execMailboxDoorbell value s
  | .dispatchPlace task => Sys2Proof.Machine.execDispatchPlace task s
  | .pairScrub pair => Sys2Proof.Machine.execPairScrub pair s
  | .agingStep task => Sys2Proof.Machine.execAgingStep task s
  | .teamRetire team => Sys2Proof.Machine.execTeamRetire team s
  | .hostTaskPost task => Sys2Proof.Machine.execHostTaskPost task s
  | .htdone value => Sys2Proof.Machine.execHtdone value s
  | .dispatcherPreempt task => Sys2Proof.Machine.execDispatcherPreempt task s
  | .prmtGo value => Sys2Proof.Machine.execPrmtGo value s
  | .ckctlCheckpoint value => Sys2Proof.Machine.execCkctlCheckpoint value s
  | .ckctlRestore value => Sys2Proof.Machine.execCkctlRestore value s
  | .preemptHalt team => Sys2Proof.Machine.execPreemptHalt team s
  | .imageWrite team => Sys2Proof.Machine.execImageWrite team s
  | .errorLogArbitrate unit => Sys2Proof.Machine.execErrorLogArbitrate unit s
  | .kcmdClear => Sys2Proof.Machine.execKcmdClear s
  | .kcmdPlain => Sys2Proof.Machine.execKcmdPlain s
  | .kcmdLoad value => Sys2Proof.Machine.execKcmdLoad value s
  | .kcmdComplete => Sys2Proof.Machine.execKcmdComplete s
  | .kprovWrite value => Sys2Proof.Machine.execKprovWrite value s
  | .almcfgWrite value => Sys2Proof.Machine.execAlmcfgWrite value s
  | .almrel value => Sys2Proof.Machine.execAlmrel value s
  | .glitchDetect voltage => Sys2Proof.Machine.execGlitchDetect voltage s
  | .debugIntrusion => Sys2Proof.Machine.execDebugIntrusion s
  | .alarmContain => Sys2Proof.Machine.execAlarmContain s
  | .alarmErase => Sys2Proof.Machine.execAlarmErase s
  | .hostEventRequest die => Sys2Proof.Machine.execHostEventRequest die s
  | .registerWrite addr value => Sys2Proof.Machine.execRegisterWrite addr value s
  | .fixedLatencyResultWrite gid => Sys2Proof.Machine.execFixedLatencyResultWrite gid s
  | .hostAccess acc => Sys2Proof.Machine.execHostAccess acc s
  | .unassignedOpcode major minor h => Sys2Proof.Machine.execUnassignedOpcode major minor h s

end Sys2Proof.Machine
end

