-- ==== Sys2Proof/Machine/Turns.lean ====
section
/-!
DEFINITION. Which agent moves and what surrounds one instruction (03_lanes.md R77 to R81; 02_code.md R29, R31 to R36, R53): the choice of
a group, its fetch, the counts of an issue, a host core's fetch, and the turns of the hardware that the manual gives no name.
-/

namespace Sys2Proof.Machine

/-! ## Fetch -/

/-- What the fetch of one 4-byte word meets. -/
inductive CodeLook where
  | deny | key | poison
  | miss (level base pages : Nat)
  | mac (sec slot : Nat)
  | word (pa slot : Nat)
  deriving DecidableEq, Repr

/-- The fetch of a word at an address (R31, R259, R267, R485, R488). -/
def State.codeLook (s : State) (g : Group) (va : Nat) : CodeLook :=
  match s.peek (.core g.core) (s.asidOf g) va g.sup .fetch with
  | .deny => .deny
  | .key => .key
  | .miss l b n => .miss l b n
  | .ok pa p =>
    if isDomain pa || isDevReg pa then .word pa (pteKey p)
    else match s.look (sectorOf pa) (pteKey p) with
      | .poison => .poison
      | .mac => .mac (sectorOf pa) (pteKey p)
      | .ok => .word pa (pteKey p)

def CodeLook.isWord : CodeLook → Bool
  | .word _ _ => true
  | _ => false
def CodeLook.isMiss : CodeLook → Bool
  | .miss _ _ _ => true
  | _ => false

/-- The word as memory holds it: from another package as it answered, from the device-register window as the registers read (R252). A sector that
L2 does not hold for this mapping is filled. -/
def State.codeRead (s : State) (gid : Nat) (g : Group) (pa slot : Nat) : State × W32 :=
  if isDomain pa then (s, BitVec.ofNat 32 (leNat (kget [] g.far pa)))
  else if isDevReg pa then (s, BitVec.ofNat 32 (leNat (s.devRead pa 4)))
  else
    let who : Agent := .group gid g.core (s.asidOf g)
    let hit := match klookup s.mem.l2 (sectorOf pa) with | some e => e.slot == slot | none => false
    let s1 := if hit then s.touch who pa 4 false else s.arrive who pa 4 slot false
    (s1, BitVec.ofNat 32 (leNat (s1.homeBytes pa 4)))

/-- Bytes as they stood before a write. -/
def Overwrite.undo (e : Overwrite) (pa : Nat) (bs : List Byte) : List Byte :=
  bs.mapIdx fun i b => if e.pa ≤ pa + i ∧ pa + i < e.pa + e.old.length then e.old.getD (pa + i - e.pa) b else b

/-- The contents that bytes have had before each write to them since step `born`, the latest first. -/
def earlierBytes (born pa : Nat) : List Overwrite → List Byte → List (List Byte)
  | [], _ => []
  | e :: r, bs =>
    if e.stamp < born ∨ e.pa + e.old.length ≤ pa ∨ pa + bs.length ≤ e.pa then earlierBytes born pa r bs
    else e.undo pa bs :: earlierBytes born pa r (e.undo pa bs)

/-- A word whose bytes have changed since the group became resident holds its new contents or some of its old ones (R33). -/
def codeValue (olds : List (List Byte)) (n va : Nat) (new : W32) : W32 :=
  match olds with
  | [] => new
  | _ => match olds[(Config.freeWord n va).toNat % (olds.length + 1)]? with
    | some bs => BitVec.ofNat 32 (leNat bs)
    | none => new

/-- The contents that a word of code has had since the group became resident. -/
def State.codeOlds (s : State) (g : Group) (pa : Nat) : List (List Byte) :=
  if isDomain pa || isDevReg pa then [] else earlierBytes g.born pa s.mem.was (s.homeBytes pa 4)

/-- Words fetched from an address on, each with the effects of its translation. -/
def State.codeRun (s : State) (gid : Nat) (g : Group) : List (Nat × Nat × Nat) → State × List W32
  | [] => (s, [])
  | (va, pa, slot) :: r =>
    let (s1, v) := (s.useEntry (.core g.core) (s.asidOf g) va .fetch).codeRead gid g pa slot
    let w := codeValue (s1.codeOlds g pa) s.free va v
    let (s2, ws) := s1.codeRun gid g r
    (s2, w :: ws)

/-- The outcome of a fetch: the first word that fails; the words that are there, by address, and the pages that the others miss; a wait, with what
has been asked of another package; or the words. -/
inductive Fetched where
  | fail (va : Nat) (k : CodeLook)
  | park (ps : List (Nat × Nat × Nat)) (ms : List (Nat × Nat × Nat × Nat))
  | wait (s : State)
  | ok (s : State) (ws : List W32)

/-- The words of code in domain memory that another package has neither been asked for nor answered are asked for (R282, R421); a word that
no link reaches leaves REMOTE_FAIL pending (R429). -/
def State.askCode (s : State) (gid : Nat) (g : Group) (pas : List (Nat × Nat)) : State :=
  pas.foldl (fun s e =>
    if s.net.outs.any fun o => o.kind == .code gid e.1 then s
    else
      match s.request (packetOf .readReq (domainPkg e.1) (domainAddr e.1) 4 [] e.2 0) (.code gid e.1) none with
      | some (s1, _) => s1
      | none => if (s.routes (domainPkg e.1)).isEmpty then s.remoteFail gid g.wordLanes g.pc else s) s

/-- A word of code is excluded from memory (R336, R341), or its slice's queue is full (R273). -/
def State.codeWaits (s : State) (gid : Nat) (g : Group) (pa : Nat) : Bool :=
  !isDomain pa && !isDevReg pa && (s.accessWaits (.group gid g.core (s.asidOf g)) pa 4 false || s.sliceFull pa)

/-- A word in another package that has not been answered. -/
def codeAway (g : Group) (p : Nat × Nat × Nat) : Bool := isDomain p.2.1 && (klookup g.far p.2.1).isNone

/-- `n` words from an address on, those excepted that an earlier replay has fetched (R507): the first word that fails decides; words and tables
of another package are waited for. -/
def State.codeWords (s : State) (gid : Nat) (g : Group) (va n : Nat) : Fetched :=
  let all := (List.range n).map fun k => va + 4 * k
  let todo := all.filter fun a => (klookup g.fetched a).isNone
  let unread := todo.filter fun a => s.peekWaits (.core g.core) (s.asidOf g) a .fetch
  let looks := todo.map fun a => (a, s.codeLook g a)
  let ps := looks.filterMap fun e => match e.2 with | .word pa slot => some (e.1, pa, slot) | _ => none
  if !unread.isEmpty then .wait (unread.foldl (fun s a => s.askTables (.core g.core) (s.asidOf g) a) s)
  else
    match looks.find? fun e => !e.2.isWord with
    | some (a, k) =>
      if !k.isMiss then .fail a k
      else if ps.any fun p => s.codeWaits gid g p.2.1 then .wait s
      else .park ps (looks.filterMap fun e => match e.2 with | .miss l b n => some (e.1, l, b, n) | _ => none)
    | none =>
      let ask := (ps.filter (codeAway g)).map Prod.snd
      if !ask.isEmpty then .wait (s.askCode gid g ask)
      else if ps.any fun p => s.codeWaits gid g p.2.1 then .wait s
      else
        let r := s.codeRun gid g ps
        .ok r.1 (if todo.length = n then r.2 else all.map fun a => (((ps.map Prod.fst).zip r.2 ++ g.fetched).lookup a).getD 0)

/-- Bit 63 of the word: a parameter block follows (R27, R29). -/
def takesBlock (ws : List W32) : Bool := (ws.getD 1 0).getLsbD 31

/-- The words of the instruction at the program counter, with its parameter block. Words that came from another package or over several replays
are kept until the instruction issues (R507). -/
def State.fetchGroup (s : State) (gid : Nat) (g : Group) : Fetched :=
  let done (s : State) (ws : List W32) : Fetched :=
    .ok (if g.far.isEmpty && g.fetched.isEmpty then s
         else s.modGroup gid fun x => { x with far := [], fetched := ws.zipIdx.map fun e => (g.pc.toNat + 4 * e.2, e.1) }) ws
  match s.codeWords gid g g.pc.toNat 3 with
  | .ok s1 ws =>
    if takesBlock ws then
      match s1.codeWords gid g (g.pc.toNat + 12) 4 with
      | .ok s2 ps => done s2 (ws ++ ps)
      | x => x
    else done s1 ws
  | x => x

def wordBytes (ws : List W32) : List Byte := ws.flatMap fun w => leBytes 4 w.toNat

/-- A word that is not there: nothing about it can be malformed, and no register is read. -/
def fetchShape : Shape := { major := 0x00, minor := 1 }
def fetchHead : Head :=
  { guard := { inv := false, flag := 0 }, stall := 0, yield := false, reuse := false, ty := .b32, mods := 0,
    d := .row 0 0 0, a := .row 0 0 0, b := .row 0 0 0, params := none }

/-- A failed fetch (R31, R474, R485, R488): the trap of the word at the program counter; the walk that found it has read its entries. A pending
cause comes first (R457). TVAL is the address of the instruction also where one of its later words or its parameter block is what lies in a page
without X, which R31 does not say: DESIGN CHOICE (log 22). -/
def fetchFail (va : Nat) (k : CodeLook) (s : State) : Host.Outcome State Fault Refusal :=
  issue (fun _ => fetchShape) fetchHead
    (fun c s =>
      let lanes := sameVal c.g.wordLanes c.g.pc
      let asid := s.asidOf c.g
      let s := s.touchWalk (.core c.g.core) asid va
      match k with
      | .deny => .stop (trapAt s c.gid c.g cAccess lanes)
      | .key => .stop (trapAt (s.alarm 4 (some asid)) c.gid c.g cAccess lanes)
      | .poison => .poison lanes
      | .mac sec slot => .stop (trapAt (s.fillSector sec slot asid) c.gid c.g cSecurity lanes)
      | _ => .done s) s

/-- A fetch that misses pages parks (R267): every page it misses faults, and the words that are there are fetched and kept (R507). -/
def fetchPark (ps : List (Nat × Nat × Nat)) (ms : List (Nat × Nat × Nat × Nat)) (s : State) : Host.Outcome State Fault Refusal :=
  issue (fun _ => fetchShape) fetchHead
    (fun c s =>
      let asid := s.asidOf c.g
      let here := ps.filter fun p => !codeAway c.g p
      let r := (s.askCode c.gid c.g ((ps.filter (codeAway c.g)).map Prod.snd)).codeRun c.gid c.g here
      let s1 := ms.foldl (fun s m =>
        (s.touchWalk (.core c.g.core) asid m.1).parkFault (dieOf c.g.core) asid c.g.core 3 m.2.1 m.2.2.1 m.2.2.2) r.1
      .stop (s1.modGroup c.gid fun g => { g with wait := .parked, fetched := (here.map Prod.fst).zip r.2 ++ g.fetched })) s

/-! ## Readiness -/

/-- A group may issue once its time has come: it does not wait, its team is not halted, and a lane is live (R74, R78). -/
def State.mayIssue (s : State) (g : Group) : Bool := g.wait == .none && !s.groupHalted g && !g.lives.isEmpty

/-- A cause is pending for the group, which its next turn raises whatever its instruction (R457). -/
def Group.due (g : Group) : Bool := g.dmrPend.isSome || (!g.rfPend.isEmpty && !g.rfHold) || g.lateCause.isSome || g.latePoisoned

/-- An attempt to issue has sent a request, to another package or to a slice, which its wait needs. -/
def State.asked (s s' : State) : Bool :=
  s'.net.outs.length != s.net.outs.length || s'.mem.tables.length != s.mem.tables.length || s'.mem.l2q.length != s.mem.l2q.length

/-- Something other than its stall count keeps the group from issuing its next instruction (R78): its fetch waits, or exec leaves it at the
instruction: the scoreboard, a fence, a full queue, a lock. An attempt that sends a request is made. -/
def State.held (s : State) (gid : Nat) (g : Group) : Bool :=
  let s1 : State := { s.modGroup gid fun g => { g with readyAt := 0 } with cur := .group gid, free := s.free + 1 }
  match s1.fetchGroup gid { g with readyAt := 0 } with
  | .wait s2 => !s1.asked s2 && (match klookup s2.groups gid with | some g1 => !g1.due | none => true)
  | .fail _ _ => false
  | .park _ _ => false
  | .ok s2 ws =>
    match decodeBytes (wordBytes ws) with
    | some (i, _) =>
      (match exec i s2 with
       | .next s3 =>
         (match klookup s3.groups gid with
          | some g1 => decide (g1.readyAt = 0) && g1.wait == .none && !s3.groupHalted g1 && !s2.asked s3
          | none => false)
       | _ => false)
    | none => false

/-- Groups of a quarter that are ready, or will be when their stall count has elapsed (R78). -/
def State.quarterGroups (s : State) (core q : Nat) : List (Nat × Group) :=
  s.groups.filter fun e => e.2.core == core && e.2.quarter == q && s.mayIssue e.2 && !s.held e.1 e.2

/-! ## The clock -/

/-- A group that is not ready while the clock moves on to t does not become ready before t (R79). -/
def State.holdGroups (s : State) (t : Nat) : State :=
  { s with groups := s.groups.map fun e =>
      if e.2.readyAt < t && !e.2.lives.isEmpty && (!s.mayIssue e.2 || s.held e.1 e.2) then (e.1, { e.2 with readyAt := t }) else e }

/-- The clock moves on; cores with a team resident count its clocks (R496). -/
def State.advanceTo (s : State) (t : Nat) : State :=
  if t ≤ s.clock then s
  else
    let seen (e : Nat × Counter) : Nat × Counter :=
      match (s.teams.map Prod.snd).find? fun tm => decide (e.1 < 1920) && tm.on (e.1 / 8) with
      | some tm => (e.1, e.2.see 0x01 (some tm.asid) (t - s.clock))
      | none => e
    { s.holdGroups t with clock := t, pmc := s.pmc.map seen, plat := { s.plat with hubT := s.plat.hubT + s.hubParts (t - s.clock) } }

/-! ## Choice of a group -/

/-- The earlier of two groups: ready earliest, the lower slot on a tie (R79). -/
def readyBefore (a b : Nat × Group) : Bool :=
  decide (a.2.readyAt < b.2.readyAt ∨ (a.2.readyAt = b.2.readyAt ∧ a.2.slot ≤ b.2.slot))

def earliest : List (Nat × Group) → Option (Nat × Group)
  | [] => none
  | e :: r => match earliest r with | some x => if readyBefore e x then some e else some x | none => some e

/-- A yielding group is deferred until the others that were ready have issued, or 8 issue cycles have passed (R36). -/
def Group.deferred (g : Group) (t : Nat) : Bool := !g.deferFor.isEmpty && decide (t < g.deferUntil)

/-- The quarter's next issue: its clock and its group (R79). -/
def State.pick (s : State) (core q : Nat) : Option (Nat × Nat × Group) :=
  let gs := s.quarterGroups core q
  match earliest gs with
  | none => none
  | some e =>
    let t := max (max s.clock e.2.readyAt) (kget 0 s.qnext (4 * core + q))
    let ready := gs.filter fun x => decide (x.2.readyAt ≤ t)
    match earliest (ready.filter fun x => !x.2.deferred t) with
    | some x => some (t, x)
    | none => (earliest ready).map fun x => (t, x)

/-! ## What an issue counts -/

/-- YIELD of a device instruction (R36). -/
def yieldOf (i : Instr) : Bool := match deviceParts i with | some (_, _, h) => h.yield | none => false

/-- Passes of an instruction, and those skipped because no lane of them is active (R77). -/
def passes (g : Group) : Nat × Nat :=
  if g.width = 64 then
    let n := (if g.actives.any (fun l => decide (l < 32)) then 1 else 0) + (if g.actives.any (fun l => decide (32 ≤ l)) then 1 else 0)
    (n, 2 - n)
  else if g.actives.isEmpty then (0, 1) else (1, 0)

/-- Structured instructions and ret take an issue cycle also where no lane is active (R87). -/
def takesCycle (i : Instr) : Bool :=
  match deviceParts i with
  | some (m, n, _) => m == 0x01 || (m == 0x00 && n == 5)
  | none => false

/-- Clocks of its quarter that an instruction uses (R77, R87). -/
def issueClocks (g : Group) (i : Instr) : Nat := if takesCycle i then max (passes g).1 1 else (passes g).1

/-- The datapath lanes that participating lanes occupy, pass by pass: of a group of width 16 those of its half (R77). -/
def datapath (g : Group) (ps : List Nat) : List (List Nat) :=
  if g.width = 64 then [ps.filter (· < 32), (ps.filter (32 ≤ ·)).map (· - 32)]
  else if g.width = 16 then [ps.map (· + 16 * g.half)] else [ps]

/-- A ready group of the quarter at the same address may share a pass of the instruction (R81): vector form, a major from 0x10 to 0x5F, and
disjoint datapath lanes. In those majors a scalar D is uniform form (R48). -/
def State.mayPair (s : State) (gid : Nat) (g : Group) (i : Instr) (others : List Nat) : Bool :=
  match deviceParts i with
  | some (m, _, h) =>
    decide (0x10 ≤ m.toNat ∧ m.toNat ≤ 0x5F) && !isScal h.d && s.groups.any fun e =>
      e.1 != gid && others.contains e.1 && e.2.pc == g.pc
        && ((datapath g (g.parts h.guard)).zip (datapath e.2 (e.2.parts h.guard))).any fun p =>
            !p.1.isEmpty && !p.2.isEmpty && p.1.all fun l => !p.2.contains l
  | none => false

/-- Counted events of an issue (R496); how many accesses compression saves, and whether two groups share the pass, is the hardware's. -/
def State.countIssue (s : State) (gid : Nat) (g : Group) (i : Instr) (others : List Nat) : State :=
  let asid := s.asidOf g
  let p := passes g
  let s1 := ((s.countCore g.core 0x02 asid).countCore g.core 0x03 asid p.1).countCore g.core 0x04 asid p.2
  let s2 := s1.countCore g.core 0x06 asid ((Config.freeWord s.free 6).toNat % (4 * p.1 + 1))
  if s.mayPair gid g i others && Config.freeBit s.free 5 then s2.countCore g.core 0x05 asid else s2

/-- The quarter after an issue: its next clock (R77), the groups that were waiting for it, and the deferral of a yielding group (R36). -/
def State.quarterDone (s : State) (gid : Nat) (g : Group) (i : Instr) (t : Nat) (others : List Nat) : State :=
  let s1 : State := { s with
    qnext := kput s.qnext (4 * g.core + g.quarter) (t + issueClocks g i)
    groups := s.groups.map fun e =>
      if e.2.core = g.core ∧ e.2.quarter = g.quarter ∧ e.2.deferFor.contains gid then
        (e.1, { e.2 with deferFor := e.2.deferFor.filter fun k => k != gid })
      else e }
  if yieldOf i then s1.modGroup gid fun g => { g with deferFor := others, deferUntil := t + 8 } else s1

/-- After an instruction: one that still waits at issue is tried again on the next clock; else its issue is counted. -/
def State.afterIssue (s : State) (gid : Nat) (g : Group) (i : Instr) (t : Nat) (others : List Nat) : State :=
  match klookup s.groups gid with
  | some g1 =>
    if g1.readyAt ≤ t ∧ g1.wait = .none ∧ !s.groupHalted g1 then s.modGroup gid fun g => { g with readyAt := t + 1 }
    else (((s.dropGot (groupOp gid g.sup)).modGroup gid Group.dropFetched).countIssue gid g i others).quarterDone gid g i t others
  | none => s

/-! ## Turns of groups and hosts -/

/-- A state as one agent's instruction finds it. -/
def State.actAs (s : State) (a : Actor) : State := { s with cur := a, free := s.free + 1 }

/-- One issue of a group at clock t. -/
def State.groupTurn (s : State) (t gid : Nat) (g : Group) : Host.Outcome State Fault Refusal :=
  let others := ((s.quarterGroups g.core g.quarter).filter fun e => e.1 != gid && decide (e.2.readyAt ≤ t)).map Prod.fst
  let s1 := (s.advanceTo t).actAs (.group gid)
  match s1.fetchGroup gid g with
  | .wait s2 => issue (fun _ => fetchShape) fetchHead (fun _ s => .stop (s.modGroup gid fun g => { g with readyAt := t + 1 })) s2
  | .fail va k => fetchFail va k s1
  | .park ps ms => fetchPark ps ms s1
  | .ok s2 ws =>
    match decodeBytes (wordBytes ws) with
    | some (i, _) =>
      match exec i s2 with
      | .next s3 => .next (s3.afterIssue gid g i t others)
      | r => r
    | none => .next s1

/-- A quarter's turn (R79). -/
def State.quarterTurn (s : State) (core q : Nat) : Host.Outcome State Fault Refusal :=
  match s.pick core q with
  | some (t, gid, g) => s.groupTurn t gid g
  | none => .next s

/-- A word of custom-0 that is no instruction of Xovmtx raises an illegal-instruction exception (R346), which aborts an open transaction
(R340); whether mtval holds the word is left to the hart. -/
def State.hostIllegal (s : State) (h : Nat) (w : W32) : State :=
  let c := s.host h
  s.setHost h (if c.txOpen then c.abort 6 0 else c.trap 2 (if Config.freeBit s.free 0 then w.setWidth 64 else 0))

/-- The RISC-V words that abort a host transaction with ILLEGAL (R340): fence.i, AMO, LR and SC, c.ebreak, and the SYSTEM words ecall, ebreak, wfi
and those of CSR instructions. PRESUMED: their encodings are RISC-V's own (log 43). -/
def isForbidden (w : W32) : Bool :=
  let funct : BitVec 3 := w.extractLsb' 12 3
  match (w.extractLsb' 0 7).toNat with
  | 0x0F => funct == 1
  | 0x2F => true
  | 0x73 => w == 0x00000073 || w == 0x00100073 || w == 0x10500073 || (funct != 0 && funct != 4)
  | _ => w.extractLsb' 0 16 == 0x9002#16

/-- The word at a host core's pc, a physical address, and what its fetch does at the home; none while the access is excluded (R312, R336, R339, R341)
or its slice's queue is full (R273). In the device-register window it reads the registers (R252). -/
def State.hostFetch (s : State) (h : Nat) : Option (State × W32) :=
  let pa := (s.host h).pc.toNat
  if !hostWindow pa then some (s, BitVec.ofNat 32 (leNat (s.homeBytes pa 4)))
  else if isDevReg pa then some (s, BitVec.ofNat 32 (leNat (s.devRead pa 4)))
  else if s.accessWaits (.host h) pa 4 false || s.sliceFull pa then none
  else
    let (s1, bs) := s.readAt (.host h) pa 4 0
    some (s1, BitVec.ofNat 32 (leNat bs))

/-- A word of a host core: an instruction of Xovmtx, illegal, forbidden in its open transaction, or RISC-V's own. -/
def State.hostWord (s : State) (h : Nat) (w : W32) : Host.Outcome State Fault Refusal :=
  match decodeHost w with
  | some i => exec i s
  | none =>
    if isCustom0 w then .next (s.hostIllegal h w)
    else if (s.host h).txOpen && isForbidden w then .next (s.setHost h ((s.host h).abort 5 0))
    else .refused (.hostRiscv w)

/-- A fetched sector fails its MAC (R488): the core takes an access fault, which aborts its open transaction. -/
def State.hostFetchMac (s : State) (h : Nat) : State :=
  let c := s.host h
  (s.fillSector (sectorOf c.pc.toNat) 0 0).setHost h (if c.txOpen then c.abort 6 0 else c.trap 5 c.pc)

/-- A host core's turn: its next word. -/
def State.hostTurn (s : State) (h : Nat) : Host.Outcome State Fault Refusal :=
  let c := s.host h
  let pa := c.pc.toNat
  if !c.running || c.waitRd.isSome then .next s
  else
    let s1 := (s.advanceTo (s.clock + 1)).actAs (.host h)
    if hostWindow pa && !isDevReg pa && s1.hasStorage pa && s1.look (sectorOf pa) 0 == .mac then .next (s1.hostFetchMac h)
    else match s1.hostFetch h with
      | some (s2, w) => s2.hostWord h w
      | none => .next s1

/-! ## Turns of the hardware -/

/-- An event of the table: neither an instruction of a group nor one of a host core. -/
def isEvent (i : Instr) : Bool := (deviceParts i).isNone && (hostBits i).isNone

/-- Events that a package may still take after a thermal trip (R20, R21). -/
def afterTrip : Instr → Bool
  | .coldReset => true
  | .mctpReadSensors => true
  | .mctpReadEventLog => true
  | .mctpSetPowerLimit _ => true
  | _ => false

/-- What still acts after a failed check of the boot (R24): Xaush, its mailbox and sideband, and the clocks. -/
def whileHeld : Instr → Bool
  | .coldReset => true
  | .mailboxImage _ => true
  | .mailboxDoorbell _ => true
  | .registerWrite addr _ => decide (2 ^ 52 ≤ addr)
  | .mctpReadSensors => true
  | .mctpReadEventLog => true
  | .mctpSetPowerLimit _ => true
  | .clockStepDown => true
  | .clockStepUp => true
  | .thermalTrip => true
  | .glitchDetect _ => true
  | .debugIntrusion => true
  | .alarmContain => true
  | .alarmErase => true
  | .hostAccess a => (match a.agent with | .host _ => true | _ => false)
  | _ => false

/-- The agent of an access is at work (R23): a host core once the firmware runs on it; a device on PCIe or CXL and another package once the first
stage has brought up memory, the hubs and the links. -/
def State.agentUp (s : State) : Instr → Bool
  | .hostAccess a => (match a.agent with | .host h => (s.host h).running | _ => decide (0 < s.xa.stage))
  | .packetReceive _ => decide (0 < s.xa.stage)
  | .flitReceive _ _ => decide (0 < s.xa.stage)
  | .cxlExtentEvent _ => decide (0 < s.xa.stage)
  | _ => true

/-- An event may happen: after a thermal trip (R20) and while the dies are held in reset (R24) few do. -/
def State.mayHappen (s : State) (i : Instr) : Bool :=
  isEvent i && (!s.plat.tripped || afterTrip i) && (!s.xa.held || whileHeld i) && s.agentUp i

/-- No compute core and no unit of a compute die or a hub acts (R20, R24). -/
def State.stopped (s : State) : Bool := s.plat.tripped || s.xa.held

/-- A turn of the host die, which a failed check of the boot does not hold (R24). -/
def hostDieTurn : Turn → Bool
  | .tick _ => true
  | .drainHost _ _ => true
  | .poolStep => true
  | _ => false

/-- A register-file upset in a lane's row (R472): corrected and logged, or poisoned and logged. A row kept in uniform or delta form shares
its base, so that an error there reaches all its lanes; which form a row has is left open (log 66). -/
def State.upsetRow (s : State) (gid lane row : Nat) (double : Bool) : State :=
  match klookup s.groups gid with
  | none => s
  | some g =>
    let v := (Config.freeWord s.free row).toNat
    let s1 := s.report (dieOf g.core) (if double then 1 else 0) (s.asidOf g) g.core v
    let hit := if Config.freeBit s.free row then List.range g.lanes.length else [lane]
    if double then s1.modGroup gid fun g => g.modLanes hit fun _ ln =>
      { ln.setPoison row true with upset := if ln.upset.contains row then ln.upset else ln.upset ++ [row] }
    else s1

/-- A nesting counter's file is upset (R467): the primary or the duplicate holds another value. -/
def State.upsetCnt (s : State) (gid lane v : Nat) : State :=
  s.modGroup gid fun g => g.modLane lane fun ln =>
    if Config.freeBit s.free lane then { ln with cnt := min v 16 } else { ln with dup := min v 16 }

/-- An error of memory (R474, R475): HBM4 corrects on channel 8 and reports an uncorrectable error on channel 9, LPDDR-6 and CXL memory
report uncorrectable errors on channel 10. The sector of an uncorrectable error is poisoned. Which of a quadrant's stacks or channels holds
an address is left open. -/
def State.upsetMem (s : State) (pa : Nat) (double : Bool) : State :=
  let hbm := isHbm pa || windowOf pa == 4
  let part := (Config.freeWord s.free 8).toNat
  let src := if hbm then 2 * quadrantOf pa + part % 2 else if windowOf pa = 5 then 0 else 8 * quadrantOf pa + part % 8
  if !s.hasStorage pa || isDomain pa || (!hbm && !double) then s
  else
    let s1 := s.report (hubLog (homeHub pa)) (if hbm then (if double then 9 else 8) else 10) 0 src pa
    if double then { s1 with mem := { s1.mem with poison := addLine s1.mem.poison (sectorOf pa) } } else s1

/-- A clean line leaves a core's L1 (R290); an atomic-owned line stays with its owner (R303). -/
def State.evictL1 (s : State) (core line : Nat) : State := s.dropL1 fun c l => c == core && l == line

/-- The turns that the manual leaves to the hardware and gives no name. -/
def State.hidden (s : State) (t : Turn) : State :=
  match t with
  | .tick n => s.advanceTo (s.clock + n)
  | .drain gid k => s.drainAt gid k
  | .drainHost h k => s.drainHost h k
  | .sendFlit k => s.sendFlit k
  | .evictL1 core line => s.evictL1 core line
  | .evictL2 sec => { s.dropSector sec with mem := { (s.dropSector sec).mem with peer := kerase s.mem.peer sec } }
  | .evictTlb k => match s.mem.tlb[k]? with | some e => s.dropTlb e | none => s
  | .evictFetch core line => { s with mem := { s.mem with fcache := s.mem.fcache.filter fun x => !(x.core == core && x.line == line) } }
  | .performLane op lane => s.performLane op lane
  | .landLane op lane => s.landLane op lane
  | .upsetRow gid lane row double => s.upsetRow gid lane row double
  | .upsetCnt gid lane v => s.upsetCnt gid lane v
  | .upsetMem pa double => s.upsetMem pa double
  | .poolStep => s.poolTurn
  | _ => s

/-- One turn. After a thermal trip nothing runs (R20); while the other dies are held in reset, the host die alone does (R24). -/
def runTurn (t : Turn) (s : State) : Host.Outcome State Fault Refusal :=
  match t with
  | .event i => if s.mayHappen i then exec i (s.actAs .idle) else .next s
  | .quarter core q => if s.stopped then .next s else s.quarterTurn core q
  | .host h => if s.plat.tripped then .next s else s.hostTurn h
  | t => if s.plat.tripped || (s.xa.held && !hostDieTurn t) then .next s else .next ((s.actAs .idle).hidden t)

/-! ## The turn where the schedule names none -/

/-- The turns that bring an operation in flight forward. -/
def opTurns (k : Nat) : Op → List Turn
  | .load l => l.lanes.map (fun x => .performLane k x.lane) ++ [.event (.loadDataReturn k)]
  | .atom _ => []
  | .deposit _ => [.event (.remoteDepositArrive k)]
  | .cflush _ _ _ _ => [.event (.cflushComplete k)]
  | .tlbi _ _ _ => [.event (.tlbiComplete k)]
  | .ownset _ _ _ _ _ _ => [.event (.ownsetComplete k)]
  | .spawn _ _ _ _ => []
  | .card c => [.event (.hazardRelease k)] ++ (List.range c.units.length).map (fun u => .event (.cardUnitWrite k u)) ++ [.event (.cardComplete k)]
  | .join _ => [.event (.hazardRelease k), .event (.joinOpStart k), .event (.jmulBarrierSatisfied k), .event (.joinOpComplete k),
                .event (.jcloseFree k)]
  | .fetch _ => [.event (.hazardRelease k), .event (.fetchOpStart k), .event (.fetchOpComplete k), .event (.dgrowComplete k)]

/-- The turns that end a wait of a group or make its stores visible. -/
def groupTurns (gid : Nat) (g : Group) : List Turn :=
  (List.range g.stores.length).map (fun k => .drain gid k) ++
  (match g.wait with
   | .await _ _ => [.event (.awaitSatisfied gid)]
   | .bar n => [.event (.barRelease g.team n)]
   | .bwait _ _ _ _ => [.event (.bwaitSatisfied gid)]
   | .halt _ => [.event (.haltWake gid)]
   | .tbeg _ => [.event (.tbegResume gid)]
   | .lock _ => [.event (.fallbackLockGrant gid)]
   | _ => []) ++
  (if g.fence.isSome then [.event (.fenceComplete gid)] else []) ++ [.event (.tendCommit gid)]

/-- The turns of the pool, where a checkpoint, a restore or a submission is in progress. -/
def State.poolTurns (s : State) : List Turn := if s.pool.ck.isSome || s.pool.mbstat.getLsbD 8 then [.poolStep] else []

/-- Turns that may bring work in flight forward: requests that wait for a slice, operations, groups, host cores' stores and ticketed commits,
flits, teams that end, the pool. -/
def State.dueTurns (s : State) : List Turn :=
  s.mem.l2q.map (fun e => .event (.l2RequestDeferred e.1)) ++ s.ops.flatMap (fun e => opTurns e.1 e.2)
    ++ s.groups.flatMap (fun e => groupTurns e.1 e.2) ++ s.hosts.map (fun e => .event (.xtendCommit e.1)) ++ s.poolTurns
    ++ s.hosts.flatMap (fun e => (List.range e.2.stq.length).map fun k => .drainHost e.1 k)
    ++ s.net.links.map (fun e => .sendFlit e.1) ++ s.teams.map (fun e => .event (.teamRetire e.1))

/-- The turn changes the state otherwise than in the model's own fields. -/
def State.stirs (s : State) (t : Turn) : Bool :=
  match runTurn t s with
  | .next s1 => decide ({ s1 with free := s.free, cur := s.cur } ≠ s)
  | _ => false

/-- The turn where the schedule names none (R82): work in flight goes forward first; then the group that has been ready longest issues; else a host
core runs, else a clock passes. So every resident team keeps being issued once the schedule has been used up. -/
def State.defaultTurn (s : State) : Turn :=
  match s.dueTurns.find? s.stirs with
  | some t => t
  | none =>
    match earliest (s.groups.filter fun e => s.mayIssue e.2 && !s.held e.1 e.2) with
    | some e => .quarter e.2.core e.2.quarter
    | none =>
      match s.hosts.find? fun e => e.2.running && e.2.waitRd.isNone with
      | some e => .host e.1
      | none => .tick 1

/-- The next turn and the state from which it runs. -/
def State.nextTurn (s : State) : Turn × State :=
  match s.sched with
  | t :: r => (t, { s with sched := r })
  | [] => (s.defaultTurn, s)

/-! ## Placing an instruction -/

/-- The address at which `withFetchWord` places an instruction: a physical address of Q0, and a virtual one that maps to it. -/
def fetchBase : Nat := 0x10000

/-- A translation of the page at `fetchBase` to itself for core 0 and ASID 0: a leaf with every permission, A and D set. -/
def fetchEntry : TlbEntry := { l1 := true, unit := 0, asid := 0, vpn := 4, size := 1, pte := 0x103F3, eaddr := 0 }

/-- Bytes placed in memory as a loader leaves them. -/
def State.placeBytes (s : State) (bs : List Byte) : State :=
  { s with mem := { s.mem with bytes := ksetRun 0 s.mem.bytes fetchBase bs, poison := s.mem.poison.filter fun q => q != sectorOf fetchBase
                               tags := kerase s.mem.tags (sectorOf fetchBase), l2 := kerase s.mem.l2 (sectorOf fetchBase) } }

/-- A user-mode group of width 32 with 256 rows on quarter 0 of core 0, alone there, about to issue at `fetchBase`. -/
def State.placeGroup (s : State) : State :=
  let g : Group := { team := serviceTeam 4, grpid := 0, width := 32, nrows := 256, core := 0, quarter := 0, slot := 0, half := 0, service := false,
                     sup := false, pc := BitVec.ofNat 64 fetchBase, lanes := List.replicate 32 {} }
  { s with groups := kput (s.groups.filter fun e => !(e.2.core == 0 && e.2.quarter == 0)) s.nextGid g, nextGid := s.nextGid + 1
           mem := { s.mem with tlb := fetchEntry :: s.mem.tlb }
           plat := { s.plat with tripped := false }, xa := { s.xa with held := false }, sched := [.quarter 0 0] }

/-- Host core 0 about to execute the word at `fetchBase`. -/
def State.placeHost (s : State) : State :=
  { s.setHost 0 { s.host 0 with running := true, waitRd := none, pc := BitVec.ofNat 64 fetchBase } with
    plat := { s.plat with tripped := false }, xa := { s.xa with held := false }, sched := [.host 0] }

end Sys2Proof.Machine
end

