-- ==== Sys2Proof/Machine/Step.lean ====
section
/-!
DEFINITION. One step: the next turn runs. `withFetchWord` places one instruction where the next step runs it.
-/

namespace Sys2Proof.Machine

/-- One step (03_lanes.md R78, R79). -/
def step (s : State) : Host.Outcome State Fault Refusal := runTurn s.nextTurn.1 s.nextTurn.2

/-- A state whose next step runs the instruction whose bits are `w`: a host word of 32 bits on host core 0, any other width a device word,
whose bits above `nbits` are zero, on a group of core 0. -/
def State.withFetchWord (s : State) (nbits w : Nat) : State :=
  if nbits = 32 then (s.placeBytes (leBytes 4 w)).placeHost else (s.placeBytes (leBytes 28 w)).placeGroup

end Sys2Proof.Machine
end

