-- ==== Sys2Proof/Safety.lean ====
section
/-!
DEFINITION. What counts as a safe step, and the terms in which the statements speak of one instruction: when nothing stands between it and
its effect, what its sources are, and the state in which it leaves its group.
-/

namespace Sys2Proof

open Machine

/-- A step is safe when it does not stop with a fault. -/
def Safe (s : State) : Prop := ∀ f, step s ≠ .fault f

/-- A step is refused only for a RISC-V word of a host core, whose meaning the manual leaves to the RISC-V specifications (00_scope.md). -/
def RefusesOnlyRiscv (s : State) : Prop := ∀ r, step s = .refused r → ∃ w, r = .hostRiscv w

/-- Memory has its canonical form. -/
def MemoryCanonical (s : State) : Prop := Memory.wf s.mem.bytes = true

/-! ## One instruction of a group -/

/-- Group `gid` is the agent whose instruction runs, and `g` is what it holds. -/
abbrev Acting (s : State) (gid : Nat) (g : Group) : Prop := s.cur = .group gid ∧ klookup s.groups gid = some g

/-- No trap of another instruction is pending for the group (R457), nor a cause that an operation in flight has left (R419, R474, R488). -/
abbrev NoneDue (g : Group) : Prop :=
  g.dmrPend = none ∧ (g.rfPend = [] ∨ g.rfHold = true) ∧ g.lateCause = none ∧ g.latePoisoned = false

/-- The acting group's instruction issues: no trap is due, no encoding rule is broken (R58), the mode is the one it asks (R59), no item it
touches is busy, no fence and no commit holds it (R54, R319, R504), and it meets no earlier result early (R55). -/
abbrev Ready (sh : Shape) (s : State) (gid : Nat) (g : Group) (h : Head) : Prop :=
  Acting s gid g ∧ NoneDue g ∧ illegal sh g h = .ok ∧ (sh.super = true → g.sup = true) ∧ s.issueWaits sh gid g h = false
    ∧ earlyPends g s.clock (itemsRead sh g h ++ itemsWritten sh g h) = []

/-- Nothing stands between the acting group's instruction and its effect: it issues, and in no participating lane an operand leaves its
window or a source is poisoned (R121, R474). -/
abbrev Clear (sh : Shape) (s : State) (gid : Nat) (g : Group) (h : Head) : Prop :=
  Ready sh s gid g h ∧ indexFails sh g h (g.parts h.guard) = [] ∧ poisonFails sh g h (g.parts h.guard) = []

/-- The group's side of an instruction that has taken effect and goes on at `pc`: post-increment, SIG, the stall count (R53, R122, R466). -/
def ranTo (sh : Shape) (s : State) (gid : Nat) (g : Group) (h : Head) (pc : W64) (t : State) : State :=
  t.modGroup gid fun g1 => settleGroup sh (plainCtx sh gid g h s.clock) s.free g g1 pc

/-- The same, going on at the next instruction (R29). -/
def ran (sh : Shape) (s : State) (gid : Nat) (g : Group) (h : Head) (t : State) : State := ranTo sh s gid g h (g.pc + headLen h) t

/-- The group's side of an instruction that has begun and waits (R78): it goes on at the next one when its event ends the wait. -/
def waits (sh : Shape) (gid : Nat) (g : Group) (h : Head) (w : Wait) (t : State) : State :=
  t.modGroup gid fun g1 =>
    { g1 with wait := w, ractive := g1.ractive && !sh.region,
              held := some { major := sh.major, minor := sh.minor, head := h, lanes := g.parts h.guard } }

/-- No participating lane has an open transaction (R322). -/
abbrev NoTx (g : Group) (h : Head) : Prop := (g.parts h.guard).filter (fun l => (g.lane l).tx.isOpen) = []

/-- No lane's access meets a cause, a page that is not resident, or an exclusion (R231, R232, R336, R341). -/
abbrev AllResident (ls : List LaneLook) : Prop := ∀ x ∈ ls, x.cause = none ∧ x.miss = [] ∧ x.wait = false

/-- Lanes `hs` of an access raise its first cause (R232): their walks were made and their misuse is reported (R253, R485, R488), and the trap is
taken at the instruction with each lane's address (R60). -/
def accessTrap (s : State) (gid : Nat) (g : Group) (cause : Nat) (hs : List LaneLook) : State :=
  trapAt (s.noteLooks g.core (s.asidOf g) hs) gid g cause (hs.map fun x => (x.lane, x.va))

/-- An access issues and its lanes can be judged: some lane participates, no transaction is open, every operand lies in its window, and no walk
has to wait (R121, R232, R336, R341). -/
abbrev Judged (sh : Shape) (s : State) (gid : Nat) (g : Group) (h : Head) (looks : List LaneLook) : Prop :=
  Ready sh s gid g h ∧ indexFails sh g h (g.parts h.guard) = [] ∧ NoTx g h ∧ g.parts h.guard ≠ [] ∧ ∀ x ∈ looks, x.wait = false

/-- The participating lanes with an open transaction, and the others. -/
def openLanes (g : Group) (h : Head) : List Nat := (g.parts h.guard).filter fun l => (g.lane l).tx.isOpen
def plainLanes (g : Group) (h : Head) : List Nat := (g.parts h.guard).filter fun l => !(g.lane l).tx.isOpen

/-- `n` bytes of scratchpad at `va` lie at offset `off` of the group's team `t`, and the lanes' earlier stores to them can be performed, which
leaves `s1` (R241, R292). -/
abbrev OnScratch (s : State) (gid : Nat) (g : Group) (h : Head) (va : W64) (align n off : Nat) (s1 : State) (t : Team) : Prop :=
  g.parts h.guard ≠ [] ∧ NoTx g h ∧ s.objAddr g va align n = (off, none) ∧ s.settleScr gid (g.parts h.guard) off n = some s1
    ∧ klookup s1.teams g.team = some t

/-- The barrier object that scalar `a` names is at offset `off` of team `t`. -/
abbrev OnObject (s : State) (gid : Nat) (g : Group) (h : Head) (a : Operand) (off : Nat) (s1 : State) (t : Team) : Prop :=
  OnScratch s gid g h (g.getS (scalNum a)) 16 16 off s1 t

/-- The work-list that scalar A names is `w` and can be operated on, in state `s2`: no other group of the team is in the midst of a list
operation (R390, R392). -/
abbrev OnWorklist (sh : Shape) (s : State) (gid : Nat) (g : Group) (h : Head) (w : Wl) (s2 : State) : Prop :=
  ∃ off s1 t, s.listHeld gid g.team = false ∧ OnScratch s gid g h (g.getS (scalNum h.a)) 64 64 off s1 t ∧ t.scrPoison off 64 = false ∧
    s1.wlAreas g (s1.spaceBase g.core 1) (leNat (t.scrBytes off 64)) = none ∧
    s1.settleWl (plainCtx sh gid g h s.clock) (leNat (t.scrBytes off 64)) = some s2 ∧
    w = readWl off (s1.spaceBase g.core 1) (leNat (t.scrBytes off 64))

/-- The operands A and B of a lane as patterns of their types. -/
def srcA (sh : Shape) (g : Group) (h : Head) (l : Nat) : Nat := (readOp g (opndOf sh.a) h.a l).toNat
def srcB (sh : Shape) (g : Group) (h : Head) (l : Nat) : Nat := (readOp g (opndOf sh.b) h.b l).toNat

/-- The value of an instruction's sources in a lane, through a function of A, B and, where D is a source too, D (R184). -/
def resultOf (sh : Shape) (g : Group) (h : Head) (f : Nat → Nat → Nat → Nat) (l : Nat) : W64 :=
  BitVec.ofNat 64 (f (srcA sh g h l) (srcB sh g h l) (if sh.dUse == .write then 0 else (readOp g (opndOf sh.d) h.d l).toNat))

/-- A result written through D: in uniform form to the scalar (R47, R49), else in every participating lane (R35); nothing where no lane
participates. -/
def writeResult (sh : Shape) (g : Group) (h : Head) (v : Nat → W64) (s : State) (gid : Nat) : State :=
  if (g.parts h.guard).isEmpty then s
  else if sh.form && isUniform sh h then s.modGroup gid fun g1 => g1.setS (scalNum h.d) (scalWrite (opndOf sh.d).ty (v 0))
  else s.modGroup gid fun g1 => g1.modLanes (g.parts h.guard) fun l ln => writeOp g (opndOf sh.d) h.d l (v l) ln

/-- A test written through D: in uniform form 0 or 1 to the scalar, else the flag of every participating lane (R186). -/
def writeTest (sh : Shape) (g : Group) (h : Head) (v : Nat → Bool) (s : State) (gid : Nat) : State :=
  if (g.parts h.guard).isEmpty then s
  else if sh.form && isUniform sh h then s.modGroup gid fun g1 => g1.setS (scalNum h.d) (if v 0 then 1 else 0)
  else s.modGroup gid fun g1 => g1.modLanes (g.parts h.guard) fun l ln => ln.setFlag (clsNum h.d) (v l)

/-- An effect that the instruction has only where a lane participates (R35). -/
def whereLanes (g : Group) (h : Head) (s t : State) : State := if (g.parts h.guard).isEmpty then s else t

/-- A value of each participating lane written through D. -/
def inLanes (sh : Shape) (g : Group) (h : Head) (v : Nat → Nat) (g1 : Group) : Group :=
  g1.modLanes (g.parts h.guard) fun l ln => writeOp g (opndOf sh.d) h.d l (BitVec.ofNat 64 (v l)) ln

/-- Wherever nothing stands in the way and `pre` holds, `i` completes, and leaves what `eff` leaves with its group gone on. -/
def Completes (i : Instr) (sh : Group → Shape) (h : Head) (pre : State → Nat → Group → Prop) (eff : State → Nat → Group → State) : Prop :=
  ∀ s gid g, Clear (sh g) s gid g h → pre s gid g → exec i s = .next (ran (sh g) s gid g h (eff s gid g))

/-- `i` computes `f` of its sources into D. -/
def Computes (i : Instr) (sh : Shape) (h : Head) (f : Group → Nat → Nat → Nat → Nat) : Prop :=
  Completes i (fun _ => sh) h (fun _ _ _ => True) fun s gid g => writeResult sh g h (resultOf sh g h (f g)) s gid

/-- `i` writes the test `f` of A and B to D. -/
def Tests (i : Instr) (sh : Group → Shape) (h : Head) (f : Group → Nat → Nat → Bool) : Prop :=
  Completes i sh h (fun _ _ _ => True) fun s gid g =>
    writeTest (sh g) g h (fun l => f g (srcA (sh g) g h l) (srcB (sh g) g h l)) s gid

/-- The instructions that write a result through D and nothing else of their own, with their descriptions (R35, R184). -/
def computeForms : List ((Head → Instr) × (Head → Shape)) :=
  [(.iadd, fun h => satShape 0 h (tyInt h.ty)), (.isub, fun h => satShape 1 h (tyInt h.ty)), (.imul, mulShape 2), (.imulh, mulShape 3),
   (.imad, imadShape), (.imin, fun h => intShape 0x10 5 h (tyInt h.ty)), (.imax, fun h => intShape 0x10 6 h (tyInt h.ty)),
   (.iabs, unSatShape 7), (.ineg, unSatShape 8), (.andb, logShape 0), (.orb, logShape 1), (.xorb, logShape 2), (.notb, notShape),
   (.andn, logShape 4), (.shl, logShape 5), (.shr, logShape 6), (.sar, logShape 7), (.rot, logShape 8)] ++
  [(.popc, countShape 0), (.clz, countShape 1), (.brev, brevShape), (.bfx, fun h => intShape 0x12 3 h (ty3264 h.ty)), (.bfi, bfiShape),
   (.prmb, prmbShape), (.mov, movShape), (.movw, movwShape), (.dot8, dot8Shape), (.dot16, dot16Shape)] ++
  [(.fadd, arithShape 0), (.fsub, arithShape 1), (.fmul, arithShape 2), (.ffma, ffmaShape), (.fmin, mnmxShape 4), (.fmax, mnmxShape 5),
   (.frnd, frndShape), (.frcp, fun h => sfuShape 0 h true), (.frsq, fun h => sfuShape 1 h false), (.fsqrt, fun h => sfuShape 2 h true),
   (.fexp2, fun h => sfuShape 3 h false), (.flog2, fun h => sfuShape 4 h false), (.fsin, fun h => sfuShape 5 h false),
   (.fcos, fun h => sfuShape 6 h false), (.ftanh, fun h => sfuShape 7 h false)]

/-- The compares and tests, which write a flag, or a scalar in uniform form (R186). -/
def testForms : List ((Head → Instr) × (Head → Group → Shape)) :=
  [(.icmp, fun h _ => icmpShape h), (.fcmp, fun h _ => fcmpShape 6 h (decide (h.mods.toNat < 8))), (.fclass, fclassShape)]

/-- The instructions that reach registers of their own group only. -/
def registerForms : List (Head → Instr) :=
  computeForms.map Prod.fst ++ testForms.map Prod.fst ++
  [.iaddc, .cvt, .cvtsr, .qpack, .qunpack, .qscale, .qdot, .sel, .sget, .sset, .xset, .xld, .xst, .xadd] ++
  [.shfl, .shflx, .bcast, .vote, .firstc, .gred, .scan, .compact, .awaitc] ++
  [.nop, .bra, .brx, .call, .ret, .ifc, .elsec, .endif, .loopc, .endloop, .brk, .cont, .cvta, .isap, .sys, .bkpt, .ireg, .tstat]

/-- The group whose lanes that raise a trap's cause with a transaction open are doomed with ILLEGAL, where they are not doomed yet (R329). -/
def doomTrapped (tr : Trap) (g : Group) : Group :=
  { g with lanes := g.lanes.mapIdx fun l ln =>
      if (tr.lanes.lookup l).isSome && ln.tx.isOpen && !ln.tx.doomed then
        { ln with tx := { ln.tx with doomed := true, first := 5, doomAt := 0 } }
      else ln }

/-- The state from which a trap is entered: the group's transactions doomed, and a PRIV counted for the alarm (R329, R492). -/
def trapFrom (s : State) (gid : Nat) (g : Group) (tr : Trap) : State :=
  let s0 := s.setGroup gid (doomTrapped tr g)
  if tr.cause = cPriv then s0.notePriv (s.asidOf g) else s0

/-- The word of code at `va` is held ready at `pa`: it has kept its contents since the group became resident, its translation is cached with A
set, L2 serves its sector to the mapping, no core owns its line, and nothing excludes the fetch (R33, R260, R273, R303, R336). -/
abbrev CodeHeld (s : State) (gid : Nat) (g : Group) (va pa slot : Nat) : Prop :=
  s.codeLook g va = .word pa slot ∧ s.codeOlds g pa = [] ∧
  (∃ e, s.tlbHit (.core g.core) (s.asidOf g) va = some e ∧ needsMark e.pte .fetch = false) ∧
  (s.mem.tlb.any fun x => x.l1 && x.unit == g.core && x.covers (s.asidOf g) va) = true ∧
  isDomain pa = false ∧ isDevReg pa = false ∧ (∃ e, klookup s.mem.l2 (sectorOf pa) = some e ∧ e.slot = slot) ∧
  (∀ a, klookup s.mem.atom (pa / 256) = some a → a.owner = none) ∧
  s.needsTransfer true pa = false ∧ s.codeWaits gid g pa = false

/-- The slice that holds a sector's line has room: fewer than 16 other lines of it are in L2, so that nothing leaves a set (R273). -/
abbrev RoomInL2 (s : State) (sec : Nat) : Prop :=
  (((s.mem.l2.map (·.1 / 4) ++ s.mem.peer.map (·.1 / 4)) : List Nat).filter fun x => x != sec / 4 && sliceOf (x * 1024) == sliceOf (sec / 4 * 1024)).dedup.length < 16

/-- In this step, which begins in `s0`, the `k`-th queued store of a group goes to its home: it has not been sent to another package, and nothing
older holds it back (R291, R292, R296). -/
abbrev Draining (s s0 : State) (gid k : Nat) (g : Group) (q : QStore) : Prop :=
  s.nextTurn = (.drain gid k, s0) ∧ s0.stopped = false ∧ klookup s0.groups gid = some g ∧ g.stores[k]? = some q ∧ q.rid = none ∧
  s0.storeHeld gid g true k q = false

/-- The home of a store in this package takes it: nothing excludes it, and its request does not wait (R336, R341, R501). -/
abbrev HomeTakes (s : State) (gid : Nat) (g : Group) (q : QStore) (pa : Nat) : Prop :=
  q.loc = .glob pa ∧ isDomain pa = false ∧ s.accessWaits (.group gid g.core (s.asidOf g)) pa q.bytes.length true = false ∧
  s.reqWaits q.age (sectorOf pa) = false

/-- A sector that accesses under a slot reach in clear view: held in L2 for that slot, or about to be filled with a good MAC (R488). -/
def ServedPlain (s : State) (sec slot : Nat) : Prop :=
  match klookup s.mem.l2 sec with
  | some e => e.slot = slot ∧ e.raw = false
  | none => s.fillCheck sec slot = .ok

end Sys2Proof
end

