-- ==== Sys2Proof/WellFormed.lean ====
section
/-!
DEFINITION. Well-formed instructions: what every word of the manual keeps whatever its opcode (02_code.md R34, R38 to R41, R52, R57), and the
ranges of what host instructions and events name.
-/

namespace Sys2Proof

/-- The guard is not the reserved one (R34, R58). -/
def Guard.wf (g : Guard) : Bool := !(g.inv && g.flag == 0)

/-- The type code is assigned (R38). -/
def Ty.wf : Ty → Bool
  | .reserved _ => false
  | _ => true

/-- The bits that an operand's kind reserves are zero (R40). -/
def Operand.wf : Operand → Bool
  | .row _ _ rsv => rsv == 0
  | .scal _ rsv => rsv == 0
  | _ => true

/-- No immediate stands in a destination field (R41). -/
def destOk : Operand → Bool
  | .imm _ => false
  | _ => true

/-- A parameter block is required (R52), by major and minor code. -/
def blockMust (major minor : Nat) : Bool :=
  match major, minor with
  | 0x60, 1 => true | 0x62, 0 => true | 0x80, 1 => true | 0xA0, 2 => true | 0xA0, 3 => true | 0xA0, 6 => true
  | 0xB0, 0 => true | 0xB0, 1 => true | 0xB1, 1 => true
  | _, _ => false

/-- A parameter block may stand: atom, atomu, red and rst (R52). -/
def blockMay (major minor : Nat) : Bool :=
  match major, minor with
  | 0x88, 0 => true | 0x88, 1 => true | 0x88, 2 => true | 0x98, 1 => true
  | _, _ => false

/-- P is used as the opcode asks; a pair without meaning asks nothing (R52). -/
def blockOk (major minor : Nat) (h : Head) : Bool :=
  if (deviceOf major minor).isNone || blockMay major minor then true else h.params.isSome == blockMust major minor

/-- A device word keeps the rules that hold for every opcode. -/
def Head.wf (major minor : Nat) (h : Head) : Bool :=
  h.guard.wf && h.ty.wf && h.d.wf && h.a.wf && h.b.wf && destOk h.d && blockOk major minor h

/-- The constructor for unassigned pairs holds an unassigned pair (R57). -/
def pairOk : Instr → Bool
  | .unassignedOpcode major minor _ => (deviceOf major.toNat minor.toNat).isNone
  | _ => true

/-- Ranges of the numbers that an event names. -/
def eventOk : Instr → Bool
  | .bootStage img => decide (img.ilsize ≤ 96)
  | .mailboxImage img => decide (img.ilsize ≤ 96)
  | .barRelease _ n => decide (n < 16)
  | .barrierPhaseComplete _ off => off % 16 == 0
  | .pageWalk core asid va => decide (core < 240 ∧ asid < 2 ^ 16 ∧ va.toNat < 2 ^ 54)
  | .ownershipTransfer region => decide (region < 2 ^ 31)
  | .flitReceive link _ => decide (link < 18)
  | .linkLaneLoss link lane => decide (link < 18 ∧ lane < 16)
  | .linkRetrainComplete link _ _ => decide (link < 18)
  | .planePortReport plane _ => decide (plane < 18)
  | .pairScrub pair => decide (pair < 120)
  | .errorLogArbitrate unit => decide (unit < 6)
  | .hostEventRequest die => decide (die < 4)
  | .xtendCommit host => decide (host < 48)
  | .hostTxAbort host _ => decide (host < 48)
  | .parityRecovery p => decide (p.words.length = 64 ∧ p.parity.length = 64 ∧ p.index < 64 ∧ p.unit < 6)
  | .mctpSetPowerLimit watts => decide (watts < 2400)
  | _ => true

/-- A well-formed instruction. -/
def Instr.wf (i : Instr) : Bool :=
  (match deviceParts i with
   | some (major, minor, h) => h.wf major.toNat minor.toNat
   | none => true) && pairOk i && eventOk i

end Sys2Proof
end

