-- ==== Sys2Proof/Certificates/Slice0/Obligations.lean ====
section
/-!
DEFINITION. The statements for the provers. Where a statement says `Completes`, `Computes` or `Tests`, its hypotheses are those of
`Sys2Proof.Clear` (Safety.lean): on the state and the operands alone.
-/

open Sys2Proof Sys2Proof.Machine

/-! ## Computing instructions: completion with their results -/

/-- 06_pipes.md R188, R190: the integer and logic instructions complete with the exact integer of R188, clamped with sat and else modulo 2^w,
and with the bit operations of R190. -/
def Obligations.IntegerAndLogicResults : Prop := ∀ h : Head,
  Computes (.iadd h) (satShape 0 h (tyInt h.ty)) h (fun _ => intOp h (satBit h) fun a b _ => a + b) ∧
  Computes (.isub h) (satShape 1 h (tyInt h.ty)) h (fun _ => intOp h (satBit h) fun a b _ => a - b) ∧
  Computes (.imul h) (mulShape 2 h) h (fun _ => intOp h false fun a b _ => a * b) ∧
  Computes (.imulh h) (mulShape 3 h) h (fun _ => intOp h false fun a b _ => a * b / 2 ^ tyWidth h.ty) ∧
  Computes (.imad h) (imadShape h) h (fun _ => intOp h false fun a b c => a * b + c) ∧
  Computes (.imin h) (intShape 0x10 5 h (tyInt h.ty)) h (fun _ => intOp h false fun a b _ => min a b) ∧
  Computes (.imax h) (intShape 0x10 6 h (tyInt h.ty)) h (fun _ => intOp h false fun a b _ => max a b) ∧
  Computes (.iabs h) (unSatShape 7 h) h (fun _ => intOp h (satBit h) fun a _ _ => |a|) ∧
  Computes (.ineg h) (unSatShape 8 h) h (fun _ => intOp h (satBit h) fun a _ _ => -a) ∧
  Computes (.andb h) (logShape 0 h) h (fun _ a b _ => a &&& b) ∧
  Computes (.orb h) (logShape 1 h) h (fun _ a b _ => a ||| b) ∧
  Computes (.xorb h) (logShape 2 h) h (fun _ a b _ => a ^^^ b) ∧
  Computes (.notb h) (notShape h) h (fun _ a _ _ => 2 ^ tyWidth h.ty - 1 - a) ∧
  Computes (.andn h) (logShape 4 h) h (fun _ a b _ => a &&& (2 ^ tyWidth h.ty - 1 - b)) ∧
  Computes (.shl h) (logShape 5 h) h (fun _ a b _ =>
    if b % 2 ^ 32 < tyWidth h.ty then a * 2 ^ (b % 2 ^ 32) % 2 ^ tyWidth h.ty else 0) ∧
  Computes (.shr h) (logShape 6 h) h (fun _ a b _ => if b % 2 ^ 32 < tyWidth h.ty then a / 2 ^ (b % 2 ^ 32) else 0) ∧
  Computes (.sar h) (logShape 7 h) h (fun _ a b _ => sarValue (tyWidth h.ty) a (b % 2 ^ 32)) ∧
  Computes (.rot h) (logShape 8 h) h (fun _ a b _ => rotValue (tyWidth h.ty) a (b % 2 ^ 32))

/-- 06_pipes.md R189, R191 to R194: counts, reversal, fields, byte permutation and the integer compare complete with their results, and
iaddc with the sum modulo 2^w and its carry-out. -/
def Obligations.BitAndCompareResults : Prop := ∀ h : Head,
  Computes (.popc h) (countShape 0 h) h (fun _ a _ _ => popBits a (tyWidth h.ty)) ∧
  Computes (.clz h) (countShape 1 h) h (fun _ a _ _ => leadZeros a (tyWidth h.ty)) ∧
  Computes (.brev h) (brevShape h) h (fun _ a _ _ => revBits (tyWidth h.ty) a) ∧
  Computes (.bfx h) (intShape 0x12 3 h (ty3264 h.ty)) h (fun _ a b _ => bfxValue h.ty a b) ∧
  Computes (.bfi h) (bfiShape h) h (fun _ a b c => bfiValue (b % 256) (b / 256 % 256) a c (tyWidth h.ty)) ∧
  Computes (.prmb h) (prmbShape h) h (fun _ a b c => prmbValue a c b) ∧
  Tests (.icmp h) (fun _ => icmpShape h) h (fun _ a b =>
    icond h.mods.toNat (intOf h.ty (tyWidth h.ty) a) (intOf h.ty (tyWidth h.ty) b)) ∧
  Completes (.iaddc h) (fun _ => iaddcShape h) h (fun _ _ _ => True) fun s gid g =>
    let sh := iaddcShape h
    let k := modFlag h
    let cin (l : Nat) : Nat := if k != 0 && (g.lane l).flag k then 1 else 0
    let sum (src l : Nat) : Nat := srcA sh g h src + srcB sh g h src + cin l
    let m := lowest (g.parts h.guard)
    whereLanes g h s (s.modGroup gid fun g1 =>
      if isUniform sh h then
        (g1.setS (scalNum h.d) (scalWrite h.ty (BitVec.ofNat 64 (sum 0 m % 2 ^ tyWidth h.ty)))).setFlags (g.parts h.guard) k fun _ =>
          carryOut (tyWidth h.ty) (srcA sh g h 0) (srcB sh g h 0) (cin m)
      else
        (inLanes sh g h (fun l => sum l l % 2 ^ tyWidth h.ty) g1).setFlags (g.parts h.guard) k fun l =>
          carryOut (tyWidth h.ty) (srcA sh g h l) (srcB sh g h l) (cin l))

/-- 06_pipes.md R197 to R203: the floating-point instructions complete with their results under the group's FMODE and rm, and so do the special
functions, of which the f32 bits of the approximated ones are free within their bound (Config.specialF32, log 2); the payload of a NaN of ffma
under NANP is in one corner the model's choice (log 55). -/
def Obligations.FloatResults : Prop := ∀ h : Head,
  Computes (.fadd h) (arithShape 0 h) h (fun g => fpOp h fun a b _ => fpSat h (fadd (fmtOf h.ty) (rmEnv h g.fmode) a b)) ∧
  Computes (.fsub h) (arithShape 1 h) h (fun g => fpOp h fun a b _ => fpSat h (fsub (fmtOf h.ty) (rmEnv h g.fmode) a b)) ∧
  Computes (.fmul h) (arithShape 2 h) h (fun g => fpOp h fun a b _ => fpSat h (fmul (fmtOf h.ty) (rmEnv h g.fmode) a b)) ∧
  Computes (.ffma h) (ffmaShape h) h (fun g => fpOp h fun a b c => fpSat h (ffma (fmtOf h.ty) (rmEnv h g.fmode) a b c)) ∧
  Computes (.fmin h) (mnmxShape 4 h) h (fun g => fpOp h fun a b _ => fminmax false (fmtOf h.ty) (fenv g.fmode) a b) ∧
  Computes (.fmax h) (mnmxShape 5 h) h (fun g => fpOp h fun a b _ => fminmax true (fmtOf h.ty) (fenv g.fmode) a b) ∧
  Computes (.frnd h) (frndShape h) h (fun g => fpOp h fun a _ _ => frnd (fmtOf h.ty) (rmEnv h g.fmode) a) ∧
  Tests (.fcmp h) (fun _ => fcmpShape 6 h (decide (h.mods.toNat < 8))) h
    (fun g => fcond (fmtOf h.ty) (fenv g.fmode).ftz h.mods.toNat) ∧
  Tests (.fclass h) (fclassShape h) h (fun _ a b => b / 2 ^ fclassBit (fmtOf h.ty) a % 2 == 1) ∧
  Computes (.frcp h) (sfuShape 0 h true) h (fun g => fpOp h fun a _ _ => frcp (fmtOf h.ty) (rmEnv h g.fmode) a) ∧
  Computes (.fsqrt h) (sfuShape 2 h true) h (fun g => fpOp h fun a _ _ => fsqrt (fmtOf h.ty) (rmEnv h g.fmode) a) ∧
  Computes (.frsq h) (sfuShape 1 h false) h (fun g => fpOp h fun a _ _ => fspecialFn 1 (fmtOf h.ty) (fenv g.fmode) a) ∧
  Computes (.fexp2 h) (sfuShape 3 h false) h (fun g => fpOp h fun a _ _ => fspecialFn 3 (fmtOf h.ty) (fenv g.fmode) a) ∧
  Computes (.flog2 h) (sfuShape 4 h false) h (fun g => fpOp h fun a _ _ => fspecialFn 4 (fmtOf h.ty) (fenv g.fmode) a) ∧
  Computes (.fsin h) (sfuShape 5 h false) h (fun g => fpOp h fun a _ _ => fspecialFn 5 (fmtOf h.ty) (fenv g.fmode) a) ∧
  Computes (.fcos h) (sfuShape 6 h false) h (fun g => fpOp h fun a _ _ => fspecialFn 6 (fmtOf h.ty) (fenv g.fmode) a) ∧
  Computes (.ftanh h) (sfuShape 7 h false) h (fun g => fpOp h fun a _ _ => fspecialFn 7 (fmtOf h.ty) (fenv g.fmode) a)

/-- 06_pipes.md R206 to R213: conversions (with one generator step per element under SR), pecks and narrow dot products complete with
their results; qscale where no source row of its blocks is poisoned (else POISON, R474). Which NaN a dot product carries under NANP is the model's
choice (log 69). -/
def Obligations.ConversionResults : Prop := ∀ h : Head,
  (∀ p ∈ [((.cvt h : Instr), 0, fun g : Group => fmodeSr g.fmode && srDest h.ty), (.cvtsr h, 1, fun _ => true)],
    Completes p.1 (fun _ => cvtShape p.2.1 h) h (fun _ _ _ => True) fun s gid g =>
      let sh := cvtShape p.2.1 h
      let v (l src : Nat) : Nat × W32 :=
        cvtElems (Ty.ofCode h.mods) h.ty (fenv g.fmode) (p.2.2 g) (tyElem h.ty).2 (srcA sh g h src) (g.lane l).sr
      let m := lowest (g.parts h.guard)
      whereLanes g h s (s.modGroup gid fun g1 =>
        if isUniform sh h then (g1.setS (scalNum h.d) (scalWrite h.ty (BitVec.ofNat 64 (v m 0).1))).modLane m fun ln => { ln with sr := (v m 0).2 }
        else (inLanes sh g h (fun l => (v l l).1) g1).modLanes (g.parts h.guard) fun l ln => { ln with sr := (v l l).2 })) ∧
  (Completes (.qpack h) (fun _ => qpackShape h) h (fun _ _ _ => True) fun s gid g =>
    let sh := qpackShape h
    let v (l : Nat) : Nat × W32 :=
      qpackCodes (fenv g.fmode).rm (fmodeSr g.fmode) (rowByte (BitVec.ofNat 32 (srcB sh g h l)) (h.mods.toNat % 4))
        (peckSrc (fenv g.fmode).ftz (h.mods.getLsbD 2) (g.lane l) (rowOf g h.a l)) 8 0 (g.lane l).sr
    s.modGroup gid fun g1 => (inLanes sh g h (fun l => (v l).1) g1).modLanes (g.parts h.guard) fun l ln => { ln with sr := (v l).2 }) ∧
  (Completes (.qunpack h) (fun _ => qunpackShape h) h (fun _ _ _ => True) fun s gid g =>
    let sh := qunpackShape h
    let e (l k : Nat) : Nat :=
      peckTo (fmtOf h.ty) (fenv g.fmode) (rowByte (BitVec.ofNat 32 (srcB sh g h l)) (h.mods.toNat % 4)) (srcA sh g h l / 16 ^ k % 16)
    s.modGroup gid fun g1 => g1.modLanes (g.parts h.guard) fun l ln => ln.setRows (rowOf g h.d l)
      (if h.ty = .f32 then (List.range 8).map fun k => BitVec.ofNat 32 (e l k)
       else (List.range 4).map fun j => BitVec.ofNat 32 (e l (2 * j) + 65536 * e l (2 * j + 1)))) ∧
  (Completes (.qscale h) (fun _ => qscaleShape h) h
    (fun _ _ g => ∀ l ∈ g.parts h.guard, ∀ e ∈ blockRows (rowOf g h.a 0) (h.mods.getLsbD 4) l, (g.lane e.1).poison.contains e.2 = false) fun s gid g =>
    let byte (l : Nat) : Nat :=
      64 * (h.mods.toNat / 4 % 4) + blockExp (h.mods.toNat / 4 % 4) ((List.range 32).map fun i =>
        peckSrc (fenv g.fmode).ftz (h.mods.getLsbD 4) (g.lane (l / 4 * 4 + i / 8)) (rowOf g h.a 0) (i % 8))
    s.modGroup gid fun g1 => g1.modLanes (g.parts h.guard) fun l ln =>
      ln.setRow (rowOf g h.d l) (setPart 8 (h.mods.toNat % 4) (ln.row (rowOf g h.d l)) (byte l))) ∧
  (Completes (.qdot h) (fun _ => qdotShape h) h (fun _ _ _ => True) fun s gid g =>
    let sh := qdotShape h
    let dec (l r k : Nat) : List FVal :=
      (List.range 8).map fun i => peckValue (rowByte ((g.lane l).row (r + 1)) k) (((g.lane l).row r).toNat / 16 ^ i % 16)
    s.modGroup gid (inLanes sh g h fun l =>
      dotRound (fenv g.fmode) (dec l (rowOf g h.a l) (h.mods.toNat % 4)) (dec l (rowOf g h.b l) (h.mods.toNat / 4))
        (fin fmtF32 (fenv g.fmode).ftz (readOp g (opndOf sh.d) h.d l).toNat))) ∧
  Computes (.dot8 h) (dot8Shape h) h (fun g => dot8Value (fenv g.fmode) h.ty (if h.mods.getLsbD 0 then dotOther h.ty else h.ty)) ∧
  Computes (.dot16 h) (dot16Shape h) h (fun g a b d =>
    let e (x k : Nat) : FVal := fin (fmtOf h.ty) (fenv g.fmode).ftz (x / 65536 ^ k % 65536)
    dotRound (fenv g.fmode) [e a 0, e a 1] [e b 0, e b 1] (fin fmtF32 (fenv g.fmode).ftz d))

/-! ## Moves, special and index registers, cross-lane -/

/-- 04_rows.md R130 to R138: moves, special registers and index registers complete with their results; the windows of xset and xld lie
inside the declared rows (outside them the trap of R121 is taken). -/
def Obligations.MoveAndIndexResults : Prop := ∀ h : Head,
  Computes (.mov h) (movShape h) h (fun _ a _ _ => a) ∧
  Computes (.movw h) (movwShape h) h (fun g _ _ _ =>
    (paramValues g h).1.toNat % 2 ^ 31 + (paramValues g h).2.1.toNat % 2 ^ 31 * 2 ^ 31 + (paramValues g h).2.2.1.toNat % 4 * 2 ^ 62) ∧
  (Completes (.sel h) (fun _ => selShape h) h (fun _ _ _ => True) fun s gid g =>
    let sh := selShape h
    let pick (l src : Nat) : Nat := if (g.lane l).flag (modFlag h) != h.mods.getLsbD 3 then srcA sh g h src else srcB sh g h src
    whereLanes g h s (s.modGroup gid fun g1 =>
      if isUniform sh h then g1.setS (scalNum h.d) (scalWrite h.ty (BitVec.ofNat 64 (pick (lowest (g.parts h.guard)) 0)))
      else inLanes sh g h (fun l => pick l l) g1)) ∧
  (Completes (.sget h) (fun _ => sgetShape h) h (fun _ _ _ => True) fun s gid g =>
    let v (l : Nat) : W64 := (specialValue s gid g l (clsNum h.a)).getD 0
    whereLanes g h s (s.modGroup gid fun g1 =>
      if isScal h.d then g1.setS (scalNum h.d) (v 0) else inLanes (sgetShape h) g h (fun l => (v l).toNat) g1)) ∧
  (Completes (.sset h) (fun _ => ssetShape h) h (fun _ _ _ => True) fun s gid g =>
    let a (l : Nat) : W64 := BitVec.ofNat 64 (srcA (ssetShape h) g h l)
    whereLanes g h s (s.modGroup gid fun g1 =>
      if clsNum h.d = 21 then g1.modLanes (g.parts h.guard) fun l ln => { ln with sr := (a l).setWidth 32 }
      else if clsNum h.d = 16 then { g1 with fmode := (a 0).setWidth 32 &&& 0x3F }
      else if clsNum h.d = 17 then { g1 with gctl := a 0 &&& 1 }
      else if clsNum h.d = 19 then { g1 with txcfg := a 0 &&& 0xFF }
      else g1)) ∧
  (Completes (.xset h) (fun _ => xsetShape h) h
    (fun _ _ g => (paramValues g h).1.toNat ≤ 2047 ∧ (paramValues g h).2.1.toNat ≤ 4095 ∧
      (paramValues g h).1.toNat + (paramValues g h).2.1.toNat ≤ g.nrows) fun s gid g =>
    whereLanes g h s (s.modGroup gid fun g1 =>
      let g2 := g1.setIndex (clsNum h.d)
        { base := BitVec.ofNat 11 (paramValues g h).1.toNat, bound := BitVec.ofNat 12 (paramValues g h).2.1.toNat,
          step := (paramValues g h).2.2.1.setWidth 8 }
      if h.mods.getLsbD 0 then g2
      else g2.modLanes (g.parts h.guard) fun l ln => ln.setOff (clsNum h.d) (BitVec.ofNat 12 (srcA (xsetShape h) g h l)))) ∧
  (Completes (.xld h) (fun _ => xldShape h) h
    (fun _ _ g => (readNum g h.b).extractLsb' 31 33 = 0 ∧
      ((readNum g h.b).extractLsb' 0 11).toNat + ((readNum g h.b).extractLsb' 11 12).toNat ≤ g.nrows) fun s gid g =>
    whereLanes g h s (s.modGroup gid fun g1 =>
      (g1.setIndex (clsNum h.d)
        { base := (readNum g h.b).extractLsb' 0 11, bound := (readNum g h.b).extractLsb' 11 12,
          step := (readNum g h.b).extractLsb' 23 8 }).modLanes (g.parts h.guard) fun l ln =>
            ln.setOff (clsNum h.d) (BitVec.ofNat 12 (srcA (xldShape h) g h l)))) ∧
  (Completes (.xst h) (fun _ => xstShape h) h (fun _ _ _ => True) fun s gid g =>
    whereLanes g h s (s.modGroup gid fun g1 =>
      if isScal h.d then g1.setS (scalNum h.d) (ixuOf (g.index (clsNum h.a)))
      else inLanes (xstShape h) g h (fun l => ((g.lane l).off (clsNum h.a)).toNat) g1)) ∧
  (Completes (.xadd h) (fun _ => xaddShape h) h (fun _ _ _ => True) fun s gid g =>
    s.modGroup gid fun g1 => g1.modLanes (g.parts h.guard) fun l ln =>
      ln.setOff (clsNum h.d) (ln.off (clsNum h.d) + BitVec.ofNat 12 (srcA (xaddShape h) g h l)))

/-- 04_rows.md R139 to R147: the cross-lane instructions complete with their results; where they read another lane, no row that they
read there is poisoned (else POISON of R474 is raised). -/
def Obligations.CrossLaneResults : Prop := ∀ h : Head,
  (let src (g : Group) (l : Nat) : Nat :=
     shflSrc (h.mods.toNat % 8) (segLen g.width (h.mods.toNat / 8)) l (srcB (shflShape h g) g h l)
   Completes (.shfl h) (shflShape h) h
    (fun s gid g => ∀ l ∈ g.parts h.guard, ∀ e ∈ rowsA (plainCtx (shflShape h g) gid g h s.clock) (shflShape h g) (src g l),
      (g.lane e.1).poison.contains e.2 = false) fun s gid g =>
    s.modGroup gid (inLanes (shflShape h g) g h fun l => srcA (shflShape h g) g h (src g l))) ∧
  (Completes (.shflx h) (fun _ => shflxShape h) h
    (fun _ _ g => ∀ l ∈ g.parts h.guard,
      let k := srcB (shflxShape h) g h l
      let r := rowOf g h.a 0
      (k < g.width → (g.lane k).poison.contains r = false) ∧
      (g.width ≤ k → k < 2 * g.width → (g.lane (k - g.width)).poison.contains (r + 1) = false)) fun s gid g =>
    let sh := shflxShape h
    let r := rowOf g h.a 0
    s.modGroup gid (inLanes sh g h fun l =>
      let k := srcB sh g h l
      if k < g.width then ((g.lane k).row r).toNat
      else if k < 2 * g.width then ((g.lane (k - g.width)).row (r + 1)).toNat else 0)) ∧
  (Completes (.bcast h) (fun _ => bcastShape h) h
    (fun s gid g => g.parts h.guard ≠ [] → ∀ e ∈ rowsA (plainCtx (bcastShape h) gid g h s.clock) (bcastShape h) ((readNum g h.b).toNat % g.width),
      (g.lane e.1).poison.contains e.2 = false) fun s gid g =>
    let sh := bcastShape h
    let v := srcA sh g h ((readNum g h.b).toNat % g.width)
    whereLanes g h s (s.modGroup gid fun g1 =>
      if isScal h.d then g1.setS (scalNum h.d) (scalWrite h.ty (BitVec.ofNat 64 v)) else inLanes sh g h (fun _ => v) g1)) ∧
  (Completes (.vote h) (fun _ => voteShape h) h (fun _ _ _ => True) fun s gid g =>
    let v := voteValue h.mods.toNat (g.parts h.guard) fun l => (g.lane l).flag (clsNum h.a)
    whereLanes g h s (s.modGroup gid fun g1 =>
      if isScal h.d then g1.setS (scalNum h.d) v else g1.setFlags (g.parts h.guard) (clsNum h.d) fun _ => v != 0)) ∧
  (Completes (.firstc h) (fun _ => firstShape h) h
    (fun _ _ g => h.mods.getLsbD 0 = false → g.parts h.guard ≠ [] →
      poisonFail { firstShape h with cross := false } g h (lowest (g.parts h.guard)) = none) fun s gid g =>
    let m := lowest (g.parts h.guard)
    whereLanes g h s (s.modGroup gid fun g1 =>
      g1.setS (scalNum h.d) (scalWrite h.ty (BitVec.ofNat 64 (if h.mods.getLsbD 0 then m else srcA (firstShape h) g h m))))) ∧
  (Completes (.gred h) (fun _ => gredShape h) h (fun _ _ _ => True) fun s gid g =>
    match redTree (plainCtx (gredShape h) gid g h s.clock) (gredShape h) h.mods.toNat fun _ => true with
    | some v => s.modGroup gid fun g1 => g1.setS (scalNum h.d) (scalWrite h.ty (BitVec.ofNat 64 v))
    | none => s) ∧
  (Completes (.scan h) (fun _ => scanShape h) h (fun _ _ _ => True) fun s gid g =>
    s.modGroup gid (inLanes (scanShape h) g h fun l =>
      (redTree (plainCtx (scanShape h) gid g h s.clock) (scanShape h) (h.mods.toNat % 8)
        fun j => if h.mods.getLsbD 3 then decide (j < l) else decide (j ≤ l)).getD (redIdentity h.ty (h.mods.toNat % 8)))) ∧
  (Completes (.compact h) (fun _ => compactShape h) h (fun _ _ _ => True) fun s gid g =>
    let sh := compactShape h
    s.modGroup gid fun g1 => g1.modLanes (List.range (g.parts h.guard).length) fun i ln =>
      writeOp g (opndOf sh.d) h.d i (readOp g (opndOf sh.a) h.a ((g.parts h.guard).getD i 0)) ln)

/-! ## Control flow -/

/-- 03_lanes.md R94 to R97, R106: nop, the branches and the call complete, going on at the next instruction where no lane participates and
else at their target; ret transfers also where no lane of the group is active. A register target that is no multiple of 4 raises ALIGN with that
target in every active lane, or for ret where none is active in every eligible one (R31). -/
def Obligations.BranchResults : Prop := ∀ (h : Head) (s : State) (gid : Nat) (g : Group),
  (Clear (ctlShape 0x00 1 h) s gid g h → exec (.nop h) s = .next (ran (ctlShape 0x00 1 h) s gid g h s)) ∧
  (Clear { ctlShape 0x00 2 h with b := fImm } s gid g h →
    exec (.bra h) s = .next (ranTo { ctlShape 0x00 2 h with b := fImm } s gid g h
      (if (g.parts h.guard).isEmpty then g.pc + headLen h else branchTarget g h.b) s)) ∧
  (Clear { ctlShape 0x00 3 h with a := fScal } s gid g h → (readNum g h.a).extractLsb' 0 2 = 0 →
    exec (.brx h) s = .next (ranTo { ctlShape 0x00 3 h with a := fScal } s gid g h
      (if (g.parts h.guard).isEmpty then g.pc + headLen h else readNum g h.a) s)) ∧
  (Clear { ctlShape 0x00 3 h with a := fScal } s gid g h → g.parts h.guard ≠ [] → (readNum g h.a).extractLsb' 0 2 ≠ 0 →
    exec (.brx h) s = .next (trapAt s gid g cAlign (sameVal g.actives (readNum g h.a)))) ∧
  (let sh : Shape := { ctlShape 0x00 4 h with d := fScal, b := fScalRaw }
   let target := if isImm h.b then branchTarget g h.b else readNum g h.b
   Clear sh s gid g h → target.extractLsb' 0 2 = 0 →
    exec (.call h) s = .next (if (g.parts h.guard).isEmpty then ran sh s gid g h s
      else ranTo sh s gid g h target (s.modGroup gid fun g1 => g1.setS (scalNum h.d) (g1.pc + 12)))) ∧
  (let sh : Shape := { ctlShape 0x00 4 h with d := fScal, b := fScalRaw }
   let target := if isImm h.b then branchTarget g h.b else readNum g h.b
   Clear sh s gid g h → g.parts h.guard ≠ [] → target.extractLsb' 0 2 ≠ 0 →
    exec (.call h) s = .next (trapAt s gid g cAlign (sameVal g.actives target))) ∧
  (let sh : Shape := { ctlShape 0x00 5 h with a := fScal, inactive := true }
   Clear sh s gid g h → (readNum g h.a).extractLsb' 0 2 = 0 →
    exec (.ret h) s = .next (ranTo sh s gid g h
      (if g.actives.isEmpty || !(g.parts h.guard).isEmpty then readNum g h.a else g.pc + headLen h) s)) ∧
  (let sh : Shape := { ctlShape 0x00 5 h with a := fScal, inactive := true }
   Clear sh s gid g h → g.actives = [] ∨ g.parts h.guard ≠ [] → (readNum g h.a).extractLsb' 0 2 ≠ 0 →
    exec (.ret h) s = .next (trapAt s gid g cAlign (sameVal g.wordLanes (readNum g h.a))))

/-- 03_lanes.md R86, R98 to R104: the structured instructions complete with the new counters of every eligible lane (of the participating
lanes for brk and cont), and if, else and endloop transfer to the target of B under their conditions. if and loop complete where no new
counter passes 16; else the lanes whose counter would raise NEST_OVERFLOW with it (R88). -/
def Obligations.StructuredResults : Prop := ∀ (h : Head) (s : State) (gid : Nat) (g : Group),
  (let sh : Shape := { ctlShape 0x01 0 h with modsOk := h.mods.toNat < 2, a := .cls 8, b := fImm, always := true, inactive := true,
                                                reads := flagItems (clsNum h.a) }
   let f (l : Nat) (ln : Lane) : Nat := if ln.cnt = 0 then (if (g.lane l).flag (clsNum h.a) != h.mods.getLsbD 0 then 0 else 1) else ln.cnt + 1
   Clear sh s gid g h → nestOver g f = [] →
    exec (.ifc h) s = .next (ranTo sh s gid g h (if (g.setCnts f).actives.isEmpty then branchTarget g h.b else g.pc + headLen h)
      (s.modGroup gid fun g1 => g1.setCnts f))) ∧
  (let sh : Shape := { ctlShape 0x01 0 h with modsOk := h.mods.toNat < 2, a := .cls 8, b := fImm, always := true, inactive := true,
                                                reads := flagItems (clsNum h.a) }
   let f (l : Nat) (ln : Lane) : Nat := if ln.cnt = 0 then (if (g.lane l).flag (clsNum h.a) != h.mods.getLsbD 0 then 0 else 1) else ln.cnt + 1
   Clear sh s gid g h → nestOver g f ≠ [] → exec (.ifc h) s = .next (trapAt s gid g cNest (nestOver g f))) ∧
  (let sh : Shape := { ctlShape 0x01 1 h with b := fImm, always := true, inactive := true }
   let f (_ : Nat) (ln : Lane) : Nat := if ln.cnt = 0 then 1 else if ln.cnt = 1 then 0 else ln.cnt
   Clear sh s gid g h →
    exec (.elsec h) s = .next (ranTo sh s gid g h (if (g.setCnts f).actives.isEmpty then branchTarget g h.b else g.pc + headLen h)
      (s.modGroup gid fun g1 => g1.setCnts f))) ∧
  (let sh : Shape := { ctlShape 0x01 2 h with always := true, inactive := true }
   Clear sh s gid g h →
    exec (.endif h) s = .next (ran sh s gid g h (s.modGroup gid fun g1 => g1.setCnts fun _ ln => ln.cnt - 1))) ∧
  (let sh : Shape := { ctlShape 0x01 3 h with always := true, inactive := true }
   let f (_ : Nat) (ln : Lane) : Nat := if ln.cnt > 0 then ln.cnt + 2 else 0
   Clear sh s gid g h → nestOver g f = [] →
    exec (.loopc h) s = .next (ran sh s gid g h (s.modGroup gid fun g1 => g1.setCnts f))) ∧
  (let sh : Shape := { ctlShape 0x01 3 h with always := true, inactive := true }
   let f (_ : Nat) (ln : Lane) : Nat := if ln.cnt > 0 then ln.cnt + 2 else 0
   Clear sh s gid g h → nestOver g f ≠ [] → exec (.loopc h) s = .next (trapAt s gid g cNest (nestOver g f))) ∧
  (let sh : Shape := { ctlShape 0x01 4 h with b := fImm, always := true, inactive := true }
   Clear sh s gid g h →
    exec (.endloop h) s = .next
      (if ∀ l ∈ g.eligibles, 1 < (g.lane l).cnt then ran sh s gid g h (s.modGroup gid fun g1 => g1.setCnts fun _ ln => ln.cnt - 2)
       else ranTo sh s gid g h (branchTarget g h.b) (s.modGroup gid fun g1 => g1.setCnts fun _ ln => if ln.cnt = 1 then 0 else ln.cnt))) ∧
  (let sh : Shape := { ctlShape 0x01 5 h with b := fImm, inactive := true, extra := must (decide ((readRaw g h.b).toNat ≤ 14)) }
   Clear sh s gid g h →
    exec (.brk h) s = .next (ran sh s gid g h (s.modGroup gid fun g1 =>
      g1.checkNest.modLanes (g.parts h.guard) fun _ ln => ln.setCnt ((readRaw g h.b).toNat + 2)))) ∧
  (let sh : Shape := { ctlShape 0x01 6 h with b := fImm, inactive := true, extra := must (decide ((readRaw g h.b).toNat ≤ 15)) }
   Clear sh s gid g h →
    exec (.cont h) s = .next (ran sh s gid g h (s.modGroup gid fun g1 =>
      g1.checkNest.modLanes (g.parts h.guard) fun _ ln => ln.setCnt ((readRaw g h.b).toNat + 1))))

/-- 03_lanes.md R105: exit completes: its participating lanes are no longer live, and their open transactions are dropped and counted (R345, R496);
in a trap handler of a group with lanes left the group returns to user mode as sret would, with its restart region closed (R470). With no lane
left, or with none participating, the group goes on at the next instruction, in a handler too. -/
def Obligations.ExitResult : Prop := ∀ (h : Head) (s : State) (gid : Nat) (g : Group),
  let sh : Shape := { ctlShape 0x00 6 h with region := true }
  let drops := ((openLanes g h).filter fun l => !(g.lane l).tx.closing).length
  let s1 := ((s.countCore g.core 0x12 (s.asidOf g) drops).modGroup gid fun g1 =>
    g1.modLanes (g.parts h.guard) fun _ ln => { ln.dropTx with live := false }).txSettle gid
  Clear sh s gid g h →
    (g.parts h.guard = [] → exec (.exit h) s = .next (ran sh s gid g h s)) ∧
    (g.parts h.guard ≠ [] → g.sup = false ∨ g.service = true → exec (.exit h) s = .next (ran sh s gid g h s1)) ∧
    (∀ g1, g.parts h.guard ≠ [] → klookup s1.groups gid = some g1 → g1.sup = true → g1.service = false →
      exec (.exit h) s = .next (if g1.lives = [] then ran sh s gid g h s1
        else (s1.returnTrap gid g1).modGroup gid fun g2 =>
          { g2 with ractive := false, readyAt := s.clock + max (stallCount h.stall) 1 }))

/-! ## Remote deposit, await and cache maintenance -/

/-- 04_rows.md R148 to R151: a deposit to a group of the team that has not ended is sent with the values of the participating lanes, and
arrives with its count unless an older one of the same two groups is on its way (stated where no earlier result for its row is still due: with one,
either may be the last, R150); await subtracts where the counter suffices, else waits, and AWAIT_SATISFIED subtracts and ends the wait. -/
def Obligations.DepositAndAwaitResults : Prop :=
  (∀ h : Head, Completes (.rwr h) (fun _ => rwrShape h) h
    (fun s _ g => ∃ t gt, s.groupOf g.team (readNum g h.b).toNat = some t ∧ klookup s.groups t = some gt ∧ gt.ended = false) fun s gid g =>
    whereLanes g h s (s.addOp (.deposit
      { src := gid, dst := (s.groupOf g.team (readNum g h.b).toNat).getD 0, row := rowOf g h.d 0, ctr := h.mods.toNat,
        vals := (g.parts h.guard).map fun l => (l, BitVec.ofNat 32 (srcA (rwrShape h) g h l)) }))) ∧
  (∀ (s : State) (k : Nat) (d : Deposit) (g : Group), klookup s.ops k = some (.deposit d) → klookup s.groups d.dst = some g →
    depositBlocked s k d.src d.dst = false → g.ended = false → (∀ p ∈ g.pend, p.item = .row d.row → p.due ≤ s.clock) →
    let g1 := d.vals.foldl (fun g e => g.modLane e.1 fun ln => (ln.setRow d.row e.2).setPoison d.row false) g
    exec (.remoteDepositArrive k) s =
      .next (((s.delOp k).setGroup d.dst g1).setGroup d.dst (g1.setCounter d.ctr (g1.counter d.ctr + 1)))) ∧
  (∀ (h : Head) (s : State) (gid : Nat) (g : Group),
    let k := clsNum h.d
    let n := (readRaw g h.a).toNat % 65536
    Clear (awaitShape h g) s gid g h →
      exec (.awaitc h) s = .next
        (if (g.parts h.guard).isEmpty || n == 0 then ran (awaitShape h g) s gid g h s
         else if n ≤ (g.counter k).toNat then
           ran (awaitShape h g) s gid g h (s.modGroup gid fun g1 => g1.setCounter k (g1.counter k - BitVec.ofNat 16 n))
         else waits (awaitShape h g) gid g h (.await k n) s)) ∧
  (∀ (s : State) (gid : Nat) (g : Group) (k n : Nat), klookup s.groups gid = some g → g.wait = .await k n → n ≤ (g.counter k).toNat →
    s.groupHalted g = false →
    exec (.awaitSatisfied gid) s = .next (s.setGroup gid ((g.setCounter k (g.counter k - BitVec.ofNat 16 n)).completeHeld s.clock)))

/-- 07_local.md R234 to R239: pref changes no value that a program can read, and prefetches only; cvta and isap convert and test lane by
lane; cflush takes its lines and completes with its token, and cinv drops clean lines of its core, both where no walk of theirs has to wait
(R336, R341). A lane of cinv.l1 whose address finds no valid translation is ignored, which is the model's choice (log 74). -/
def Obligations.CacheAndAddressResults : Prop :=
  (∀ h : Head, Completes (.pref h) (fun _ => prefShape h) h (fun _ _ g => NoTx g h) fun s gid g =>
    (g.parts h.guard).foldl (fun t l =>
      let c := plainCtx (prefShape h) gid g h s.clock
      let va := laneAddr c t h.a (accOff h.b) 4 l
      let lk := t.laneLook g (s.asidOf g) { use := .read, scope := 5, packed := false, noDev := true, cvt := false } (some l) l va 4
      match lk.cause, lk.chunks with
      | none, [ch] =>
        match ch.loc with
        | .glob pa => if isDomain pa then t else t.prefetch gid g.core (s.asidOf g) pa ch.slot (h.mods.getLsbD 0)
        | .scr _ => t
      | _, _ => t) s) ∧
  (∀ h : Head, Completes (.cvta h) (fun _ => cvtaShape h) h (fun _ _ _ => True) fun s gid g =>
    let v (l : Nat) : W64 := s.convertAddr g.core (h.mods.extractLsb' 0 2).toNat (h.mods.getLsbD 2) (readOp g (opndOf (cvtaShape h).a) h.a l)
    whereLanes g h s (s.modGroup gid fun g1 =>
      if isScal h.d then g1.setS (scalNum h.d) (v (lowest (g.parts h.guard))) else inLanes (cvtaShape h) g h (fun l => (v l).toNat) g1)) ∧
  (∀ h : Head, Completes (.isap h) (fun _ => isapShape h) h (fun _ _ _ => True) fun s gid g =>
    let v (l : Nat) : Bool := spaceNum (s.spaceOf g.core (readOp g (opndOf (isapShape h).a) h.a l)).1 == h.mods.toNat
    whereLanes g h s (s.modGroup gid fun g1 =>
      if isScal h.d then g1.setS (scalNum h.d) (if (g.parts h.guard).all v then 1 else 0)
      else g1.setFlags (g.parts h.guard) (clsNum h.d) v)) ∧
  (∀ h : Head, Completes (.cflush h) (fun _ => cflushShape h) h (fun s _ g => NoTx g h ∧
      s.cacheWaits g ((g.parts h.guard).map fun l => (l, readOp g (opndOf (cflushShape h).a) h.a l)) = false) fun s gid g =>
    whereLanes g h s ((s.cacheWalks g ((g.parts h.guard).map fun l => (l, readOp g (opndOf (cflushShape h).a) h.a l))).postToken gid
      (.cflush gid (scalNum h.d)
      (((g.parts h.guard).filterMap fun l => (s.cacheAddr g l (readOp g (opndOf (cflushShape h).a) h.a l)).map l2LineOf).dedup)
      (h.mods.getLsbD 0)) h.d)) ∧
  (∀ (s : State) (op gid dst : Nat) (lines : List Nat) (inv : Bool) (g : Group), klookup s.ops op = some (.cflush gid dst lines inv) →
    klookup s.groups gid = some g →
    exec (.cflushComplete op) s =
      .next (((lines.foldl (fun t x => t.flushLine g.core (t.asidOf g) x inv) s).writeToken gid op dst 1).delOp op)) ∧
  (∀ h : Head, Completes (.cinv h) (fun _ => cinvShape h) h (fun s _ g => NoTx g h ∧ (h.mods = 0 →
      s.cacheWaits g ((g.parts h.guard).map fun l => (l, readOp g (opndOf (cinvShape h).a) h.a l)) = false)) fun s _ g =>
    whereLanes g h s
      (if h.mods = 0 then (g.parts h.guard).foldl (fun t l =>
          match t.cachePa g l (readOp g (opndOf (cinvShape h).a) h.a l) with
          | some pa => t.dropL1 fun k line => k == g.core && line == pa / 256
          | none => t) (s.cacheWalks g ((g.parts h.guard).map fun l => (l, readOp g (opndOf (cinvShape h).a) h.a l)))
       else if h.mods = 1 then s.dropL1 fun k _ => k == g.core
       else { s with mem := { s.mem with fcache := s.mem.fcache.filter fun x => x.core != g.core } }))

/-! ## Loads and stores -/

/-- 07_local.md R226 to R233: a load whose lanes meet no cause and whose pages are resident enters flight: its destination is busy until the
data return, and an acquiring load holds the group's later accesses; the first cause met is raised in the lanes that meet it. The contiguous form
of ld with cvt takes one stride from the leaf of its first element, or 4, which is the model's choice (log 40). LOAD_DATA_RETURN writes the
destination once every lane is performed, and GATHER_DIRECT_RETURN performs the lanes of the gather packets. The last clauses say which cause a
lane meets (R232): ALIGN, then the scratch and pair windows, then the page, then the element format. -/
def Obligations.LoadResults : Prop :=
  (∀ (h : Head) (s : State) (gid : Nat) (g : Group),
    let sh := ldShape h
    let c := plainCtx sh gid g h s.clock
    let cvt := h.mods.getLsbD 4
    let n := if cvt then cvtStride c s h.a (accOff h.b) else accSize h
    let ask : Ask := { use := .read, scope := scopeOf h.mods, packed := false, noDev := false, cvt := cvt }
    let looks := (g.parts h.guard).map fun l =>
      if cvt then s.cvtLook g (s.asidOf g) ask l (laneAddr c s h.a (accOff h.b) n l)
      else s.laneLook g (s.asidOf g) ask (some l) l (laneAddr c s h.a (accOff h.b) n l) n
    let r := (s.usePieces g .read looks).sendGather g (scopeOf h.mods) looks
    let L : Load :=
      { gid := gid, lanes := looks.map (loadLane c), uni := [], size := if cvt then 4 else n, ty := h.ty, part := partOf h.d, scal := none,
        cvt := if cvt then some g.fmode else none, scope := scopeOf h.mods, acq := h.mods.getLsbD 3, gather := r.2 }
    let walked : Prop := cvt = true → cvtWaits c s h.a (accOff h.b) = []
    (Clear sh s gid g h → NoTx g h → AllResident looks → walked → g.sent = none →
      exec (.ld h) s = .next (ran sh s gid g h (whereLanes g h s (r.1.postLoad c L (fldItems g sh.d h.d)).1))) ∧
    (∀ cause hs, Judged sh s gid g h looks → walked → firstCause (looks.map (poisonLook sh cvt c)) = some (cause, hs) → cause ≠ cPoison →
      exec (.ld h) s = .next (accessTrap s gid g cause hs))) ∧
  (∀ (h : Head) (s : State) (gid : Nat) (g : Group),
    let sh := lduShape h
    let c := plainCtx sh gid g h s.clock
    let ask : Ask := { use := .read, scope := scopeOf h.mods, packed := false, noDev := false, cvt := false }
    let look := s.laneLook g (s.asidOf g) ask none (lowest (g.parts h.guard)) (g.getS (scalNum h.a) + accOff h.b) (accSize h)
    let s1 := s.usePieces g .read [look]
    let L : Load :=
      { gid := gid, lanes := [loadLane c look], uni := g.parts h.guard, size := accSize h, ty := h.ty, part := partOf h.d,
        scal := some (scalNum h.d), cvt := none, scope := scopeOf h.mods, acq := h.mods.getLsbD 3, gather := [] }
    (Clear sh s gid g h → NoTx g h → AllResident [look] → g.sent = none →
      exec (.ldu h) s = .next (ran sh s gid g h
        (whereLanes g h s (s1.postLoad c L (if scalNum h.d = 0 then [] else [.scal (scalNum h.d)])).1))) ∧
    (∀ k, Judged sh s gid g h [look] → look.cause = some k → k.2 ≠ cPoison →
      exec (.ldu h) s = .next (accessTrap s gid g k.2 ((g.parts h.guard).map fun l => { look with lane := l })))) ∧
  (∀ (s : State) (op : Nat) (L L1 : Load), klookup s.ops op = some (.load L) →
    let s1 := (L.lanes.map (·.lane)).foldl (fun t l => t.performLane op l) s
    klookup s1.ops op = some (.load L1) → (∀ x ∈ L1.lanes, x.done.isSome = true) →
      exec (.loadDataReturn op) s = .next (s1.finishLoad op L1)) ∧
  (∀ (s : State) (op : Nat) (L : Load), klookup s.ops op = some (.load L) →
    exec (.gatherDirectReturn op) s = .next (L.gather.foldl (fun t l => t.performLane op l) s)) ∧
  (∀ (s : State) (g : Group) (asid : Nat) (ask : Ask) (l : Option Nat) (lane : Nat) (va : W64) (n : Nat),
    let cause := (s.laneLook g asid ask l lane va n).cause.map (·.2)
    (va.toNat % n ≠ 0 → cause = some cAlign) ∧
    (va.toNat % n = 0 →
      (s.target g l va n = .bound → cause = some cScratch) ∧ (s.target g l va n = .deny → cause = some cAccess) ∧
      (∀ ps, s.target g l va n = .virt ps →
        (∀ p ∈ ps, s.peek (.core g.core) asid p.1 g.sup ask.use = .deny → cause = some cAccess) ∧
        (∀ p ∈ ps, s.peek (.core g.core) asid p.1 g.sup ask.use = .key → cause = some cAccess) ∧
        (∀ p ∈ ps, ∀ pa e, s.peek (.core g.core) asid p.1 g.sup ask.use = .ok pa e → pteGeo e = 7 → ask.packed = true →
          cause = some cAccess ∨ cause = some cFormat)))) ∧
  (∀ (ls hs : List LaneLook) (cause : Nat), firstCause ls = some (cause, hs) →
    (∀ x ∈ hs, x ∈ ls ∧ x.cause.isSome = true) ∧
    ∀ x ∈ hs, ∀ y ∈ ls, ∀ i j, x.cause = some i → y.cause = some j → i.1 < j.1 ∨ (i.1 = j.1 ∧ y ∈ hs))

/-- 07_local.md R226, R230, R232, R233: a store whose lanes meet no cause and whose pages are resident enters the group's queue, in lane order,
with the bytes of its source, its colour and its release bit; the first cause met is raised in the lanes that meet it. -/
def Obligations.StoreResults : Prop := ∀ (h : Head) (s : State) (gid : Nat) (g : Group),
  let ask : Ask := { use := .write, scope := scopeOf h.mods, packed := true, noDev := false, cvt := false }
  (let sh := stShape h
   let looks := (g.parts h.guard).map fun l =>
     s.laneLook g (s.asidOf g) ask (some l) l (laneAddr (plainCtx sh gid g h s.clock) s h.d (accOff h.b) (accSize h) l) (accSize h)
   (Clear sh s gid g h → NoTx g h → AllResident looks →
     exec (.st h) s = .next (ran sh s gid g h (whereLanes g h s ((s.usePieces g .write looks).queueStores gid
       (looks.map fun x => ([x.lane], x.va, x.chunks, rowBytes (g.lane x.lane) (rowOf g h.a x.lane) (accSize h)))
       (accCol h.b) (scopeOf h.mods) (h.mods.getLsbD 3) none)))) ∧
   (∀ cause hs, Judged sh s gid g h looks → cause ≠ cPoison →
     firstCause (looks.map (poisonLook sh false (plainCtx sh gid g h s.clock))) = some (cause, hs) →
     exec (.st h) s = .next (accessTrap s gid g cause hs))) ∧
  (let sh := stuShape h
   let look := s.laneLook g (s.asidOf g) ask none (lowest (g.parts h.guard)) (g.getS (scalNum h.d) + accOff h.b) (accSize h)
   (Clear sh s gid g h → NoTx g h → AllResident [look] →
     exec (.stu h) s = .next (ran sh s gid g h (whereLanes g h s ((s.usePieces g .write [look]).queueStores gid
       [(g.parts h.guard, look.va, look.chunks, leBytes (accSize h) (g.getS (scalNum h.a)).toNat)]
       (accCol h.b) (scopeOf h.mods) (h.mods.getLsbD 3) none)))) ∧
   (∀ k, Judged sh s gid g h [look] → look.cause = some k → k.2 ≠ cPoison →
     exec (.stu h) s = .next (accessTrap s gid g k.2 ((g.parts h.guard).map fun l => { look with lane := l }))))

/-! ## Barriers, atomics, fences -/

/-- 07_local.md R246: a group arrives at a numbered barrier once its earlier stores and loads are performed, and waits; the c-th arrival completes the
episode, and its groups then go on together and acquire. -/
def Obligations.NumberedBarrierResults : Prop :=
  (∀ (h : Head) (s : State) (gid : Nat) (g : Group) (s1 : State), Clear (barShape h) s gid g h → NoTx g h → g.parts h.guard ≠ [] →
    barCount s g h.b ≤ s.ngroup g → s.releaseAll gid (g.parts h.guard) allColours 1 true = some s1 →
    exec (.bar h) s = .next (waits (barShape h) gid g h (.bar (clsNum h.d))
      (s1.modTeam g.team fun t => t.setBar (clsNum h.d) ((t.bar (clsNum h.d)).arrive gid (barCount s g h.b))))) ∧
  (∀ (s : State) (team n : Nat) (t : Team), klookup s.teams team = some t → t.halted = false →
    (t.bar n).leaving ≠ [] →
    exec (.barRelease team n) s =
      .next ((t.bar n).leaving.foldl (fun u gid => u.leaveBar gid) (s.setTeam team (t.setBar n { t.bar n with leaving := [] })))) ∧
  (∀ (b : BarState) (gid count : Nat),
    (b.arrive gid count).leaving =
      if (if b.arrived = 0 then count else b.count) ≤ b.arrived + 1 then b.leaving ++ (b.waiting ++ [gid]) else b.leaving)

/-- 07_local.md R242, R247 to R250: binit writes the object, barr adds to it and arrives, bwait and btest test it, and a phase that is complete
is completed; bwait waits where its condition does not hold, until BWAIT_SATISFIED. -/
def Obligations.BarrierObjectResults : Prop :=
  (∀ (h : Head) (s : State) (gid : Nat) (g : Group) (off : Nat) (s1 : State) (t : Team),
    (Clear (binitShape h) s gid g h → OnObject s gid g h h.a off s1 t →
      exec (.binit h) s = .next (ran (binitShape h) s gid g h (s1.modTeam g.team fun t => (t.markObj off).putObj off
        (binitObj (paramValues g h).1 (paramValues g h).2.1 (paramValues g h).2.2.1 (paramValues g h).2.2.2)))) ∧
    (∀ s2 t2, Clear (barrShape h) s gid g h → OnObject s gid g h h.a off s1 t → t.scrPoison off 16 = false →
      s1.releaseAll gid (g.parts h.guard) allColours 1 true = some s2 → klookup s2.teams g.team = some t2 →
      exec (.barr h) s = .next (ran (barrShape h) s gid g h
        ((s2.modTeam g.team fun t => (t.markObj off).putObj off (barrObj (t2.obj off) (objB g h.b) (!h.mods.getLsbD 0))).modGroup gid fun g1 =>
          g1.setS (scalNum h.d) (if objPhase (t2.obj off) then 1 else 0)))) ∧
    (Clear (bwaitShape h) s gid g h → OnObject s gid g h h.a off s1 t → t.scrPoison off 16 = false →
      let s2 := s1.modTeam g.team fun t => t.markObj off
      exec (.bwait h) s = .next
        (if objHolds (t.obj off) (h.mods.getLsbD 0) (readNum g h.b) then
           ran (bwaitShape h) s gid g h ((s2.modGroup gid fun g1 => g1.setS (scalNum h.d) (objBits (t.obj off))).acquireAt g.core)
         else waits (bwaitShape h) gid g h (.bwait off (h.mods.getLsbD 0) (readNum g h.b) (scalNum h.d)) s2)) ∧
    (Clear (btestShape h) s gid g h → OnObject s gid g h h.a off s1 t → t.scrPoison off 16 = false →
      let v := objHolds (t.obj off) (h.mods.getLsbD 0) (readNum g h.b)
      let s2 := (s1.modTeam g.team fun t => t.markObj off).modGroup gid fun g1 =>
        if isScal h.d then g1.setS (scalNum h.d) (if v then 1 else 0) else g1.setFlags (g.parts h.guard) (clsNum h.d) fun _ => v
      exec (.btest h) s = .next (ran (btestShape h) s gid g h (if v then s2.acquireAt g.core else s2)))) ∧
  (∀ (s : State) (gid : Nat) (g : Group) (t : Team) (off : Nat) (phase : Bool) (b : W64) (dst : Nat), klookup s.groups gid = some g →
    g.wait = .bwait off phase b dst → klookup s.teams g.team = some t → objHolds (t.obj off) phase b = true → t.halted = false →
    exec (.bwaitSatisfied gid) s =
      .next ((s.setGroup gid ((g.land s.free heldOp (g.setS dst (objBits (t.obj off)))).completeHeld s.clock)).acquireAt g.core)) ∧
  (∀ (s : State) (team off : Nat) (t : Team), klookup s.teams team = some t → off / 16 ∈ t.objs → off / 16 ∈ t.upd → off % 16 = 0 →
    exec (.barrierPhaseComplete team off) s = .next (s.setTeam team (t.putObj off (completeObj (t.obj off)))))

/-- 09_order.md R301, R304, R317, R318: atomics whose lanes meet no cause, whose pages are resident and which nothing holds back act on their
lanes in ascending order, and where every answer is at hand write the old values (performed at issue where memory is this package's, the model's
choice, log 59); the first cause met (07_local.md R232) is raised in the lanes that meet it; a line changes between near and far as R304 says. -/
def Obligations.AtomicResults : Prop :=
  (∀ (h : Head) (s : State) (gid : Nat) (g : Group) (s1 s3 : State) (ls : List AtomLane),
    let n := tyWidth h.ty / 8
    let act (sh : Shape) (looks : List LaneLook) (reqs : List AtomReq) : Prop :=
      g.parts h.guard ≠ [] ∧ NoTx g h ∧ AllResident looks ∧ s.atomReady (plainCtx sh gid g h s.clock) looks (atomReach h looks) = some s1 ∧
      (s1.usePieces g .atomic looks).allAtomics (plainCtx sh gid g h s.clock) (atomOp h) h.ty.code.toNat n (atomScope h)
        (s1.usePieces g .atomic looks).nextOp reqs = some (s3, ls) ∧ ∀ x ∈ ls, x.done.isSome = true
    let done (scal : Option Nat) (ret : Bool) (looks : List LaneLook) : State := s3.finishAtom s3.nextOp
      { gid := gid, lanes := ls, parts := g.parts h.guard, ty := h.ty, scal := scal, ret := ret, acq := atomAcq h, colour := atomColour h }
      (atomReach h looks)
    let trapped (sh : Shape) (i : Instr) (looks : List LaneLook) : Prop := ∀ cause hs, Judged sh s gid g h looks →
      firstCause looks = some (cause, hs) → cause ≠ cPoison → exec i s = .next (accessTrap s gid g cause hs)
    (let looks := atomLooks (plainCtx (atomShape h) gid g h s.clock) s (atomShape h) n
     trapped (atomShape h) (.atom h) looks ∧ (Clear (atomShape h) s gid g h → act (atomShape h) looks (looks.map fun x =>
         { lane := x.lane, va := x.va, row := rowOf g h.d x.lane, look := x, b := srcB (atomShape h) g h x.lane,
           c := (readOp g (opndOf (atomShape h).d) h.d x.lane).toNat }) →
       exec (.atom h) s = .next (ran (atomShape h) s gid g h (done none true looks)))) ∧
    (let looks := [s.laneLook g (s.asidOf g) (atomAsk h) none (lowest (g.parts h.guard)) (g.getS (scalNum h.a) + atomOff g h) n]
     (∀ x k, x ∈ looks → Judged (atomuShape h) s gid g h looks → x.cause = some k → k.2 ≠ cPoison →
       exec (.atomu h) s = .next (accessTrap s gid g k.2 ((g.parts h.guard).map fun l => { x with lane := l }))) ∧
     (Clear (atomuShape h) s gid g h → act (atomuShape h) looks (looks.map fun x =>
         { lane := x.lane, va := x.va, row := 0, look := x, b := srcB (atomuShape h) g h 0,
           c := (scalRead h.ty false (g.getS (scalNum h.d))).toNat }) →
       exec (.atomu h) s = .next (ran (atomuShape h) s gid g h (done (some (scalNum h.d)) true looks)))) ∧
    (let looks := atomLooks (plainCtx (redShape h) gid g h s.clock) s (redShape h) n
     trapped (redShape h) (.red h) looks ∧ (Clear (redShape h) s gid g h → act (redShape h) looks (looks.map fun x =>
         { lane := x.lane, va := x.va, row := 0, look := x, b := srcB (redShape h) g h x.lane, c := 0 }) →
       exec (.red h) s = .next (ran (redShape h) s gid g h (done none false looks))))) ∧
  (∀ (s : State) (line : Nat) (a : AtomLine), klookup s.mem.atom line = some a →
    (a.far = false → 4 < (a.revokes.filter fun t => decide (s.hubClock < t + 1024)).length →
      exec (.contentionEnterFar line) s =
        .next { s with mem := { s.mem with atom := kput s.mem.atom line { a with far := true, since := s.hubClock } } }) ∧
    (a.far = true → a.since + 8192 ≤ s.hubClock →
      exec (.contentionReturnNear line) s =
        .next { s with mem := { s.mem with atom := kput s.mem.atom line { a with far := false, revokes := [] } } }))

/-- 09_order.md R319: fence completes at once and holds the group's later accesses until its stores of the masked colours are visible and
its loads performed; FENCE_COMPLETE then ends the hold and acquires. -/
def Obligations.FenceResults : Prop :=
  (∀ h : Head, Completes (.fence h) (fun _ => fenceShape h) h (fun _ _ _ => True) fun s gid g =>
    whereLanes g h s (s.modGroup gid fun g1 =>
      { g1 with fence := some { kind := .fence, lanes := g.parts h.guard, mask := (readRaw g h.b).extractLsb' 0 8, loads := [], scope := h.mods.toNat } })) ∧
  (∀ (s s1 : State) (gid : Nat) (g : Group) (f : Fence), klookup s.groups gid = some g → g.fence = some f → f.kind = .fence →
    s.fenceAll gid f.lanes (maskHas f.mask) f.scope = some s1 →
    exec (.fenceComplete gid) s = .next ((s1.modGroup gid fun g1 => { g1 with fence := none }).acquireAt g.core))

/-! ## Transactions -/

/-- 10_transactions.md R321, R327, R331, R332, R336, R344, R504: tbeg opens the lanes that are not open, tend takes a ticket for those that are,
tabort dooms them with its code and tstat reads their status; a waiting group goes on when the quarter's group transaction is free or the
fallback lock is granted, and the oldest ticket commits. -/
def Obligations.TransactionResults : Prop :=
  (∀ (h : Head) (s : State) (gid : Nat) (g : Group) (t : Team) (s2 : State), Clear (tbegShape h) s gid g h →
    klookup s.teams g.team = some t → t.txok = true → plainLanes g h ≠ [] → s.quarterHeld gid g = false →
    (wantsLock g (plainLanes g h) = true → s.tx.lock = some gid) →
    (s.doomLanes gid (openLanes g h) 5 0).beginTx gid (plainLanes g h) = some s2 →
    exec (.tbeg h) s = .next (ran (tbegShape h) s gid g h s2)) ∧
  (∀ (s s1 : State) (gid : Nat) (g : Group) (ls : List Nat), klookup s.groups gid = some g → g.wait = .tbeg ls →
    s.groupHalted g = false → s.quarterHeld gid g = false → (wantsLock g ls = true → s.tx.lock = some gid) → s.beginTx gid ls = some s1 →
    exec (.tbegResume gid) s = .next (s1.modGroup gid fun g1 => g1.completeHeld s.clock)) ∧
  (∀ (s s2 : State) (gid : Nat) (g : Group) (ls : List Nat), klookup s.groups gid = some g → g.wait = .lock ls →
    s.groupHalted g = false → s.tx.lock = none → s.tx.commits = [] →
    ({ s with tx := { s.tx with lock := some gid } } : State).beginTx gid ls = some s2 →
    exec (.fallbackLockGrant gid) s = .next (s2.modGroup gid fun g1 => g1.completeHeld s.clock)) ∧
  (∀ (h : Head) (s : State) (gid : Nat) (g : Group), Clear (tendShape h) s gid g h → g.parts h.guard ≠ [] →
    (openLanes g h = [] → exec (.tend h) s = .next (ran (tendShape h) s gid g h
      (s.modGroup gid fun g1 => g1.setFlags (g.parts h.guard) (clsNum h.d) fun _ => false))) ∧
    (openLanes g h ≠ [] → s.ticketFree (some gid) = true →
      exec (.tend h) s = .next (ran (tendShape h) s gid g h
        (({ s.takeTicket (.group gid (g.parts h.guard) (openLanes g h) (clsNum h.d) s.nextOp) with nextOp := s.nextOp + 1 } : State).modGroup gid
          fun g1 =>
            { g1.modLanes (openLanes g h) (fun _ ln => ln.handTx) with
              busy := g1.busy ++ (flagItems (clsNum h.d)).map fun it => { item := it, op := s.nextOp }
              fence := some { kind := .commit, lanes := g.parts h.guard, mask := 0xFF, loads := [] } })))) ∧
  (∀ (s : State) (gid : Nat) (g : Group) (c : Commit) (rest : List Commit) (parts lanes : List Nat) (flag op : Nat),
    s.tx.commits = c :: rest → c.who = .group gid parts lanes flag op → klookup s.groups gid = some g →
    s.commitWaits g lanes = false → exec (.tendCommit gid) s =
      .next (({ s with tx := { s.tx with commits := rest } } : State).commitGroup gid g c.ticket parts lanes flag op)) ∧
  (∀ h : Head, Completes (.tabort h) (fun _ => tabortShape h) h (fun _ _ _ => True) fun s gid g =>
    (s.doomLanes gid (openLanes g h) 9 0).modGroup gid fun g1 =>
      g1.modLanes (openLanes g h) fun _ ln => { ln with tx := { ln.tx with code := (readRaw g h.b).toNat % 256 } }) ∧
  (∀ h : Head, Completes (.tstat h) (fun _ => tstatShape h) h (fun _ _ _ => True) fun s gid g =>
    whereLanes g h s (s.modGroup gid (inLanes (tstatShape h) g h fun l =>
      (if h.mods.getLsbD 0 then (g.lane l).tx.addr else statusWord (g.lane l).tx).toNat)))

/-- 10_transactions.md R338 to R341, R343, R346, 14_time.md R436: the Xovmtx instructions of a host core that is not waiting for its ticket complete,
xtbeg and xspawn once its earlier stores are performed (09_order.md R312), and XTEND_COMMIT applies the oldest ticket's writes. An xspawn whose
address the core's own page tables do not map is a load page fault, and one whose record cannot be read answers 5; what the tables map is
free (Config.hostPage, log 43). -/
def Obligations.HostTransactionResults : Prop := ∀ (s : State) (n : Nat),
  let s1 := s.drainHostAll n
  (s.cur = .host n → (s.host n).waitRd = none →
    (∀ rd rs1, (s.host n).txOpen = false → ((s.host n).getX rs1.toNat).extractLsb' 0 2 = 0 → s.tx.lock = none →
      (s1.host n).stq = [] →
      exec (.xtbeg rd rs1) s = .next (s1.setHost n ((s1.host n).openTx rd.toNat ((s.host n).getX rs1.toNat)))) ∧
    (∀ rd, (s.host n).txOpen = false → exec (.xtend rd) s = .next (s.setHost n ((s.host n).finish rd.toNat 0))) ∧
    (∀ rd, (s.host n).txOpen = true → s.ticketFree none = true → s.commitAhead n (s.host n) = false →
      exec (.xtend rd) s = .next ((s.takeTicket (.host n)).setHost n { s.host n with waitRd := some rd.toNat })) ∧
    (∀ code, exec (.xtabort code) s = .next (s.setHost n
      (if (s.host n).txOpen then (s.host n).abort 9 code else { s.host n with pc := (s.host n).pc + 4 }))) ∧
    (∀ rd, exec (.xtstat rd) s = .next (s.setHost n ((s.host n).finish rd.toNat (hostStatus (s.host n))))) ∧
    (∀ rd rs1, let a := (s.host n).getX rs1.toNat
      (s.host n).txOpen = false → (s1.host n).stq = [] → a.toNat % 128 = 0 → s1.trapsWait = false →
      (∀ pa, Config.hostPage s1.free n a = some pa → s1.runWaits (.host n) pa.toNat 128 true = false ∧ s1.sliceFull pa.toNat = false) →
      exec (.xspawn rd rs1) s = .next (match Config.hostPage s1.free n a with
        | none => s1.setHost n ((s1.host n).trap 13 a)
        | some pa =>
          if s1.unreadable pa.toNat then s1.setHost n ((s1.host n).finish rd.toNat 5)
          else
            let r := s1.submitAt (.host n) none (.host n) a.toNat pa.toNat 0
            r.1.setHost n ((r.1.host n).finish rd.toNat (BitVec.ofNat 64 r.2))))) ∧
  (∀ (c : Commit) (rest : List Commit), s.tx.commits = c :: rest → c.who = .host n → (∀ e ∈ (s.host n).buf, s.sliceFull e.1 = false) →
    exec (.xtendCommit n) s = .next ((({ s with tx := { s.tx with commits := rest } } : State).applyHost n (s.host n).buf).setHost n
      (({ s.host n with txOpen := false, reads := [], writes := [], buf := [], waitRd := none } : HostCore).finish
        ((s.host n).waitRd.getD 0) 1))) ∧
  (∀ cause, (s.host n).txOpen = true → (s.host n).waitRd = none → (cause = 3 → 16 < (s.host n).writes.length) →
    cause ∈ [1, 3, 5, 6, 7] → exec (.hostTxAbort n cause) s = .next (s.setHost n ((s.host n).abort cause 0)))

/-- 14_time.md R436, R439, R440: spawn of a readable record of this package, which nothing keeps waiting, submits it and writes the status code
to its scalar. -/
def Obligations.SpawnResult : Prop := ∀ (h : Head) (s : State) (gid : Nat) (g : Group) (s1 : State) (ch : Chunk) (pa : Nat),
  let look := s.spawnLook g (s.asidOf g) (lowest (g.parts h.guard)) (g.getS (scalNum h.a))
  let agent := (wlEng (plainCtx (spawnShape h) gid g h s.clock) s1).agent
  Clear (spawnShape h) s gid g h → NoTx g h → g.parts h.guard ≠ [] → AllResident [look] →
    s.releaseAll gid (g.parts h.guard) allColours 2 true = some s1 →
    look.chunks = [ch] → ch.loc = .glob pa → isDomain pa = false →
    s1.runWaits agent pa 128 true = false → s1.sliceFull pa = false → s1.trapsWait = false →
    let r := (s1.usePieces g .read [look]).submitAt (s1.submitterOf g) (if g.sup then none else some (s1.asidOf g)) agent look.va.toNat pa ch.slot
    exec (.spawn h) s = .next (ran (spawnShape h) s gid g h (r.1.modGroup gid fun g1 => g1.setS (scalNum h.d) (BitVec.ofNat 64 r.2)))

/-! ## Engines -/

/-- 13_engines.md R406 to R413, R417, R418: cpost hands a card to its engine, with its token register busy; a unit of a card that may run is read,
converted and written; after a replay a parked unit of it is too, whatever became of
the others (R412); a card whose units are all written writes its token and leaves; an operation that no earlier footprint holds any more
starts; rst queues remote stores, or raises the first cause of R417 in the lanes that meet it; and what waits for a package that no link reaches fails. -/
def Obligations.CardResults : Prop :=
  (∀ (h : Head) (s : State) (gid : Nat) (g : Group) (off : Nat) (s1 : State) (t : Team), Clear (cpostShape h) s gid g h →
    OnScratch s gid g h (g.getS (scalNum h.a)) 64 64 off s1 t → s.cardsQueued g.core < 32 → s.hazardFull g.core = false →
    exec (.cpost h) s = .next (ran (cpostShape h) s gid g h
      (s1.postCard (plainCtx (cpostShape h) gid g h s.clock) h.d (leNat (t.scrBytes off 64)) (t.scrPoison off 64)))) ∧
  (∀ (s s1 : State) (op unit : Nat) (c : Card) (u : CardUnit), klookup s.ops op = some (.card c) → c.units[unit]? = some u →
    (u.st = .todo ∧ c.status = 0) ∨ u.st = .again → c.started = true → s.engRelease c.iss op c.mask = some s1 →
    let s2 := s1.runUnit op unit c u
    exec (.cardUnitWrite op unit) s =
      .next (match klookup s2.ops op with | some (.card c2) => if c2.readAll then s2.readsDone op else s2 | _ => s2)) ∧
  (∀ (s : State) (op : Nat) (c : Card), klookup s.ops op = some (.card c) → c.started = true → c.status = 0 → c.unfinished = false →
    exec (.cardComplete op) s = .next (s.endOp c.iss op (BitVec.ofNat 64 (c.doneBytes * 2 ^ 24 + c.verdict)))) ∧
  (∀ (s : State) (op : Nat), s.hazardBlocked op = false →
    (∀ c, klookup s.ops op = some (.card c) → c.started = false →
      exec (.hazardRelease op) s = .next (s.setOp op (.card { c with started := true }))) ∧
    (∀ j, klookup s.ops op = some (.join j) → j.st = .queued → j.kind ≠ .jclose → exec (.hazardRelease op) s = .next (s.startJoin op j)) ∧
    (∀ f, klookup s.ops op = some (.fetch f) → f.started = false → exec (.hazardRelease op) s = .next (s.startFetch op f))) ∧
  (∀ (h : Head) (s : State) (gid : Nat) (g : Group),
    let sh := rstShape h
    let looks := (g.parts h.guard).map fun l =>
      s.rstLook g (s.asidOf g) l (laneAddr (plainCtx sh gid g h s.clock) s h.d (accOff h.b) (accSize h) l) (accSize h)
    (Clear sh s gid g h → NoTx g h → AllResident looks →
      exec (.rst h) s = .next (ran sh s gid g h (whereLanes g h s ((s.usePieces g .write looks).queueStores gid
        (looks.map fun x => ([x.lane], x.va, x.chunks, rowBytes (g.lane x.lane) (rowOf g h.a x.lane) (accSize h))) (accCol h.b) 4 false
        (some (if h.params.isSome then (paramValues g h).1 else 0)))))) ∧
    (∀ cause hs, Judged sh s gid g h looks → cause ≠ cPoison →
      firstCause (looks.map (poisonLook sh false (plainCtx sh gid g h s.clock))) = some (cause, hs) →
      exec (.rst h) s = .next (accessTrap s gid g cause hs))) ∧
  (∀ (s : State) (pkg : Nat), s.routes pkg = [] →
    exec (.remotePathLost pkg) s = .next ((s.net.outs.filter fun o => o.dst == pkg).foldl (fun t o => t.settleOut o stRemote []) s))

/-- 11_tun.md R362, R363, R367 to R377: with a handle of an open partition, its grain and type, and room in its firkin, every join instruction
enters the core's queue with its values, its footprints and its reservation (jclose closes the handle at once, jget holds its row and flag).
Without such a handle it raises ACCESS, with the wrong grain or type FORMAT, and without room SPILL_FULL (R356), in every participating lane. That
a forwarded operation enters the issuing core's hazard table is the model's choice (log 75). -/
def Obligations.JoinQueueResults : Prop := ∀ (h : Head) (s : State) (gid : Nat) (g : Group) (n : Nat) (p : Partition) (t : State),
  let c (sh : Shape) : Ctx := plainCtx sh gid g h s.clock
  let room (need : Nat) : Prop := need = 0 ∨ p.fused + p.fres + need ≤ p.fcap
  let on : Prop := g.parts h.guard ≠ [] ∧ NoTx g h ∧ s.handle g.team (g.getS (scalNum h.a)) = some (n, p)
  let v := paramValues g h
  let lanes (x : W64) : List (Nat × W64) := (g.parts h.guard).map fun l => (l, x)
  (∀ f ∈ [((.jclose h : Instr), jcloseShape h), (.jmul h, jmulShape h), (.jstrm h, jstrmShape h), (.jacc h, jaccShape h), (.jget h, jgetShape h),
      (.jdrain h, jdrainShape h), (.jstat h, jstatShape h)],
    Clear f.2 s gid g h → g.parts h.guard ≠ [] → NoTx g h → s.handle g.team (g.getS (scalNum h.a)) = none →
    exec f.1 s = .next (trapAt s gid g cAccess (lanes (g.getS (scalNum h.a))))) ∧
  (Clear (jmulShape h) s gid g h → on → isZero h.b = true → p.elem = true ∨ ¬ room 1 →
    exec (.jmul h) s = .next (trapAt s gid g (if p.elem then cFormat else cSpill) (lanes (handleOf n p)))) ∧
  (Clear (jstrmShape h) s gid g h → on → h.mods.getLsbD 0 = false →
    let cols := strmB false v.2.2.1 0
    p.elem = true ∨ ¬ room (if strmOver v.2.2.1 cols then 0 else strmA v.2.2.1 * cols) →
    exec (.jstrm h) s = .next (trapAt s gid g (if p.elem then cFormat else cSpill) (lanes (handleOf n p)))) ∧
  (Clear (jaccShape h) s gid g h → on → p.elem = false ∨ (h.ty == .i32) ≠ p.int ∨ ¬ room (g.parts h.guard).length →
    exec (.jacc h) s = .next (trapAt s gid g (if p.elem && (h.ty == .i32) == p.int then cSpill else cFormat) (lanes (handleOf n p)))) ∧
  (Clear (jgetShape h) s gid g h → on → p.elem = false ∨ (h.ty == .i32) ≠ p.int →
    exec (.jget h) s = .next (trapAt s gid g cFormat (lanes (handleOf n p)))) ∧
  (∀ off s1 tm, Clear (jopenShape h) s gid g h → OnScratch s gid g h (g.getS (scalNum h.a)) 64 64 off s1 tm →
    tm.scrPoison off 64 = false →
    (h.mods.getLsbD 0 = true → s.handle g.team (g.getS (scalNum h.b)) = some (n, p)) →
    s1.queueJoin (c (jopenShape h))
      { iss := (c (jopenShape h)).issuer s1 (scalNum h.d), kind := .jopen (h.mods.getLsbD 0) off (g.getS (scalNum h.b)),
        part := if h.mods.getLsbD 0 then n else 128, resv := 0 } [] [] = some t →
    exec (.jopen h) s = .next (ran (jopenShape h) s gid g h t)) ∧
  (∀ t1, Clear (jcloseShape h) s gid g h → on →
    s.queueJoin (c (jcloseShape h)) { iss := (c (jcloseShape h)).issuer s 0, kind := .jclose, part := n, resv := 0 } [] [] = some t1 →
    exec (.jclose h) s = .next (ran (jcloseShape h) s gid g h (t1.modPart g.team n fun p => { p with closed := true }))) ∧
  (let iss := (c (jmulShape h)).issuer s (scalNum h.d)
   let reads := s.tileSpan iss (p.tileA v.2.1 (mulStrideA v.2.2.2)) ++ s.tileSpan iss (p.tileB v.2.2.1 (mulStrideB v.2.2.2))
   let op (obj : Option Nat) : JoinOp :=
     { iss := iss, kind := .jmul v.1 v.2.1 v.2.2.1 v.2.2.2 obj (h.mods.getLsbD 0), part := n, resv := 1 }
   Clear (jmulShape h) s gid g h → on → p.elem = false → room 1 →
    (isZero h.b = true → s.queueJoin (c (jmulShape h)) (op none) reads (s.firkin iss p) = some t →
      exec (.jmul h) s = .next (ran (jmulShape h) s gid g h t)) ∧
    (∀ off s1 tm, isZero h.b = false → OnObject s gid g h h.b off s1 tm →
      (s1.modTeam g.team fun t => t.markObj off).queueJoin (c (jmulShape h)) (op (some off)) reads
        ((s1.modTeam g.team fun t => t.markObj off).firkin iss p) = some t →
      exec (.jmul h) s = .next (ran (jmulShape h) s gid g h t))) ∧
  (let iss := (c (jstrmShape h)).issuer s (scalNum h.d)
   let resv (cols : Nat) : Nat := if strmOver v.2.2.1 cols then 0 else strmA v.2.2.1 * cols
   let op (dense : Bool) (d : Nat) : JoinOp :=
     { iss := iss, kind := .jstrm dense v.1 v.2.1 v.2.2.1 v.2.2.2 d, part := n, resv := resv (strmB dense v.2.2.1 d),
       stream := { ia := strmStart v.2.2.2 } }
   Clear (jstrmShape h) s gid g h → on → p.elem = false →
    (h.mods.getLsbD 0 = false → room (resv (strmB false v.2.2.1 0)) →
      s.queueJoin (c (jstrmShape h)) (op false 0)
        (s.rangeOf iss v.1 (16 * strmA v.2.2.1) ++ s.rangeOf iss v.2.1 (16 * strmB false v.2.2.1 0))
        (if resv (strmB false v.2.2.1 0) = 0 then [] else s.firkin iss p) = some t →
      exec (.jstrm h) s = .next (ran (jstrmShape h) s gid g h t)) ∧
    (∀ off s1 tm, h.mods.getLsbD 0 = true → OnScratch s gid g h v.2.1 32 32 off s1 tm → tm.scrPoison off 32 = false →
      let d := leNat (tm.scrBytes off 32)
      room (resv (strmB true v.2.2.1 d)) →
      s1.queueJoin (c (jstrmShape h)) (op true d) (s1.rangeOf iss v.1 (16 * strmA v.2.2.1) ++ s1.denseSpan iss d)
        (if resv (strmB true v.2.2.1 d) = 0 then [] else s1.firkin iss p) = some t →
      exec (.jstrm h) s = .next (ran (jstrmShape h) s gid g h t))) ∧
  (let iss := (c (jaccShape h)).issuer s (scalNum h.d)
   let tuples := (g.parts h.guard).map fun l => (l, (g.lane l).pair (rowOf g h.b l), (g.lane l).row (rowOf g h.b l + 2))
   Clear (jaccShape h) s gid g h → on → p.elem = true → ((h.ty == .i32) = p.int) → room (g.parts h.guard).length →
    s.queueJoin (c (jaccShape h)) { iss := iss, kind := .jacc tuples, part := n, resv := (g.parts h.guard).length } [] (s.firkin iss p) = some t →
    exec (.jacc h) s = .next (ran (jaccShape h) s gid g h t)) ∧
  (let row := rowOf g h.d 0
   let k := h.mods.toNat % 8
   Clear (jgetShape h) s gid g h → on → p.elem = true → ((h.ty == .i32) = p.int) →
    s.queueJoin (c (jgetShape h))
      { iss := (c (jgetShape h)).issuer s 0, kind := .jget ((g.parts h.guard).map fun l => (l, (g.lane l).pair (rowOf g h.b l))) row k,
        part := n, resv := 0 } [] [] = some t →
    exec (.jget h) s = .next (ran (jgetShape h) s gid g h (t.modGroup gid fun g1 =>
      { g1 with busy := g1.busy ++ (Item.row row :: flagItems k).map fun it => ({ item := it, op := s.nextOp } : Busy) }))) ∧
  (∀ off s1 tm, Clear (jdrainShape h) s gid g h → on → OnScratch s gid g h v.1 32 32 off s1 tm →
    let iss := (c (jdrainShape h)).issuer s (scalNum h.d)
    let em := bitsOf (leNat (tm.scrBytes off 32)) 223 192
    let cnt := min v.2.2.2.toNat 65536
    s1.queueJoin (c (jdrainShape h)) { iss := iss, kind := .jdrain off v.2.1 v.2.2.1 v.2.2.2, part := n, resv := 0 } []
      (s1.rangeOf iss (v.2.2.1 + BitVec.ofNat 64 (p.outSize * em)) (p.outSize * cnt)
        ++ (if v.2.1 = 0 then [] else s1.rangeOf iss (v.2.1 + BitVec.ofNat 64 (8 * em)) (8 * cnt))) = some t →
    exec (.jdrain h) s = .next (ran (jdrainShape h) s gid g h t)) ∧
  (∀ off s1 tm, Clear (jstatShape h) s gid g h → on → OnScratch s gid g h (g.getS (scalNum h.b)) 64 64 off s1 tm →
    s1.queueJoin (c (jstatShape h)) { iss := (c (jstatShape h)).issuer s1 (scalNum h.d), kind := .jstat off, part := n, resv := 0 } [] [] = some t →
    exec (.jstat h) s = .next (ran (jstatShape h) s gid g h t))

/-- 11_tun.md R363, R364, R369, R370: a queued join operation starts and a running one forms its next product or tuple; a jmul whose barrier has come
down starts; an operation with its token and no write outstanding completes; and jclose frees the partition once every earlier operation of
it has completed. -/
def Obligations.JoinEventResults : Prop := ∀ (s : State) (op : Nat) (j : JoinOp), klookup s.ops op = some (.join j) →
  (j.st = .queued → j.kind ≠ .jclose → exec (.joinOpStart op) s = .next (s.startJoin op j)) ∧
  (j.st = .running → j.kind ≠ .jclose → j.fin = none →
    exec (.joinOpStart op) s = .next ((s.stepJoin op j).1.saveJoin op (s.stepJoin op j).2)) ∧
  (∀ key a b v3 off cd t, j.st = .waiting → j.kind = .jmul key a b v3 (some off) cd → klookup s.teams j.iss.team = some t →
    (objPend (t.obj off)).toInt ≤ (mulAmount v3).toInt →
    exec (.jmulBarrierSatisfied op) s = .next ((s.setOp op (.join { j with st := .running })).acquireAt (s.joinCore j))) ∧
  (∀ tok, j.st = .running → j.kind ≠ .jclose → j.fin = some tok → s.writesOut op = false →
    exec (.joinOpComplete op) s = .next (s.endJoin op j tok)) ∧
  (j.kind = .jclose → s.joinBehind op j = false →
    exec (.jcloseFree op) s = .next ((s.leaveOp op).modTeam j.iss.team fun t => { t with parts := kerase t.parts j.part }))

/-- 12_irregular.md R382, R383, R386, R402, R403: fch and dgrow enter the fetch unit's queue, where fch's handle is one that can be read (else it
raises the cause of 07_local.md R241); an operation starts, an fch whose lanes are all read
writes its rows, its flag and its token, and a dgrow whose parameters are in order updates its tile and its record. -/
def Obligations.FetchUnitResults : Prop :=
  (∀ (h : Head) (s s1 t : State) (gid : Nat) (g : Group),
    let c := plainCtx (fchShape h g) gid g h s.clock
    let a := (paramValues g h).1
    let w1 := (paramValues g h).2.1
    let row := rowOf g h.a 0
    let k := (w1.extractLsb' 8 3).toNat
    let f : FetchOp :=
      { iss := c.issuer s (scalNum h.d), mask := w1.extractLsb' 0 8,
        kind := .fch a ((g.parts h.guard).map fun l => (l, (List.range 4).map fun k => ((g.lane l).row (rowOf g h.b l + k)).toInt)) row
          (partOf h.a) k h.ty }
    Clear (fchShape h g) s gid g h → NoTx g h → g.parts h.guard ≠ [] → w1.toNat < 2 ^ 11 → s.fchAddr g a = none →
    (match s.target g none a 32 with | .scr off => s.settleScr gid (g.parts h.guard) off 32 | _ => some s) = some s1 →
    s1.queueFetch c f (s1.surfDeclared (fetchEng 0 f.iss) a) [] = some t →
    exec (.fch h) s = .next (ran (fchShape h g) s gid g h (t.modGroup gid fun g1 =>
      { g1 with busy := g1.busy ++ (Item.row row :: flagItems k).map fun it => ({ item := it, op := s1.nextOp } : Busy) }))) ∧
  (∀ (h : Head) (s : State) (gid : Nat) (g : Group) (cause : Nat),
    let a := (paramValues g h).1
    Clear (fchShape h g) s gid g h → NoTx g h → g.parts h.guard ≠ [] → (paramValues g h).2.1.toNat < 2 ^ 11 → s.fchAddr g a = some cause →
    exec (.fch h) s = .next (trapAt s gid g cause ((g.parts h.guard).map fun l => (l, a)))) ∧
  (∀ (h : Head) (s t : State) (gid : Nat) (g : Group),
    let c := plainCtx (dgrowShape h) gid g h s.clock
    let v := paramValues g h
    let iss := c.issuer s (scalNum h.d)
    Clear (dgrowShape h) s gid g h → NoTx g h → g.parts h.guard ≠ [] →
    s.queueFetch c { iss := iss, mask := (readRaw g h.a).extractLsb' 0 8, kind := .dgrow v.1 v.2.1 v.2.2.1 v.2.2.2 }
      (s.rangeOf iss v.2.1 2048) (s.rangeOf iss v.1 2048 ++ s.rangeOf iss v.2.2.1 144) = some t →
    exec (.dgrow h) s = .next (ran (dgrowShape h) s gid g h t)) ∧
  (∀ (s : State) (op : Nat) (f : FetchOp), klookup s.ops op = some (.fetch f) → f.started = false →
    exec (.fetchOpStart op) s = .next (s.startFetch op f)) ∧
  (∀ (s : State) (op : Nat) (f f1 : FetchOp) (a : W64) (coords : List (Nat × List Int)) (row part flag : Nat) (ty : Ty) (d : Nat),
    klookup s.ops op = some (.fetch f) → f.kind = .fch a coords row part flag ty → f.desc = some d →
    let s1 := (coords.map (·.1)).foldl (fun t l => t.stepFetch op l) s
    klookup s1.ops op = some (.fetch f1) → f1.res.length + f1.fails.length = coords.length →
    exec (.fetchOpComplete op) s = .next (s1.finishFch op f1 row part flag ty (coords.map (·.1)))) ∧
  (∀ (s s1 s2 s3 s4 : State) (op : Nat) (f : FetchOp) (tile grad st v3 : W64) (w gr r : List Byte) (fw fg fr : List (Nat × Nat)) (b : List Byte)
      (fb : List (Nat × Nat)),
    klookup s.ops op = some (.fetch f) → f.kind = .dgrow tile grad st v3 → f.fin = none → f.started = true → f.parked = false →
    growBad v3 = false → tile.toNat % 64 = 0 → grad.toNat % 64 = 0 → st.toNat % 16 = 0 →
    s.engRead (fetchEng op f.iss) tile 2048 = (s1, .ok w fw) → s1.engRead (fetchEng op f.iss) grad 2048 = (s2, .ok gr fg) →
    s2.engRead (fetchEng op f.iss) st 144 = (s3, .ok r fr) → (fw ++ fg).all (fun p => p.2 != 7) = true →
    s3.growWrite (fetchEng op f.iss) tile st (growBytes v3 w gr r) = (s4, .ok b fb) → s4.writesOut op = false →
    exec (.dgrowComplete op) s = .next (s4.endOp f.iss op (fetchToken stDone (if (growBytes v3 w gr r).2.isSome then 1 else 0))))

/-- 12_irregular.md R391 to R397, R400, R401: wini writes an empty list; wpush, wpop and wins change the list's items in lane order and write its
header, and where the items or the set have no room they raise WORKLIST_FULL with nothing changed (R393, R395); wins on a list without a set, and
wini with fields that R391 rejects, raise FORMAT; wstat reads its counts; topk writes each participating lane's best values with their indices. -/
def Obligations.WorklistResults : Prop := ∀ (h : Head) (s : State) (gid : Nat) (g : Group),
  let put (s2 : State) (w : Wl) : State := s2.modTeam g.team fun t => t.scrStore w.at' (leBytes 64 w.header)
  let eng (sh : Shape) (t : State) : Eng := wlEng (plainCtx sh gid g h s.clock) t
  let v := paramValues g h
  let full (cause : Nat) : State := trapAt s gid g cause ((g.parts h.guard).map fun l => (l, g.getS (scalNum h.a)))
  (∀ off s1 tm, Clear (winiShape h) s gid g h → s.listHeld gid g.team = false → OnScratch s gid g h (g.getS (scalNum h.a)) 64 64 off s1 tm →
    winiBad v.1 v.2.1 v.2.2.1 v.2.2.2 = true → exec (.wini h) s = .next (full cFormat)) ∧
  (∀ w s2, Clear (wpushShape h) s gid g h → OnWorklist (wpushShape h) s gid g h w s2 → wlCap w.hd < w.items + (g.parts h.guard).length →
    exec (.wpush h) s = .next (full cWlFull)) ∧
  (∀ w s2, Clear (winsShape h) s gid g h → OnWorklist (winsShape h) s gid g h w s2 → wlHlog w.hd = 0 →
    exec (.wins h) s = .next (full cFormat)) ∧
  (∀ w s2 s3 s4 pr acc, Clear (winsShape h) s gid g h → OnWorklist (winsShape h) s gid g h w s2 → wlHlog w.hd ≠ 0 →
    s2.releaseAll gid (g.parts h.guard) allColours 1 true = some s3 →
    s3.insertAll g.team w.hd ((g.parts h.guard).map fun l => (l, BitVec.ofNat 32 (srcB (winsShape h) g h l))) = (s4, pr, acc) → pr ≠ .poison →
    pr = .full ∨ (acc ≠ [] ∧ 2 ^ wlHlog w.hd ≤ w.hcnt + acc.length) ∨ wlCap w.hd < w.items + acc.length →
    exec (.wins h) s = .next (full cWlFull)) ∧
  (∀ off s1 s2 tm hd, Clear (winiShape h) s gid g h → s.listHeld gid g.team = false →
    OnScratch s gid g h (g.getS (scalNum h.a)) 64 64 off s1 tm →
    winiBad v.1 v.2.1 v.2.2.1 v.2.2.2 = false → winiHeader v.1 v.2.1 v.2.2.1 v.2.2.2 = hd →
    s1.wlAreas g (s1.spaceBase g.core 1) hd = none → s1.settleWl (plainCtx (winiShape h) gid g h s.clock) hd = some s2 →
    exec (.wini h) s = .next (ran (winiShape h) s gid g h (s2.initList g.team off (s1.spaceBase g.core 1) hd))) ∧
  (∀ w w1 s2 s3 s4 xs, Clear (wpushShape h) s gid g h → OnWorklist (wpushShape h) s gid g h w s2 →
    w.items + (g.parts h.guard).length ≤ wlCap w.hd → s2.releaseAll gid (g.parts h.guard) allColours 1 true = some s3 →
    s3.pushItems (eng (wpushShape h) s3) (g.getS (scalNum h.a)) w
      ((g.parts h.guard).map fun l => BitVec.ofNat 32 (srcB (wpushShape h) g h l)) = .ok s4 w1 xs →
    exec (.wpush h) s = .next (ran (wpushShape h) s gid g h ((put s4 w1).dropGot (eng (wpushShape h) s3).op))) ∧
  (∀ w w1 s2 s3 xs, Clear (wpopShape h) s gid g h → OnWorklist (wpopShape h) s gid g h w s2 →
    let n := min (g.parts h.guard).length w.items
    let got := (g.parts h.guard).take n
    s2.popItems (eng (wpopShape h) s2) (g.getS (scalNum h.a)) w n = .ok s3 w1 xs →
    let s4 := put s3 w1
    exec (.wpop h) s = .next (ran (wpopShape h) s gid g h
      (((if n = 0 then s4 else s4.acquireAt g.core).modGroup gid fun g1 =>
        ((g1.modLanes got fun l ln =>
            writeOp g (opndOf (wpopShape h).d) h.d l ((xs.getD ((g.parts h.guard).findIdx (· == l)) 0).setWidth 64) ln).setFlags
          (g.parts h.guard) (h.mods.toNat % 8) fun l => got.contains l).setS (scalNum h.b) (BitVec.ofNat 64 n)).dropGot
        (eng (wpopShape h) s2).op))) ∧
  (∀ w w1 s2 s3 s4 s5 pr acc xs, Clear (winsShape h) s gid g h → OnWorklist (winsShape h) s gid g h w s2 → wlHlog w.hd ≠ 0 →
    s2.releaseAll gid (g.parts h.guard) allColours 1 true = some s3 →
    s3.insertAll g.team w.hd ((g.parts h.guard).map fun l => (l, BitVec.ofNat 32 (srcB (winsShape h) g h l))) = (s4, pr, acc) →
    pr ≠ .full → pr ≠ .poison → (acc ≠ [] → w.hcnt + acc.length < 2 ^ wlHlog w.hd) → w.items + acc.length ≤ wlCap w.hd →
    s4.pushItems (eng (winsShape h) s4) (g.getS (scalNum h.a)) { w with hcnt := w.hcnt + acc.length } (acc.map Prod.snd) = .ok s5 w1 xs →
    exec (.wins h) s = .next (ran (winsShape h) s gid g h
      (((put s5 w1).modGroup gid fun g1 => g1.setFlags (g.parts h.guard) (clsNum h.d) fun l => (acc.lookup l).isSome).dropGot
        (eng (winsShape h) s3).op))) ∧
  (∀ w s2, Clear (wstatShape h) s gid g h → OnWorklist (wstatShape h) s gid g h w s2 →
    exec (.wstat h) s = .next (ran (wstatShape h) s gid g h (s2.modGroup gid fun g1 => g1.setS (scalNum h.d)
      (BitVec.ofNat 64 (match h.mods.toNat with | 0 => w.items | 1 => w.hcnt | 2 => w.spilled | _ => wlCap w.hd))))) ∧
  (let n := topkN g h
   let words (l : Nat) : List W32 := topkWords (topkK h) (topkBest h.ty (h.mods.getLsbD 3) (topkK h)
     ((List.range n).map fun i => (g.lane l).row (rowOf g h.a l + i)))
   Clear (topkShape h g) s gid g h → 1 ≤ n → n ≤ 256 →
    (∀ r part rsv, h.a = .row r part rsv → r.toNat + n ≤ g.nrows) →
    exec (.topk h) s = .next (ran (topkShape h g) s gid g h (whereLanes g h s (s.modGroup gid fun g1 => g1.modLanes (g.parts h.guard) fun l ln =>
      { ln.setRows (rowOf g h.d l) (words l) with
        poison := ln.poison.filter fun q => !decide (rowOf g h.d l ≤ q ∧ q < rowOf g h.d l + (words l).length) }))))

/-! ## System instructions -/

/-- 15_traps.md R456, R458, R478: sys and bkpt take their trap in the participating lanes, sys of a user group going on from the next
address and bkpt at its own; without participating lanes they pass; sret returns to TPC. -/
def Obligations.SystemTrapResults : Prop := ∀ (h : Head) (s : State) (gid : Nat) (g : Group),
  (let sh : Shape := { sysShape 0 h with b := fScalRaw, region := true }
   Clear sh s gid g h → NoTx g h →
    exec (.sys h) s = .next
      (if (g.parts h.guard).isEmpty then ran sh s gid g h s
       else if g.sup then trapAt s gid g cSys (sameVal (g.parts h.guard) (readRaw g h.b))
       else (ran sh s gid g h s).takeTrap gid
         { cause := cSys, lanes := sameVal (g.parts h.guard) (readRaw g h.b), tpc := g.pc + headLen h })) ∧
  (let sh : Shape := { sysShape 2 h with b := fImm, region := true }
   Clear sh s gid g h →
    exec (.bkpt h) s = .next
      (if (g.parts h.guard).isEmpty then ran sh s gid g h s
       else trapAt s gid g cBkpt (sameVal (g.parts h.guard) (readRaw g h.b)))) ∧
  (let sh : Shape := { sysShape 1 h with always := true, super := true }
   Clear sh s gid g h →
    (g.parts h.guard = [] → exec (.sret h) s = .next (ran sh s gid g h s)) ∧
    (g.parts h.guard ≠ [] → g.tpc.extractLsb' 0 2 = 0 →
      exec (.sret h) s = .next ((s.setGroup gid g.leaveTrap).modGroup gid fun g1 =>
        { g1 with readyAt := s.clock + max (stallCount h.stall) 1 })))

/-- 15_traps.md R468 to R471: sigchk has no effect in supervisor mode; in user mode a match resets SIG, a mismatch restarts an open region that
has restarts left and else traps with SIG and NESTERR; ireg opens a region at the next instruction. -/
def Obligations.SignatureResults : Prop := ∀ (h : Head) (s : State) (gid : Nat) (g : Group),
  (∀ imm, h.b = .imm imm →
    let sh : Shape := { sysShape 3 h with b := fImm, always := true, inactive := true }
    let g0 := g.checkNest
    Clear sh s gid g h →
      (g.sup = true → exec (.sigchk h) s = .next (ran sh s gid g h s)) ∧
      (g.sup = false → g0.sig.extractLsb' 0 19 = imm → g0.nesterr = false →
        exec (.sigchk h) s = .next (ran sh s gid g h (s.modGroup gid Group.resetSig))) ∧
      (g.sup = false → ¬ (g0.sig.extractLsb' 0 19 = imm ∧ g0.nesterr = false) →
        (g0.ractive = true → g0.rcnt.toNat < g0.rrlim.toNat → g0.busy = [] →
          exec (.sigchk h) s = .next
            ((s.setGroup gid (g0.dropLoaded.restart s.clock)).report (dieOf g.core) 14 (s.asidOf g) g.core (g.rentry.toNat % 2 ^ 52))) ∧
        (g0.ractive = false ∨ (g0.rrlim.toNat ≤ g0.rcnt.toNat ∧ g0.busy = []) →
          exec (.sigchk h) s = .next
            ((ran sh s gid g h (s.modGroup gid fun g1 => (if g0.ractive then g1.endRegion else g1).resetSig)).takeTrap gid
              { cause := cSig, lanes := sameVal g.wordLanes (sigTval g0), tpc := g.pc + headLen h })))) ∧
  (Completes (.ireg h) (fun _ => { sysShape 4 h with always := true }) h (fun _ _ _ => True) fun s gid g =>
    whereLanes g h s (s.modGroup gid (Group.openRegion h)))

/-- 15_traps.md R480: halt takes the masked events where there are any and else waits, and HALT_WAKE takes them and ends the wait. -/
def Obligations.HaltResults : Prop :=
  (∀ (h : Head) (s : State) (gid : Nat) (g : Group),
    let sh : Shape := { sysShape 5 h with d := fScal, always := true, super := true }
    Clear sh s gid g h →
      exec (.halt h) s = .next
        (if (g.parts h.guard).isEmpty then ran sh s gid g h s
         else if s.wakeEvents g.core ≠ 0 then ran sh s gid g h (s.takeEvents gid g.core (scalNum h.d))
         else waits sh gid g h (.halt (scalNum h.d)) s)) ∧
  (∀ (s : State) (gid : Nat) (g : Group) (dst : Nat), klookup s.groups gid = some g → g.wait = .halt dst →
    s.wakeEvents g.core ≠ 0 → s.groupHalted g = false →
    exec (.haltWake gid) s = .next ((s.takeEvents gid g.core dst).modGroup gid fun g1 => (g.land s.free heldOp g1).completeHeld s.clock))

/-- 15_traps.md R463, R479, R508: zget and zset of a supervisor group read and write the supervisor and control registers, those of lane scope
in every participating lane; reading FBPUT acquires. -/
def Obligations.SupervisorRegisterResults : Prop := ∀ h : Head,
  (Completes (.zget h) (fun _ => zgetShape h) h (fun _ _ _ => True) fun s gid g =>
    whereLanes g h s (match crOf h h.a with
      | none => s.modGroup gid fun g1 => g1.setS (scalNum h.d) (kget 0 g1.z (clsNum h.a))
      | some r =>
        if (ctlLane r).isSome then s.modGroup gid (inLanes (zgetShape h) g h fun l => (ctlLaneRead (g.lane l) r).toNat)
        else
          let s1 := s.modGroup gid fun g1 => g1.setS (scalNum h.d) (s.ctlRead g r)
          if r = .fbput then s1.acquireAt g.core else s1)) ∧
  (Completes (.zset h) (fun _ => zsetShape h) h (fun _ _ _ => True) fun s gid g =>
    let v (l : Nat) : W64 := readOp g (opndOf (zsetShape h).a) h.a l
    whereLanes g h s (match crOf h h.d with
      | none => s.modGroup gid fun g1 => { g1 with z := kset 0 g1.z (clsNum h.d) (v 0) }
      | some r =>
        if (ctlLane r).isSome then s.modGroup gid fun g1 => g1.modLanes (g.parts h.guard) fun l ln => ctlLaneWrite r (v l) ln
        else s.ctlWrite gid g r (v 0)))

/-- 16_tenancy.md R498, R499: caps reads or searches the capability list; pmc reads a counter in supervisor mode, and in user mode one whose
control register has USER and FILT set and names the group's own tenant. -/
def Obligations.CapabilityResults : Prop := ∀ h : Head,
  (Completes (.caps h) (fun _ => capsShape 0 h) h (fun _ _ _ => True) fun s gid g =>
    whereLanes g h s (s.modGroup gid fun g1 => g1.setS (scalNum h.d)
      (if h.mods.getLsbD 0 then capsFind ((readNum g h.a).extractLsb' 0 16).toNat else capsWord (readNum g h.a).toNat))) ∧
  (let ctr (s : State) (g : Group) : Counter :=
     s.counterAt (if h.mods.getLsbD 0 then hubCtr (hubOf (dieOf g.core)) (readNum g h.a).toNat else coreCtr g.core (readNum g h.a).toNat)
   Completes (.pmc h) (fun _ => pmcShape h) h
    (fun s _ g => (readNum g h.a).toNat < pmcCount h ∧
      (g.sup = true ∨ (ctr s g).ctl.getLsbD 1 = true ∧ (ctr s g).ctl.getLsbD 2 = true ∧
        (ctr s g).ctl.extractLsb' 48 16 = BitVec.ofNat 16 (s.asidOf g)))
    fun s gid g => whereLanes g h s (s.modGroup gid fun g1 => g1.setS (scalNum h.d) ((ctr s g).cnt.setWidth 64)))

/-! ## Translations, parked accesses, ownership, memory events -/

/-- 08_memory.md R256, R280, R284 to R286: tlbi drops its entries and its cached table addresses at issue and its token follows once nothing that used them is outstanding; replay
issues the die's parked accesses again and writes how many entries it cleared; ownset of regions of the table queues their transfer, which
OWNSET_COMPLETE performs in ascending order. -/
def Obligations.TranslationResults : Prop :=
  (∀ h : Head, Completes (.tlbi h) (fun _ => tlbiShape h) h (fun _ _ _ => True) fun s gid g =>
    let p := tlbiDrops h (readNum g h.a) (readRaw g h.b)
    whereLanes g h s (({ s with mem := { s.mem with
        tlb := s.mem.tlb.filter fun e => !p e, ghosts := s.mem.ghosts.filter fun e => !p e
        walks := s.mem.walks.filter fun w => !tlbiWalks h (readNum g h.a) (readRaw g h.b) w } } : State).postToken gid
      (.tlbi gid (scalNum h.d) ((s.mem.tlb ++ s.mem.ghosts).filter p)) h.d)) ∧
  (∀ (s : State) (op gid dst : Nat) (drops : List TlbEntry), klookup s.ops op = some (.tlbi gid dst drops) →
    (s.groups.any fun e => s.groupUses op drops e.2) = false → (s.ops.any fun e => decide (e.1 < op) && s.opUses e.1 drops e.2) = false →
    exec (.tlbiComplete op) s = .next ((s.writeToken gid op dst 1).delOp op)) ∧
  (∀ h : Head, Completes (.replay h)
    (fun _ => { major := 0xF4, minor := 1, tyOk := h.ty == .b32, modsOk := h.mods == 0, d := fScal, super := true, access := true }) h
    (fun _ _ _ => True) fun s gid g =>
    whereLanes g h s ((s.replayDie (dieOf g.core)).modGroup gid fun g1 => g1.setS (scalNum h.d)
      (BitVec.ofNat 64 (s.mem.pfe.filter fun f => f.die == dieOf g.core).length))) ∧
  (∀ h : Head, Completes (.ownset h) (fun _ => ownsetShape h) h
    (fun s _ g => 1 ≤ (readNum g h.b).toNat ∧ (readNum g h.b).toNat ≤ 512 ∧ (readNum g h.a).toNat % 2 ^ 21 = 0 ∧
      ∀ k < (readNum g h.b).toNat, s.hasRegion ((readNum g h.a).toNat + k * 2 ^ 21) = true) fun s gid g =>
    whereLanes g h s (s.postToken gid
      (.ownset gid (scalNum h.d) (regionOf (readNum g h.a).toNat) (readNum g h.b).toNat (h.mods.extractLsb' 0 2).toNat (h.mods.getLsbD 2)) h.d)) ∧
  (∀ (s : State) (op gid dst first count own : Nat) (ver : Bool), klookup s.ops op = some (.ownset gid dst first count own ver) →
    let asid := match klookup s.groups gid with | some g => s.asidOf g | none => 0
    exec (.ownsetComplete op) s =
      .next ((((List.range count).map (first + ·)).foldl (fun t r => t.ownRegion own ver asid r) s).writeToken gid op dst 1 |>.delOp op)) ∧
  (∀ (s : State) (core asid : Nat) (va : W64) (e : TlbEntry) (gid : Nat) (g : Group), klookup s.groups gid = some g → g.core = core →
    s.asidOf g = asid → va.toNat < 2 ^ 54 → s.find (.core core) asid va.toNat = .entry e true →
    s.peekWaits (.core core) asid va.toNat .read = false →
    exec (.pageWalk core asid va) s = .next (((s.walkTouch (dieOf core) asid va.toNat).countCore core 0x10 asid).installTlb (.core core) e)) ∧
  (∀ (s : State) (region asid : Nat), s.transferFor region = some asid → s.needsTransfer true (region * 2 ^ 21) = true →
    (∀ e ∈ s.hosts, e.2.waitRd.isSome = true → e.2.inRegion region = false) →
    exec (.ownershipTransfer region) s = .next (s.transfer region asid))

/-- 08_memory.md R273, R278, 17_programs_rows.md R500, R501, 15_traps.md R473: a waiting request enters its slice's queue where an entry is free and no
earlier request of its core waits for the slice, with the clocks that it waited counted for its tenant (16_tenancy.md R496), a slice fills a sector that
a queued request of a load names, parity recovery logs a corrected word and poisons one that cannot be recovered, and a CXL extent is offered, asked
for or released; that an offer adds the extent at once, and that its events set EXTENT on every die, is the model's choice (log 35). -/
def Obligations.MemoryEventResults : Prop := ∀ s : State,
  (∀ (k : Nat) (r : L2Req), klookup s.mem.l2q k = some r → r.waiting = true → s.sliceFull (r.sector * 256) = false →
    s.mem.l2q.any (r.behind k) = false →
    let s1 := s.countHub (homeHub (r.sector * 256)) 0x22 (some r.asid) (s.hubClock - r.since)
    exec (.l2RequestDeferred k) s = .next { s1 with mem := { s1.mem with l2q := kput s.mem.l2q k { r with waiting := false } } }) ∧
  (∀ (sector slot gid : Nat) (g : Group), s.fillFor sector slot = some gid → klookup s.groups gid = some g →
    exec (.l2Fill sector slot) s = .next (s.fillSector sector slot (s.asidOf g))) ∧
  (∀ p : ParityFault, p.words.length = 64 → p.parity.length = 64 → p.index < 64 → wordFails p p.index = true →
    exec (.parityRecovery p) s = .next
      (if wordRecovers p then s.report p.unit (parityChan p.array) p.asid p.src p.addr
       else (s.poisonAt p).report p.unit (parityChan p.array + 1) p.asid p.src p.addr)) ∧
  (∀ base size, s.extentFits base size = true →
    exec (.cxlExtentEvent (.offer base size)) s =
      .next (({ s with mem := { s.mem with extents := s.mem.extents ++ [{ base := base, size := size, st := 0 }] } } : State).allDies 4)) ∧
  (∀ e ∈ s.mem.extents, e.st = 0 → exec (.cxlExtentEvent (.releaseReq e.base)) s = .next ((s.setExtent e.base 0 1).allDies 4)) ∧
  (∀ base, exec (.cxlExtentEvent (.release base)) s = .next (s.setExtent base 1 2))

/-! ## Fabric -/

/-- 13_engines.md R416, R419, R422 to R429: a packet whose access nothing holds back is taken; on a link that carries flits a flit with a wrong CRC
asks for a replay, one with an unexpected SEQ too, and the next one in sequence is accepted and completes its packet; a link that loses a lane
retrains onto its healthy half or fails, and returns with its target lanes; a plane's report takes back what it no longer reaches; a switch adds the contributions of a chunk in their order of arrival, delivers a chunk that has them all, and
delivers a broadcast, each to the members; the sender's piece is acknowledged. -/
def Obligations.FabricResults : Prop :=
  (∀ (s : State) (p : Packet), s.packetHeld p = false → exec (.packetReceive p) s = .next (s.receive p)) ∧
  (∀ (s : State) (k : Nat) (r : RawFlit), linkUp (s.link k) = true →
    (flitRead r = none → exec (.flitReceive k r) s = .next (s.setLink k { (s.link k).addControl with
      crcerr := if (s.link k).crcerr = 255 then 255 else (s.link k).crcerr + 1 })) ∧
    (∀ f, flitRead r = some f →
      let y := (s.link k).heard f
      (f.body = .idle → exec (.flitReceive k r) s = .next (s.setLink k y)) ∧
      (f.body = .control → f.av = true → exec (.flitReceive k r) s = .next ((s.setLink k y).replayLink k)) ∧
      ((f.body ≠ .idle ∧ f.body ≠ .control) → f.seq ≠ (s.link k).rxNext → exec (.flitReceive k r) s = .next (s.setLink k y.addControl)) ∧
      ((f.body ≠ .idle ∧ f.body ≠ .control) → f.seq = (s.link k).rxNext →
        ((y.accept f).2 = none → exec (.flitReceive k r) s = .next (s.setLink k (y.accept f).1)) ∧
        (∀ p, (y.accept f).2 = some p → s.packetHeld p = false →
          exec (.flitReceive k r) s = .next ((s.setLink k (y.accept f).1).receive p))))) ∧
  (∀ (s : State) (k lane : Nat), k < 18 → lane < 16 →
    let x : Link := { s.link k with lanebad := (s.link k).lanebad ||| BitVec.ofNat 16 (2 ^ lane) }
    (x.state = 2 → exec (.linkLaneLoss k lane) s =
      .next ((s.setLink k x).setLink k { x with state := 1, wasUp := true, target := halfState lane })) ∧
    (x.state = 1 → x.target = 2 → exec (.linkLaneLoss k lane) s = .next ((s.setLink k x).setLink k { x with target := halfState lane })) ∧
    (x.state = 3 ∨ x.state = 4 → exec (.linkLaneLoss k lane) s =
      .next (if (x.state = 3 ∧ lane < 8) ∨ (x.state = 4 ∧ 8 ≤ lane) then (s.setLink k x).failLink k else s.setLink k x))) ∧
  (∀ (s : State) (k : Nat) (far : BitVec 12), (s.link k).state = 1 →
    exec (.linkRetrainComplete k false far) s = .next (s.failLink k) ∧
    (let x := s.link k
     let s1 := (s.setLink k { x.acknowledge far with state := x.target, wasUp := false, held := [] }).replayLink k
     let z := (s1.link k).addControl
     exec (.linkRetrainComplete k true far) s = .next (s1.setLink k { z with outQ := z.outQ ++ x.held.flatMap flitsOf }))) ∧
  (∀ (s : State) (k : Nat) (down : List Nat), linkUp (s.link k) = true → (s.nodeOn = true → k < 15) →
    ∃ lost : List Outstanding, lost.Sublist s.net.outs ∧ (∀ o ∈ lost, o.via = k ∧ o.dst ∈ down) ∧
    (let s1 : State := { s with net := { s.net with down := kset [] s.net.down k down } }
     let q := (s1.link k).pull down
     exec (.planePortReport k down) s = .next (q.2.foldl (fun t p => t.reroute p)
       (lost.foldl (fun t o => t.settleOut o stRemote []) (s1.setLink k q.1))))) ∧
  (∀ (s : State) (plane : Nat) (g : McGroup),
  (∀ p : Packet, klookup s.net.groups p.group = some g → p.op = .contribution → p.data.length = p.len → g.pmask.getLsbD plane = true →
    let same (c : McChunk) : Bool := c.plane == plane && c.group == p.group && c.off == p.addr && c.len == p.len
      && decide (c.count < g.members.length)
    let put (k : Nat) (c : McChunk) : State := ({ s with net := { s.net with chunks := kput s.net.chunks k c } } : State).ackPiece p
    ((∀ e ∈ s.net.chunks, same e.2 = false) → exec (.switchContribution plane p) s = .next (put (nextKey s.net.chunks)
      { plane := plane, group := p.group, off := p.addr, len := p.len, sums := chunkElems g.elt p.data, count := 1, key := p.key })) ∧
    (∀ e, s.net.chunks.find? (fun e => same e.2) = some e → exec (.switchContribution plane p) s = .next (put e.1
      { e.2 with sums := List.zipWith switchAdd e.2.sums (chunkElems g.elt p.data), count := e.2.count + 1 }))) ∧
  (∀ (k : Nat) (c : McChunk), klookup s.net.chunks k = some c → klookup s.net.groups c.group = some g → c.plane = plane →
    g.members.length ≤ c.count → s.deliverHeld g c.off c.len = false →
    exec (.switchChunkDeliver plane k) s = .next
      (({ s with net := { s.net with chunks := kerase s.net.chunks k } } : State).deliverTo g c.off c.key (chunkBytes g.elt c.sums))) ∧
  (∀ p : Packet, klookup s.net.groups p.group = some g → p.op = .broadcast → p.data.length = p.len → g.pmask.getLsbD plane = true →
    s.deliverHeld g p.addr p.len = false →
    exec (.switchBroadcastDeliver plane p) s = .next ((s.deliverTo g p.addr p.key p.data).ackPiece p)))

/-! ## The pool, dispatch and pre-emption -/

/-- 14_time.md R436, R438, R442, R444, R445, R483, 03_lanes.md R74, 15_traps.md R461: the doorbell submits the mailbox's record; the first task in order
that fits is placed on a pair that needs no scrub; a pair that is to be scrubbed and holds no tenant's team is; a waiting task ages; a team whose
work is complete retires, a faulted or discarded one once it has settled; a ready host task is posted, and HTDONE finishes it. The record address 0 of
a mailbox task, and a scrub beside teams of ASID 0 that leaves storage alone, are the model's choices (logs 44 and 53). -/
def Obligations.PoolResults : Prop :=
  (∀ (s : State) (s1 : State) (code id : Nat), s.pool.mbstat.getLsbD 8 = false → s.trapsWait = false →
    s.submit .mailbox none 0 (kgetRun 0 s.pool.mbrec 0 128) = (s1, code, id) →
    exec (.mailboxDoorbell 1) s = .next { s1 with pool := { s1.pool with
      mbstat := BitVec.ofNat 64 ((if code = 0 then id else (s.pool.mbstat.extractLsb' 32 32).toNat) * 2 ^ 32 + code) } }) ∧
  (∀ (s : State) (task : Nat) (k : Task) (cores : List Nat), klookup s.pool.tasks task = some k → s.mayPlace task = some cores →
    s.poolWaits (s.dispatchRuns k) false = false →
    let s0 := s.poolReads (s.dispatchRuns k)
    (∀ c ∈ cores, pairOf c ∉ s0.pool.scrubs ∧ ∀ a, klookup s0.pool.pairAsid (pairOf c) = some a → a = k.record.asid) →
    let s1 := (k.nextSlots.zip cores).foldl (fun t e => t.placeTeam task k e.1 e.2) s0
    exec (.dispatchPlace task) s =
      .next { s1 with pool := { s1.pool with tasks := kmap s1.pool.tasks task fun k => { k with since := s.clock } } }) ∧
  (∀ (s : State) (pair : Nat), pair ∈ s.pool.scrubs → (∀ e ∈ s.teams, pairOf e.2.core = pair → e.2.asid = 0) →
    exec (.pairScrub pair) s = .next { s with
      pool := { s.pool with scrubs := s.pool.scrubs.filter (fun p => p != pair), pairAsid := kerase s.pool.pairAsid pair }
      mem := { s.mem with
        fcache := s.mem.fcache.filter fun x => pairOf x.core != pair
        l1 := s.mem.l1.filter fun x => pairOf x.core != pair
        atom := s.mem.atom.map fun e => if e.2.owner.any (fun c => pairOf c == pair) then (e.1, { e.2 with owner := none }) else e
        tlb := s.mem.tlb.filter fun x => !(x.l1 && pairOf x.unit == pair) || pteG x.pte } }) ∧
  (∀ (s : State) (task : Nat) (k : Task), klookup s.pool.tasks task = some k → k.waits = true → 2 ≤ k.level →
    k.since + s.usClocks (s.pkg.pquant.extractLsb' 32 32).toNat ≤ s.clock →
    exec (.agingStep task) s = .next { s with pool := { s.pool with
      seq := s.pool.seq + 1
      tasks := kput s.pool.tasks task { k with level := k.level - 1, order := s.pool.seq + 1, since := s.clock } } }) ∧
  (∀ (s : State) (team : Nat) (t : Team), klookup s.teams team = some t →
    (t.faulted = false → t.discard = false → (∀ e ∈ s.teamGroups team, e.2.ended = true) → s.quiet team = true → s.teamOps team = [] →
      exec (.teamRetire team) s = .next
        (((((s.removeTeam team).leavePair t.core t.asid).putSlotOf t.task t.teamid .dead).ckLeft team none).endTask t.task)) ∧
    (t.faulted = true ∨ t.discard = true →
      let s1 := (s.haltTeam team).stopDrains team
      let s2 := (s1.removeTeam team).leavePair t.core t.asid
      s1.settled team = true →
      exec (.teamRetire team) s = .next
        ((((if t.faulted then s2.putSlotOf t.task t.teamid .dead else s2.returnSlot t.task t.teamid .unplaced).ckLeft team none).noteReady).endTask
          t.task))) ∧
  (∀ (s : State) (task : Nat) (k : Task), klookup s.pool.tasks task = some k → k.record.host = true → k.order ≠ 0 → k.posted = false →
    let n := 2 ^ (s.pkg.htq.extractLsb' 0 4).toNat
    let put : BitVec 32 := s.pkg.htqptr.extractLsb' 0 32
    let get : BitVec 32 := s.pkg.htqptr.extractLsb' 32 32
    let pa := (s.pkg.htq.extractLsb' 12 40).toNat * 2 ^ 12 + 16 * (put.toNat % n)
    (put - get).toNat < n → s.poolWaits [(pa, 16)] true = false →
    let s1 := s.writeRun poolAgent 0 pa (leBytes 8 (task % 2 ^ 32) ++ leBytes 8 k.recAddr)
    exec (.hostTaskPost task) s = .next { s1 with
      pkg := { s1.pkg with htqptr := (get ++ (put + 1) : BitVec 64) }
      pool := { s1.pool with irq40 := true, tasks := kput s1.pool.tasks task { k with posted := true } } }) ∧
  (∀ (s : State) (value : W64) (k : Task), klookup s.pool.tasks (value.extractLsb' 0 32).toNat = some k → k.record.host = true → k.posted = true →
    exec (.htdone value) s = .next (s.finishTask (value.extractLsb' 0 32).toNat))

/-- 14_time.md R448 to R453: the dispatcher asks the fewest victims for a ready task that cannot be placed; PRMT.GO asks the teams it names; the groups
of a team that is asked halt; the image of a halted team whose work has ended is written and the team returns to the pool; CKCTL begins a
checkpoint or a restore. -/
def Obligations.PreemptResults : Prop :=
  (∀ (s s1 : State) (task : Nat) (k : Task) (gone : List Nat), klookup s.pool.tasks task = some k → k.waits = true →
    s.placesFor task k = none → s.barred task k = false → s.heapSize ≠ 0 → (∀ i ∈ k.nextSlots, s.badImage (k.slots.getD i .dead) = false) →
    s.enoughVictims k [] (s.victims k.level) = some gone → s.askTeams gone = some s1 →
    exec (.dispatcherPreempt task) s = .next s1) ∧
  (∀ (s s1 : State) (value : W64), value.getLsbD 63 = true → s.heapSize ≠ 0 →
    ({ s with pkg := { s.pkg with prmt := (value &&& 0x1FFFF) ||| (s.pkg.prmt &&& 0x4000000000000000) } } : State).askTeams
      (s.teamsWhere fun t => value.getLsbD 16 || t.asid == (value.extractLsb' 0 16).toNat) = some s1 →
    exec (.prmtGo value) s = .next { s1 with pkg := { s1.pkg with prmt := value &&& 0x1FFFF } }) ∧
  (∀ (s : State) (team : Nat) (t : Team), klookup s.teams team = some t → t.asked.isSome = true ∨ t.discard = true ∨ t.faulted = true →
    exec (.preemptHalt team) s = .next (s.haltTeam team)) ∧
  (∀ (s : State) (team addr bound : Nat) (t : Team), klookup s.teams team = some t → t.asked = some (addr, bound) → t.halted = true →
    t.faulted = false → t.discard = false → (s.stopDrains team).settled team = true →
    let s1 := s.stopDrains team
    let im := s1.imageOf team t addr bound
    s1.poolWaits [(addr, im.len)] true = false →
    let s2 := ((s1.removeTeam team).leavePair t.core t.asid).writeRun poolAgent 0 addr (imageBytes im)
    exec (.imageWrite team) s =
      .next (((({ s2 with pkg := { s2.pkg with ckgen := BitVec.ofNat 64 im.gen } } : State).returnTeam im).ckLeft team (some im.gen)).endTask t.task)) ∧
  (∀ (s : State) (value : W64), s.pkg.ckctl.getLsbD 2 = false →
    let s1 : State := { s with pkg := { s.pkg with ckctl := (value &&& 0x000FFFFFFFFFF000) ||| (s.pkg.ckctl &&& 0xF4)
      ||| (if value.getLsbD 3 then 0 else s.pkg.ckctl &&& 8) } }
    let man := (value.extractLsb' 12 40).toNat * 2 ^ 12
    (value.extractLsb' 0 2 = 1 → exec (.ckctlCheckpoint value) s = .next (s1.beginCheckpoint man)) ∧
    (value.extractLsb' 0 2 = 2 → exec (.ckctlRestore value) s = .next (s1.beginRestore man)))

/-! ## Keys, the alarm, error logs -/

/-- 16_tenancy.md R490, R491: a key command on a slot other than 0 makes Xaush busy while it is not, and KCMD_COMPLETE flushes the slot's pages and
gives it its new state, LOAD with the keys of a blob that unwraps, or sets ERR; KPROV is set by a 1 outside an erase. -/
def Obligations.KeyResults : Prop := ∀ s : State,
  (s.xa.kbusy = none → kargSlot s.xa.karg ≠ 0 →
    let busy (k : KOp) : State := { s with xa := { s.xa with kerr := false, kbusy := some (k, s.xa.karg) } }
    exec .kcmdClear s = .next (busy .clear) ∧ exec .kcmdPlain s = .next (busy .plain) ∧
    (∀ v : W64, s.xa.erased = false → v.extractLsb' 52 12 = 0 →
      exec (.kcmdLoad v) s = .next (busy (.load ((v.extractLsb' 12 40).toNat * 2 ^ 12))))) ∧
  (∀ arg, let slot := kargSlot arg
    let s1 := (s.flushSlot slot).poolReads (match s.xa.kbusy with | some (k, _) => blobRun k | none => [])
    (s.xa.kbusy = some (.clear, arg) → exec .kcmdComplete s = .next (s1.endKcmd slot {})) ∧
    (s.xa.kbusy = some (.plain, arg) →
      exec .kcmdComplete s = .next (s1.endKcmd slot { kind := 1, owner := arg.extractLsb' 16 16, shared := arg.getLsbD 32 })) ∧
    (∀ blob, s.xa.kbusy = some (.load blob, arg) → s.poolWaits [(blob, 72)] false = false → s1.xa.erased = false → exec .kcmdComplete s = .next
      (match unwrapKey Config.provisioningKey (s1.homeBytes blob 72) with
       | some (d, a) =>
         let n := s1.keyNumber (a ++ d : BitVec 512)
         ({ s1 with xa := { s1.xa with keys := kput s1.xa.keys n (a ++ d : BitVec 512) } } : State).endKcmd slot
           { kind := 2, owner := arg.extractLsb' 16 16, shared := arg.getLsbD 32, key := n, dkey := d, akey := a }
       | none => { s1 with xa := { s1.xa with kbusy := none, kerr := true } }))) ∧
  (∀ v : W64, exec (.kprovWrite v) s = .next
    (if v.getLsbD 0 = true ∧ s.xa.kbusy = none ∧ s.xa.erased = false then { s with xa := { s.xa with kprov := true } } else s))

/-- 16_tenancy.md R492 to R494, 15_traps.md R475, R476: glitches and debug accesses under the lock raise their alarm sources; the actions are taken in
order, containment of one tenant or of all and the erase; ALMREL lets a tenant go; ALMCFG is written, each level only rising under LOCK; and the arbiter
of an error log takes its pending channels in ascending order and sets ELOG of its dies. -/
def Obligations.AlarmResults : Prop := ∀ s : State,
  (∀ voltage, exec (.glitchDetect voltage) s = .next (s.alarm (if voltage then 2 else 1) none)) ∧
  (s.plat.debugLock = true → exec .debugIntrusion s = .next (s.alarm 3 none)) ∧
  (∀ e rest, s.xa.queue = (1, e) :: rest → s.xa.erased = false → (∀ x ∈ rest, x.1 ≠ 2) → e.asid ≠ some 0 →
    exec .alarmContain s = .next (({ s with xa := { s.xa with queue := rest } } : State).contain e.asid)) ∧
  (∀ e rest, s.xa.queue = (2, e) :: rest → exec .alarmErase s = .next ({ s with xa := { s.xa with queue := rest } } : State).erase) ∧
  (∀ v : W64, exec (.almrel v) s = .next (s.releaseTenant (v.extractLsb' 0 16).toNat)) ∧
  (∀ v : W64, exec (.almcfgWrite v) s = .next { s with xa := { s.xa with
    lvl := if s.xa.lock then BitVec.ofNat 12 (((List.range 6).map fun k => max (lvlField s.xa.lvl k) (lvlField (v.extractLsb' 0 12) k) * 4 ^ k).sum)
      else v.extractLsb' 0 12
    lock := s.xa.lock || v.getLsbD 63 } }) ∧
  (∀ unit, unit < 6 → (kget {} s.logs unit).pend ≠ [] →
    let x := kget {} s.logs unit
    let x1 := x.pend.foldl (fun x e => x.take e.1 e.2) x
    let s1 : State := { s with logs := kput s.logs unit x1 }
    exec (.errorLogArbitrate unit) s = .next (if x1.put = x.put then s1 else (logDies unit).foldl (fun t d => t.setEvent d 2) s1))

/-! ## The package -/

/-- 01_package.md R18 to R26: a stage whose image verifies is measured (the first with its ILSIZE field, 08_memory.md R254) and runs, one whose image
does not is logged and holds the dies in reset; the fourth releases the cores; the clock steps by 100 MHz; a trip is logged; and the sideband reads sensors,
sets a power limit and reads the event log. The model's choices: event 0x25 on both hubs at a step down and on none at a step up (log 34), the event
log's sources 16 and 32 + stage (log 57), and what the reset of the dies takes (log 32). -/
def Obligations.PlatformResults : Prop := ∀ s : State,
  exec .coldReset s = .next s.coldReset ∧
  (∀ img : BootImage, s.xa.stage < 3 →
    let ok : State := ({ s with xa := { s.xa with
      stage := s.xa.stage + 1, held := false
      meas := kset 0 s.xa.meas s.xa.stage (Config.sha384Extend (kget 0 s.xa.meas s.xa.stage) (measuredBytes img s.xa.stage)) } } : State).runStage img
    let bad : State := { (s.xlog (32 + s.xa.stage + 1)).resetDies with xa := { (s.xlog (32 + s.xa.stage + 1)).xa with held := true } }
    let t := if Config.signatureOk (measuredBytes img s.xa.stage) img.signature then ok else bad
    (s.xa.held = false → exec (.bootStage img) s = .next t) ∧ exec (.mailboxImage img) s = .next t) ∧
  (∀ img : BootImage, s.xa.held = false → s.xa.stage = 3 → exec (.bootStage img) s = .next { s with xa := { s.xa with stage := 4 } }) ∧
  (1300 ≤ s.plat.mhz → exec .clockStepDown s = .next
    (({ s with plat := { s.plat with mhz := s.plat.mhz - 100, limited := true } } : State).countHub 0 0x25 none |>.countHub 1 0x25 none)) ∧
  (s.plat.mhz < 1800 → exec .clockStepUp s = .next
    { s with plat := { s.plat with mhz := s.plat.mhz + 100, limited := decide (s.plat.mhz + 100 < 1800) } }) ∧
  exec .thermalTrip s = .next { s.xlog 16 with plat := { s.plat with tripped := true } } ∧
  (∃ t p : Nat, exec .mctpReadSensors s = .next { s with plat := { s.plat with temp := t, power := p, mctp := s.plat.mctp ++ [[t, p]] } }) ∧
  (∀ w, w < 2400 → exec (.mctpSetPowerLimit w) s = .next { s with plat := { s.plat with limit := w } }) ∧
  exec .mctpReadEventLog s = .next { s with plat := { s.plat with mctp := s.plat.mctp ++ [s.xa.log.flatMap eventWords] } }

/-- 00_scope.md R5, 14_time.md R438, R454, 15_traps.md R465, 03_lanes.md R55, 09_order.md R312, 10_transactions.md R336 to R341: a host event sets HOSTREQ; registers are
written from outside by their addresses; results that are due are written; and an access of the host side that nothing holds back is performed, after its
core's earlier stores where R312 orders it so, and in its core's open transaction where it has one. -/
def Obligations.OutsideResults : Prop := ∀ s : State,
  (∀ die, die < 4 → exec (.hostEventRequest die) s = .next (s.setEvent die 5)) ∧
  (∀ (addr : Nat) (v : W64), exec (.registerWrite addr v) s = .next
    (if 2 ^ 52 ≤ addr then s.mailboxWrite (addr - 2 ^ 52) v
     else if isDevReg addr = true ∧ addr % 8 = 0 then s.setDevWord (offsetOf addr) v
     else if addr = 0x87 then s.modPkg fun x => { x with htq := v &&& 0x000FFFFFFFFFF00F }
     else if addr = 0x88 then s.modPkg fun x => { x with htqptr := htqptrAfter x.htqptr v }
     else s)) ∧
  (∀ gid, exec (.fixedLatencyResultWrite gid) s = .next (s.modGroup gid fun g =>
    { g with pend := g.pend.filter fun (p : Pend) => decide (s.clock < p.due) })) ∧
  (∀ a : HostAccess, hostAccessOk a = true →
    ((∀ n, a.agent ≠ .host n) → s.hostHeld .outside a = false → s.hostMac a = false → exec (.hostAccess a) s = .next (s.hostPlain a)) ∧
    (∀ n, a.agent = .host n → (s.host n).waitRd = none →
      ((s.host n).txOpen = false →
        let s1 := if s.hostDrains a n then s.drainHostAll n else s
        (s.hostDrains a n = true → (s1.host n).stq = []) →
        (match a.kind with | .fence _ _ _ _ | .store => True | _ => s1.hostHeld (.host n) a = false ∧ s1.hostMac a = false) →
        exec (.hostAccess a) s = .next (s1.hostPlain a)) ∧
      ((s.host n).txOpen = true → a.kind = .load ∨ a.kind = .store → isDevReg a.pa = false →
        s.lockExcludes (.host n) a.pa (hostWrites a) = false → s.hostHeld (.host n) a = false → s.hostMac a = false →
        exec (.hostAccess a) s = .next (s.hostInTx a n))))

/-! ## A step and its fetch -/

/-- 03_lanes.md R78, R79: a quarter's turn runs the instruction that the chosen group's words decode to, and then counts its issue; a host core's
turn runs the Xovmtx instruction that it fetches at its pc; an event that may happen (01_package.md R20, R23, R24) runs. A fault or a refusal passes
through. -/
def Obligations.StepRunsDecodedInstruction : Prop :=
  (∀ (s s0 s2 : State) (core q t gid : Nat) (g : Group) (ws : List W32) (i : Instr) (r : List Byte),
    s.nextTurn = (.quarter core q, s0) → s0.stopped = false → s0.pick core q = some (t, gid, g) →
    ((s0.advanceTo t).actAs (.group gid)).fetchGroup gid g = .ok s2 ws → decodeBytes (wordBytes ws) = some (i, r) →
    let others := ((s0.quarterGroups g.core g.quarter).filter fun e => e.1 != gid && decide (e.2.readyAt ≤ t)).map Prod.fst
    step s = (match exec i s2 with
      | .next s3 => .next (s3.afterIssue gid g i t others)
      | .fault f => .fault f
      | .refused r => .refused r)) ∧
  (∀ (s s0 s2 : State) (n : Nat) (w : W32) (i : Instr), s.nextTurn = (.host n, s0) → s0.stopped = false → (s0.host n).running = true →
    (s0.host n).waitRd = none →
    let s1 := (s0.advanceTo (s0.clock + 1)).actAs (.host n)
    let pa := (s0.host n).pc.toNat
    hostWindow pa = false ∨ isDevReg pa = true ∨ s1.hasStorage pa = false ∨ s1.look (sectorOf pa) 0 ≠ .mac →
    s1.hostFetch n = some (s2, w) → decodeHost w = some i → step s = exec i s2) ∧
  (∀ (s s0 : State) (i : Instr), s.nextTurn = (.event i, s0) → isEvent i = true → s0.plat.tripped = false ∨ afterTrip i = true →
    s0.xa.held = false ∨ whileHeld i = true → s0.agentUp i = true → step s = exec i (s0.actAs .idle))

/-- 02_code.md R29, R33: the words that a group fetches, unchanged since it became resident, through translations that it holds with A set and from
sectors that L2 serves and no core owns, are the bytes at its pc, three of them or with a parameter block seven, and fetching them leaves memory as it
was; whatever is fetched is an instruction. -/
def Obligations.FetchReadsCode : Prop :=
  (∀ (s : State) (gid : Nat) (g : Group) (pa slot : Nat → Nat), klookup s.groups gid = some g → g.far = [] → g.fetched = [] →
    let w (k : Nat) : W32 := BitVec.ofNat 32 (leNat (s.homeBytes (pa k) 4))
    ((∀ k, k < 3 → CodeHeld s gid g (g.pc.toNat + 4 * k) (pa k) (slot k)) → (w 1).getLsbD 31 = false →
      ∃ t, s.fetchGroup gid g = .ok t [w 0, w 1, w 2] ∧ t.mem = s.mem) ∧
    ((∀ k, k < 7 → CodeHeld s gid g (g.pc.toNat + 4 * k) (pa k) (slot k)) → (w 1).getLsbD 31 = true →
      ∃ t, s.fetchGroup gid g = .ok t [w 0, w 1, w 2, w 3, w 4, w 5, w 6] ∧ t.mem = s.mem)) ∧
  (∀ (s t : State) (gid : Nat) (g : Group) (ws : List W32), s.fetchGroup gid g = .ok t ws →
    ∃ i, decodeBytes (wordBytes ws) = some (i, []) ∧ (deviceParts i).isSome = true)

/-- 02_code.md R31, 16_tenancy.md R485, R488, 15_traps.md R474, 08_memory.md R267: where the page of the word at the pc may not be executed, the
fetch raises ACCESS in the word's lanes, with the address as TPC and TVAL, after its walk has read its entries; with a key slot of another tenant it
is reported to the alarm besides; a sector whose MAC fails raises SECURITY, a poisoned one POISON; and where the pages of the word and of the two
after it are not resident the group parks with the fault of each. -/
def Obligations.FetchTraps : Prop := ∀ (s s0 : State) (core q t gid : Nat) (g : Group),
  s.nextTurn = (.quarter core q, s0) → s0.stopped = false → s0.pick core q = some (t, gid, g) → klookup s0.groups gid = some g → NoneDue g →
  g.fetched = [] →
  let s1 := (s0.advanceTo t).actAs (.group gid)
  let asid := s1.asidOf g
  let s2 := s1.touchWalk (.core g.core) asid g.pc.toNat
  let lanes := sameVal g.wordLanes g.pc
  (∀ k, k < 3 → s1.peekWaits (.core g.core) asid (g.pc.toNat + 4 * k) .fetch = false) →
  (s1.codeLook g g.pc.toNat = .deny → step s = .next (trapAt s2 gid g cAccess lanes)) ∧
  (s1.codeLook g g.pc.toNat = .key → step s = .next (trapAt (s2.alarm 4 (some asid)) gid g cAccess lanes)) ∧
  (∀ sec slot, s1.codeLook g g.pc.toNat = .mac sec slot → step s = .next (trapAt (s2.fillSector sec slot asid) gid g cSecurity lanes)) ∧
  (s1.codeLook g g.pc.toNat = .poison → g.ractive = false →
    step s = .next (trapAt (s2.modGroup gid fun g => { g with poisPend := [] }) gid g cPoison lanes)) ∧
  (∀ l b n : Nat → Nat, (∀ k, k < 3 → s1.codeLook g (g.pc.toNat + 4 * k) = .miss (l k) (b k) (n k)) → step s = .next
    (((List.range 3).foldl (fun s k => (s.touchWalk (.core g.core) asid (g.pc.toNat + 4 * k)).parkFault (dieOf g.core) asid g.core 3 (l k) (b k) (n k))
      s1).modGroup gid fun g => { g with wait := .parked }))

/-- No step stops with a fault, from any state whatever, and none is refused but for a RISC-V word of a host core outside Xovmtx, which the opening
of 00_scope.md leaves to the RISC-V specifications. -/
def Obligations.EveryStepIsSafe : Prop := ∀ s : State, Safe s ∧ RefusesOnlyRiscv s

/-- 01_package.md R20: a thermal trip is logged and drives its output (`tripped`), and until the next cold reset every step leaves all work as it
stands, the management controller's answers apart. That the log entry has source 16 and no tenant is the model's choice (log 57). -/
def Obligations.ThermalTripHalts : Prop :=
  (∀ s : State, ∃ t, exec .thermalTrip s = .next t ∧ t.plat.tripped = true ∧
    t.xa.log = s.xa.log ++ [{ source := 16, asid := none, clock := s.dieClock 0 }]) ∧
  (∀ s t : State, s.plat.tripped = true → step s = .next t →
    (let p := { s.plat with temp := t.plat.temp, power := t.plat.power, limit := t.plat.limit, mctp := t.plat.mctp }
     t = { s with sched := t.sched, cur := t.cur, free := t.free, plat := p }) ∨
    ∃ s0, s.nextTurn = (.event .coldReset, s0) ∧ exec .coldReset (s0.actAs .idle) = .next t)

/-! ## Traps -/

/-- 15_traps.md R455 (and R329, R492 before it): trap entry in user mode with traps enabled, lane by lane and register by register; in supervisor
mode it is a double trap, and with traps disabled a team fault. -/
def Obligations.TrapEntry : Prop := ∀ (s : State) (gid : Nat) (g : Group) (tr : Trap), klookup s.groups gid = some g →
  let g0 := doomTrapped tr g
  let s0 := trapFrom s gid g tr
  (g.sup = true → s.takeTrap gid tr = s0.doubleTrap gid g0 (s.asidOf g)) ∧
  (g.sup = false → (∃ t, klookup s.teams g.team = some t ∧ t.trapsOn = false) → s.takeTrap gid tr = s0.teamFault g.team) ∧
  (g.sup = false → (∀ t, klookup s.teams g.team = some t → t.trapsOn = true) →
    ∃ g1, s.takeTrap gid tr = s0.setGroup gid g1 ∧
      g1 = { g0 with lanes := g1.lanes, tfmode := g1.tfmode, fmode := g1.fmode, tmask := g1.tmask, tpc := g1.tpc, ractive := g1.ractive,
                     sup := g1.sup, pend := [], pc := g1.pc } ∧
      g1.lanes.length = g.lanes.length ∧
      (∀ l, l ∈ g.eligibles → l < g.lanes.length →
        (g1.lane l).tnest = (g.lane l).cnt ∧ (g1.lane l).tsrst = (g.lane l).sr ∧
        (∀ v, tr.lanes.lookup l = some v → (g1.lane l).tcause = BitVec.ofNat 8 tr.cause ∧ (g1.lane l).tval = v ∧ (g1.lane l).cnt = 0 ∧
          (g1.lane l).parked = false) ∧
        (tr.lanes.lookup l = none → (g1.lane l).parked = true ∧ (g1.lane l).cnt = (g.lane l).cnt)) ∧
      (∀ l, l ∉ g.eligibles → g1.lane l = g0.lane l) ∧
      g1.tfmode = g.fmode ∧ g1.fmode = 0 ∧ (∀ l, l < 64 → g1.tmask.getLsbD l = (tr.lanes.lookup l).isSome) ∧ g1.tpc = tr.tpc ∧
      g1.ractive = false ∧ g1.sup = true ∧ g1.sig = g.sig ∧
      g1.pc = (s.die (dieOf g.core)).tvbase + BitVec.ofNat 64 (256 * tr.cause))

/-- 15_traps.md R458: sret, with a TPC that is a multiple of 4, gives every live lane its saved counter and generator back and unparks it, restores
FMODE, goes back to user mode at TPC, and keeps every other register of the group; else it is a double trap. -/
def Obligations.TrapReturn : Prop := ∀ (h : Head) (s : State) (gid : Nat) (g : Group),
  let sh : Shape := { sysShape 1 h with always := true, super := true }
  Clear sh s gid g h → g.parts h.guard ≠ [] →
  (g.tpc.extractLsb' 0 2 ≠ 0 → exec (.sret h) s =
    .next ((s.doubleTrap gid g (s.asidOf g)).modGroup gid fun g1 => { g1 with readyAt := s.clock + max (stallCount h.stall) 1 })) ∧
  (g.tpc.extractLsb' 0 2 = 0 →
    ∃ g1, exec (.sret h) s = .next (s.setGroup gid g1) ∧
      g1 = { g with lanes := g1.lanes, fmode := g.tfmode, sup := false, pc := g.tpc, rfHold := false,
                    readyAt := s.clock + max (stallCount h.stall) 1 } ∧
      g1.lanes.length = g.lanes.length ∧
      ∀ l, l < g.lanes.length → g1.lane l =
        if (g.lane l).live then { g.lane l with cnt := (g.lane l).tnest, dup := (g.lane l).tnest, sr := (g.lane l).tsrst, parked := false }
        else g.lane l)

/-- 15_traps.md R460: the double trap of a team's group in supervisor mode stops it where it is, with TPC, TMASK, TNEST, TCAUSE and TVAL as they
are, enters channel 13 in the die's log, and halts and faults its team; that of a service group stops it and raises interrupt source 41, and faults
no team. -/
def Obligations.DoubleTrap : Prop := ∀ (s : State) (gid : Nat) (g : Group) (tr : Trap), klookup s.groups gid = some g → g.sup = true →
  let g0 := doomTrapped tr g
  let t := s.takeTrap gid tr
  (g0.tpc = g.tpc ∧ g0.tmask = g.tmask ∧ g0.pc = g.pc ∧ ∀ l, (g0.lane l).tnest = (g.lane l).tnest ∧ (g0.lane l).tcause = (g.lane l).tcause ∧
    (g0.lane l).tval = (g.lane l).tval) ∧
  (∃ r : Report, r.asid = s.asidOf g ∧ r.src = g.core ∧
    kget [] (kget {} t.logs (dieOf g.core)).pend 13 = kget [] (kget {} s.logs (dieOf g.core)).pend 13 ++ [r]) ∧
  (g.service = true → klookup t.groups gid = some { g0 with wait := .stopped } ∧ t.pool.irq41 = true ∧ t.teams = s.teams) ∧
  (g.service = false → klookup t.groups gid = some g0 ∧ ∀ tm, klookup s.teams g.team = some tm →
    klookup t.teams g.team = some { tm with faulted := true, halted := true })

/-- 02_code.md R34, R58: every device word with the reserved guard or a reserved type code raises ILLEGAL_OP in every active lane, else in every
eligible lane, with its address as TVAL. -/
def Obligations.IllegalWords : Prop := ∀ (i : Instr) (major : BitVec 8) (minor : BitVec 4) (h : Head) (s : State) (gid : Nat) (g : Group),
  deviceParts i = some (major, minor, h) → h.guard.wf = false ∨ h.ty.wf = false → Acting s gid g → NoneDue g →
  exec i s = .next (trapAt s gid g cIllegal (sameVal g.wordLanes g.pc))

/-- 02_code.md R59: a supervisor-only instruction that is not illegal and issues in user mode raises PRIV in every active lane, else in every
eligible lane, whatever its guard, with its address as TVAL. ownset with its count in a scalar is illegal where the count is outside 1 to 512 (R58,
R60, R286): then it raises ILLEGAL_OP with the count. That this is in the participating lanes, and that a count which is early under CHK is not read,
is the model's choice (log 29). -/
def Obligations.PrivilegedInUserMode : Prop := ∀ (h : Head) (s : State) (gid : Nat) (g : Group),
  ∀ p ∈ ([((.sret h : Instr), ({ sysShape 1 h with always := true, super := true } : Shape)), (.zget h, zgetShape h), (.zset h, zsetShape h),
          (.halt h, { sysShape 5 h with d := fScal, always := true, super := true }), (.tlbi h, tlbiShape h),
          (.replay h, { major := 0xF4, minor := 1, tyOk := h.ty == .b32, modsOk := h.mods == 0, d := fScal, super := true, access := true }),
          (.ownset h, ownsetShape h)] : List (Instr × Shape)),
    Acting s gid g → NoneDue g → illegal p.2 g h = .ok → g.sup = false →
      let early := earlyPends g s.clock (itemsRead p.2 g h)
      let unread : Bool := g.gctl.getLsbD 0 && judgedEarly p.2 early
      let g1 := if g.gctl.getLsbD 0 then g else (readCtx p.2 gid g h s early).g
      (p.2.judged = [] ∨ (s.issueWaits p.2 gid g h = false ∧
        (unread = true ∨ g1.parts h.guard = [] ∨ countBad (readNum g1 h.b) = false)) →
        exec p.1 s = .next (trapAt s gid g cPriv (sameVal g.wordLanes g.pc))) ∧
      (p.2.judged ≠ [] → s.issueWaits p.2 gid g h = false → unread = false → g1.parts h.guard ≠ [] → countBad (readNum g1 h.b) = true →
        exec p.1 s = .next (trapAt s gid g cIllegal (sameVal (g1.parts h.guard) (readNum g1 h.b))))

/-- 02_code.md R54, R55, R60, R121, 15_traps.md R471, R474: a computing instruction that touches an item that the scoreboard holds busy waits at issue
with nothing changed, and with GCTL.CHK one that would meet an earlier result before its latency raises STALL_SHORT with its address as TVAL; that
this is in every active lane where the early item is its guard's flag is the model's choice (log 21). Meeting none early, it raises INDEX_BOUND in the
lanes where an operand leaves its window, and else POISON in those that read a poisoned row; in an open restart region that has restarts left the
region restarts, once every result the group awaits is written. -/
def Obligations.InterlockAndStall : Prop := ∀ p ∈ computeForms, ∀ (h : Head) (s : State) (gid : Nat) (g : Group),
  let sh := p.2 h
  let ps := g.parts h.guard
  let early := earlyPends g s.clock (itemsRead sh g h ++ itemsWritten sh g h)
  (Acting s gid g → NoneDue g → illegal sh g h = .ok →
    (busyHit sh g h = true → exec (p.1 h) s = .next s) ∧
    (busyHit sh g h = false → early ≠ [] → g.gctl.getLsbD 0 = true → ps ≠ [] →
      exec (p.1 h) s = .next (trapAt s gid g cStall (sameVal (if guardEarly h early then g.wordLanes else ps) g.pc)))) ∧
  (Ready sh s gid g h →
    (indexFails sh g h ps ≠ [] → exec (p.1 h) s = .next (trapAt s gid g cIndex (indexFails sh g h ps))) ∧
    (indexFails sh g h ps = [] → poisonFails sh g h ps ≠ [] →
      (g.ractive = false → exec (p.1 h) s =
        .next (trapAt (s.modGroup gid fun g => { g with poisPend := [] }) gid g cPoison (poisonFails sh g h ps))) ∧
      (g.ractive = true → g.busy ≠ [] → exec (p.1 h) s = .next s) ∧
      (g.ractive = true → g.busy = [] → g.rcnt.toNat < g.rrlim.toNat → exec (p.1 h) s = .next
        ((s.setGroup gid (g.dropLoaded.restart s.clock)).report (dieOf g.core) 14 (s.asidOf g) g.core (g.rentry.toNat % 2 ^ 52))) ∧
      (g.ractive = true → g.busy = [] → g.rrlim.toNat ≤ g.rcnt.toNat → exec (p.1 h) s =
        .next (trapAt ((s.modGroup gid Group.endRegion).modGroup gid fun g => { g with poisPend := [] }) gid g cPoison (poisonFails sh g h ps)))))

/-! ## Frames -/

/-- 02_code.md R34, R35, R49, R50, R122: what a computing instruction leaves as it was. It changes its own group alone; there the lanes that do not
participate, and in those that do every row outside its destination's, every flag, the counters, the trap registers and the transaction; every
scalar but a scalar destination; every other register of the group but the pc, SIG, the issue time and the record of results not yet due. R186: a compare or test
leaves everything but its flag in the participating lanes, or its scalar, as it was. -/
def Obligations.ComputeFrame : Prop :=
  (∀ p ∈ computeForms, ∀ (h : Head) (s : State) (gid : Nat) (g : Group), Clear (p.2 h) s gid g h →
  ∃ g1, exec (p.1 h) s = .next (s.setGroup gid g1) ∧
    g1 = { g with pc := g.pc + headLen h, lanes := g1.lanes, scal := g1.scal, sig := g1.sig, readyAt := g1.readyAt, pend := g1.pend, wait := .none,
                  held := none } ∧
    (∀ k, ¬ (isScal h.d = true ∧ k = scalNum h.d) → g1.getS k = g.getS k) ∧
    (∀ l, l ∉ g.parts h.guard ∨ isScal h.d = true → g1.lane l = g.lane l) ∧
    (∀ l r, r < rowOf g h.d l ∨ rowOf g h.d l + opndRows (opndOf (p.2 h).d) ≤ r → (g1.lane l).row r = (g.lane l).row r) ∧
    (∀ l k, k ∉ postIxs h → (g1.lane l).off k = (g.lane l).off k) ∧
    (∀ l, g1.lane l = { g.lane l with rows := (g1.lane l).rows, offs := (g1.lane l).offs, poison := (g1.lane l).poison })) ∧
  (∀ p ∈ testForms, ∀ (h : Head) (s : State) (gid : Nat) (g : Group), Clear (p.2 h g) s gid g h →
  ∃ g1, exec (p.1 h) s = .next (s.setGroup gid g1) ∧
    g1 = { g with pc := g.pc + headLen h, lanes := g1.lanes, scal := g1.scal, sig := g1.sig, readyAt := g1.readyAt, pend := g1.pend, wait := .none,
                  held := none } ∧
    (∀ k, ¬ (isScal h.d = true ∧ k = scalNum h.d) → g1.getS k = g.getS k) ∧
    (∀ l, l ∉ g.parts h.guard ∨ isScal h.d = true → g1.lane l = g.lane l) ∧
    (∀ l k, k ≠ clsNum h.d → (g1.lane l).flag k = (g.lane l).flag k) ∧
    (∀ l k, k ∉ postIxs h → (g1.lane l).off k = (g.lane l).off k) ∧
    (∀ l, g1.lane l = { g.lane l with flags := (g1.lane l).flags, offs := (g1.lane l).offs }))

/-- 02_code.md R60, 15_traps.md R455, R459: an instruction that reaches registers of its own group only leaves every byte of memory and of
scratchpad, every other group, every host core, the fabric and the engines as they were, also where it traps; a trap may take back requests that
its group had queued at a slice. -/
def Obligations.RegisterInstructionsKeepMemory : Prop := ∀ i ∈ registerForms, ∀ (h : Head) (s t : State) (gid : Nat), s.cur = .group gid →
  exec (i h) s = .next t →
  t = { s with groups := t.groups, teams := t.teams, pool := t.pool, dies := t.dies, logs := t.logs, xa := t.xa,
               mem := { s.mem with l2q := t.mem.l2q } } ∧
  List.Sublist t.mem.l2q s.mem.l2q ∧
  (∀ k, k ≠ gid → klookup t.groups k = klookup s.groups k) ∧
  (∀ k, (klookup t.teams k).map Team.scratch = (klookup s.teams k).map Team.scratch) ∧
  (∀ a, t.homeByte a = s.homeByte a)

/-- 06_pipes.md R188, R190, R194: on direct rows, 32-bit sums, differences, products, minima, maxima, logic, shifts and rotations are those of
32-bit words (shift counts of 32 and more leave zero, or the sign; a rotation takes its count modulo 32), and icmp compares as its type, i32 or n32,
reads the words. -/
def Obligations.WordArithmeticInRows : Prop := ∀ (h : Head) (s : State) (gid : Nat) (g : Group) (d a b : BitVec 11),
  h.d = .row d 0 0 → h.a = .row a 0 0 → h.b = .row b 0 0 →
  let val (i : Instr) (sh : Shape) (f : W32 → W32 → W32) : Prop := Clear sh s gid g h → ∃ t g1, exec i s = .next t ∧
    klookup t.groups gid = some g1 ∧ ∀ l ∈ g.parts h.guard,
      (g1.lane l).row (rowKey g d.toNat) = f ((g.lane l).row (rowKey g a.toNat)) ((g.lane l).row (rowKey g b.toNat))
  (h.mods = 0 → h.ty = .i32 ∨ h.ty = .n32 →
    val (.iadd h) (satShape 0 h (tyInt h.ty)) (fun x y => x + y) ∧ val (.isub h) (satShape 1 h (tyInt h.ty)) (fun x y => x - y) ∧
    val (.imul h) (mulShape 2 h) (fun x y => x * y) ∧
    val (.imin h) (intShape 0x10 5 h (tyInt h.ty)) (fun x y => if h.ty = .i32 then (if x.slt y then x else y) else (if x.ult y then x else y)) ∧
    val (.imax h) (intShape 0x10 6 h (tyInt h.ty)) (fun x y => if h.ty = .i32 then (if x.slt y then y else x) else (if x.ult y then y else x))) ∧
  (h.ty = .b32 ∨ h.ty = .i32 ∨ h.ty = .n32 →
    val (.andb h) (logShape 0 h) (fun x y => x &&& y) ∧ val (.orb h) (logShape 1 h) (fun x y => x ||| y) ∧
    val (.xorb h) (logShape 2 h) (fun x y => x ^^^ y) ∧ val (.notb h) (notShape h) (fun x _ => ~~~x) ∧
    val (.andn h) (logShape 4 h) (fun x y => x &&& ~~~y) ∧ val (.shl h) (logShape 5 h) (fun x y => x <<< y) ∧
    val (.shr h) (logShape 6 h) (fun x y => x >>> y) ∧ val (.sar h) (logShape 7 h) (fun x y => x.sshiftRight y.toNat) ∧
    val (.rot h) (logShape 8 h) (fun x y => x.rotateLeft (y.toNat % 32))) ∧
  (h.ty = .i32 ∨ h.ty = .n32 → 0 < d.toNat → Clear (icmpShape h) s gid g h → ∃ t g1, exec (.icmp h) s = .next t ∧ klookup t.groups gid = some g1 ∧
    ∀ l ∈ g.parts h.guard, (g1.lane l).flag d.toNat =
      (let read (x : W32) : Int := if h.ty = .i32 then x.toInt else (x.toNat : Int)
       icond h.mods.toNat (read ((g.lane l).row (rowKey g a.toNat))) (read ((g.lane l).row (rowKey g b.toNat)))))

/-! ## Memory -/

/-- 07_local.md R230, R244, 09_order.md R289, 13_engines.md R417, 15_traps.md R474: what changes when a queued store of a group goes to its home. To
memory of this package, on a region its side owns and in a slice of L2 that has room, exactly its bytes change, or where its instruction writes the
whole sector exactly that sector, and the store leaves the queue; where the address has no storage nothing changes (R253). To the scratchpad exactly its bytes change, and the
barrier objects that it touches take their completion step. To another package no byte of this one changes, and the store is sent, or where no link
reaches leaves REMOTE_FAIL. To a device register it is a write of the register. No store whose pieces are aligned reaches from one sector into another. -/
def Obligations.DrainedStoreWritesItsBytes : Prop :=
  (∀ (s s0 : State) (gid k : Nat) (g : Group) (q : QStore), Draining s s0 gid k g q →
    let g1 := g.nearStore k q
    let gone : Group := { g1 with stores := g1.stores.eraseIdx k }
    let s1 := s0.actAs .idle
    (∀ pa, HomeTakes s0 gid g q pa → isDevReg pa = false → s0.hasStorage pa = true → q.full = false → pa % 256 + q.bytes.length ≤ 256 →
      s0.needsTransfer true pa = false → ServedPlain s0 (sectorOf pa) q.slot → RoomInL2 s0 (sectorOf pa) →
      ∃ t, step s = .next t ∧ klookup t.groups gid = some gone ∧
        (∀ i, i < q.bytes.length → s0.hasStorage (pa + i) = true → t.homeByte (pa + i) = q.bytes.getD i 0) ∧
        (∀ a, a < pa ∨ pa + q.bytes.length ≤ a → t.homeByte a = s0.homeByte a)) ∧
    (∀ pa, HomeTakes s0 gid g q pa → isDevReg pa = false → s0.hasStorage (sectorOf pa * 256) = true → q.full = true →
      s0.needsTransfer true (sectorOf pa * 256) = false → RoomInL2 s0 (sectorOf pa) →
      ∃ t, step s = .next t ∧
        klookup t.groups gid = some { g1 with stores := g1.stores.filter fun x =>
          !(x.age == q.age && (match x.loc with | .glob p => sectorOf p == sectorOf pa | .scr _ => false)) } ∧
        (∀ i, i < 256 → s0.hasStorage (sectorOf pa * 256 + i) = true →
          t.homeByte (sectorOf pa * 256 + i) = (sectorBytes g1.stores q.age (sectorOf pa)).getD i 0) ∧
        (∀ a, sectorOf a ≠ sectorOf pa → t.homeByte a = s0.homeByte a)) ∧
    (∀ pa, HomeTakes s0 gid g q pa → isDevReg pa = false → s0.hasStorage pa = false → q.full = false → s0.needsTransfer true pa = false →
      ∃ t, step s = .next t ∧ klookup t.groups gid = some gone ∧ t.mem.bytes = s0.mem.bytes) ∧
    (∀ pa, HomeTakes s0 gid g q pa → isDevReg pa = true → step s = .next ((s1.setGroup gid gone).devWrite pa q.bytes)) ∧
    (∀ off tm, q.loc = .scr off → klookup s0.teams g.team = some tm →
      let inObj (a : Nat) : Prop := ∃ u ∈ tm.objs, u * 16 < off + q.bytes.length ∧ off < u * 16 + 16 ∧ u * 16 ≤ a ∧ a < u * 16 + 16
      step s = .next ((s1.setGroup gid gone).modTeam g.team fun t => t.scrStore off q.bytes) ∧
      (∀ i, i < q.bytes.length → ¬ inObj (off + i) → (tm.scrStore off q.bytes).scrBytes (off + i) 1 = [q.bytes.getD i 0]) ∧
      (∀ a, a < off ∨ off + q.bytes.length ≤ a → ¬ inObj a → (tm.scrStore off q.bytes).scrBytes a 1 = tm.scrBytes a 1)) ∧
    (∀ pa, q.loc = .glob pa → isDomain pa = true →
      (s0.routes (domainPkg pa) = [] → step s = .next ((s1.setGroup gid gone).remoteFail gid q.lanes q.va)) ∧
      (∀ s2 r, s0.routes (domainPkg pa) ≠ [] → s1.request (storePacket q pa) (.store gid) none = some (s2, r) →
        ∃ t, step s = .next t ∧ klookup t.groups gid = some { g1 with stores := g1.stores.set k { q with rid := some r } } ∧
          t.mem.bytes = s0.mem.bytes ∧ ∀ a, t.homeByte a = s0.homeByte a))) ∧
  (∀ (s : State) (g : Group) (asid : Nat) (ask : Ask) (l : Option Nat) (lane : Nat) (va : W64) (n : Nat),
    let lk := s.laneLook g asid ask l lane va n
    (∀ p ∈ lk.pieces, p.2 ∣ 256 ∧ p.1 % p.2 = 0) → ∀ c ∈ lk.chunks, ∀ pa, c.loc = .glob pa → pa % 256 + c.n ≤ 256)

/-! ## Encodings and reset -/

/-- 02_code.md R27 to R29, R61, 10_transactions.md R346: decoding the bytes of a device instruction gives it back with all its fields, whatever follows, and the bytes of
what is decoded are the bytes that were read; and so for the words of the host instructions. -/
def Obligations.EncodingsRoundTrip : Prop :=
  (∀ (i : Instr) (bs rest : List Byte), (deviceParts i).isSome = true → Sys2Proof.pairOk i = true → encode i = some bs →
    decodeBytes (bs ++ rest) = some (i, rest)) ∧
  (∀ (i : Instr) (bs rest : List Byte), decodeBytes bs = some (i, rest) → ∃ b, encode i = some b ∧ bs = b ++ rest) ∧
  (∀ (i : Instr) (w : W32), hostBits i = some w ↔ decodeHost w = some i)

/-- 02_code.md R57, R58, R61: the opcode map. A pair of major and minor code is assigned where the map lists it, and nowhere else; an unassigned one
decodes to the instruction that raises ILLEGAL_OP in the eligible lanes (the active ones where there are any), with its own address as TVAL. -/
def Obligations.UnassignedOpcodes : Prop :=
  (∀ (major : BitVec 8) (minor : BitVec 4), (deviceOf major.toNat minor.toNat).isSome = true ↔
    ∃ r ∈ ([(0x00, 1, 6), (0x01, 0, 6), (0x10, 0, 9), (0x11, 0, 8), (0x12, 0, 6), (0x30, 0, 8), (0x31, 0, 7), (0x50, 0, 1), (0x51, 0, 2),
            (0x52, 0, 2), (0x60, 0, 2), (0x61, 0, 1), (0x62, 0, 3), (0x63, 0, 7), (0x64, 0, 1), (0x70, 0, 4), (0x71, 0, 1), (0x72, 0, 1),
            (0x80, 0, 4), (0x88, 0, 3), (0x90, 0, 3), (0x98, 0, 2), (0xA0, 0, 7), (0xB0, 0, 5), (0xB1, 0, 1), (0xF0, 0, 5), (0xF1, 0, 1),
            (0xF4, 0, 2), (0xF8, 0, 1)] : List (Nat × Nat × Nat)), major.toNat = r.1 ∧ r.2.1 ≤ minor.toNat ∧ minor.toNat ≤ r.2.2) ∧
  (∀ (w : BitVec 96) (ps : Option Params), deviceOf (w.extractLsb' 88 8).toNat (w.extractLsb' 84 4).toNat = none →
    decodeDevice w ps = .unassignedOpcode (w.extractLsb' 88 8) (w.extractLsb' 84 4) (Head.ofBits w ps))
 ∧
  (∀ (major : BitVec 8) (minor : BitVec 4) (h : Head) (s : State) (gid : Nat) (g : Group), Acting s gid g → NoneDue g →
    exec (.unassignedOpcode major minor h) s = .next (trapAt s gid g cIllegal (sameVal g.wordLanes g.pc)))

/-- 02_code.md (A worked encoding), 03_lanes.md, 08_memory.md, 10_transactions.md, 12_irregular.md, 15_traps.md, 16_tenancy.md: the bytes that these
chapters write out decode to the instructions they stand for. -/
def Obligations.DecodedWords : Prop :=
  let hd (t : Ty) (m : BitVec 5) (d a b : Operand) : Head :=
    { guard := { inv := false, flag := 0 }, stall := 0, yield := false, reuse := false, ty := t, mods := m, d := d, a := a, b := b, params := none }
  let z : Operand := .row 0 0 0
  decodeBytes [0x07, 0x00, 0x70, 0x16, 0x00, 0x31, 0x00, 0x00, 0xA0, 0x38, 0x0A, 0x10] =
    some (.iadd { hd .i32 0 (.row 12 0 0) (.ind 3 true 5 0) (.scal 7 0) with guard := { inv := true, flag := 2 }, stall := 3, yield := true }, []) ∧
  decodeBytes [0x0F, 0x00, 0x38, 0x00, 0x00, 0x00, 0x00, 0x00, 0x00, 0x00, 0x00, 0x01] = some (.ifc (hd .b32 0 z (.row 1 0 0) (.imm 15)), []) ∧
  decodeBytes [0x02, 0x00, 0x18, 0x00, 0x00, 0x00, 0x00, 0x00, 0x00, 0x00, 0x53, 0x01] =
    some (.brk { hd .b32 0 z z (.imm 2) with guard := { inv := false, flag := 3 } }, []) ∧
  decodeBytes [0x07, 0x00, 0x98, 0x00, 0x00, 0x0E, 0x00, 0x40, 0x00, 0x00, 0x00, 0xF4] =
    some (.tlbi (hd .b32 0 (.scal 3 0) (.scal 4 0) (.imm 7)), []) ∧
  decodeBytes [0x00, 0x00, 0x00, 0x00, 0x00, 0x04, 0x00, 0x00, 0x00, 0x00, 0x10, 0x90] = some (.tend (hd .b32 0 (.row 1 0 0) z z), []) ∧
  decodeBytes [0x07, 0x00, 0x18, 0x00, 0x00, 0x00, 0x00, 0x00, 0x00, 0x00, 0x00, 0xF0] = some (.sys (hd .b32 0 z z (.imm 7)), []) ∧
  decodeBytes [0x00, 0x00, 0x40, 0x00, 0x00, 0x13, 0x00, 0x40, 0x01, 0x00, 0x10, 0xF8] = some (.pmc (hd .b32 1 (.scal 4 0) (.imm 2) z), []) ∧
  decodeHost 0x0005850B = some (.xtbeg 10 11) ∧ decodeHost 0x0050200B = some (.xtabort 5) ∧ decodeHost 0x0C80200B = some (.xtabort 200)

/-- 01_package.md R22: what cold reset leaves; 01_package.md R17, 07_local.md R221, 08_memory.md R270, R279, 13_engines.md R430, 14_time.md R454, 16_tenancy.md R484,
R492: the reset values of the registers that have one. -/
def Obligations.ResetValues : Prop :=
  let s := State.reset
  s.groups = [] ∧ s.teams = [] ∧ s.mem.l2 = [] ∧ s.mem.tlb = [] ∧ s.mem.fcache = [] ∧ s.pool.tasks = [] ∧ s.xa.kprov = false ∧
  (∀ pa, (s.regionEntry pa).owner = 1 ∧ (s.regionEntry pa).ver = 0) ∧ (s.slot 0).kind = 1 ∧ (s.slot 0).shared = true ∧
  (∀ k, k ≠ 0 → (s.slot k).kind = 0) ∧
  (∀ d, (s.die d).tvbase = 0 ∧ (s.die d).evpend = 0 ∧ (s.die d).apscr = 0x0100000000000000 ∧ (s.die d).appair = 0x0100000100000000 ∧
    (s.die d).aploc = 0x0100000200000000 ∧ (s.die d).fbctl = 6 ∧ (s.die d).fbput = 0 ∧ (s.die d).fbget = 0 ∧ (s.die d).fbstat = 0) ∧
  (∀ k, (s.link k).state = 0 ∧ (s.link k).acked = 0xFFF ∧ (s.link k).txseq = 0 ∧ (s.link k).lanebad = 0) ∧
  s.pkg.pquant = 0x000007D000002710 ∧ s.pkg.htq = 4 ∧ s.pkg.htqptr = 0 ∧ s.pkg.qtbase = 0 ∧ s.pkg.fabcfg = 0 ∧ s.xa.lvl = 0x5A9 ∧
  s.xa.lock = false ∧ s.plat.mhz = 1800

/-- Log 3: the memory of the state after cold reset has its canonical form. -/
def Obligations.ResetMemoryCanonical : Prop := MemoryCanonical State.reset

/-- Log 3: every step that answers a next state keeps the canonical form of memory, from every state that has it. -/
def Obligations.EveryStepKeepsMemoryCanonical : Prop := ∀ s t : State, MemoryCanonical s → step s = .next t → MemoryCanonical t
end

