-- ==== Sys2Proof/Laws/Maps.lean ====
section
/-!
SUPPORT. Laws of the sparse tables: read after write, and that every write keeps the canonical form.
-/

namespace Sys2Proof.Machine

variable {β : Type}

@[simp] theorem klookup_nil (k : Nat) : klookup ([] : KMap β) k = none := rfl

@[simp] theorem klookup_kput_self (m : KMap β) (k : Nat) (v : β) : klookup (kput m k v) k = some v := by
  induction m with
  | nil => simp [kput, klookup]
  | cons e r ih =>
    obtain ⟨a, w⟩ := e
    simp only [kput]
    split
    · next h => simp [klookup, Nat.ne_of_lt h, ih]
    · split <;> simp [klookup]

/-- What a lookup finds is listed. -/
theorem mem_of_klookup {m : KMap β} {k : Nat} {v : β} (h : klookup m k = some v) : (k, v) ∈ m := by
  induction m with
  | nil => simp at h
  | cons e r ih =>
    unfold klookup at h
    split at h
    · next he => obtain ⟨rfl⟩ := h; subst he; simp
    · exact List.mem_cons_of_mem _ (ih h)

theorem klookup_kput_of_ne (m : KMap β) {k j : Nat} (h : j ≠ k) (v : β) : klookup (kput m k v) j = klookup m j := by
  induction m with
  | nil => simp [kput, klookup, h.symm]
  | cons e r ih =>
    obtain ⟨a, w⟩ := e
    simp only [kput]
    split
    · simp [klookup, ih]
    · split
      · next h1 => simp [klookup, h1, h.symm]
      · simp [klookup, h.symm]

@[simp] theorem klookup_kerase_self (m : KMap β) (k : Nat) : klookup (kerase m k) k = none := by
  induction m with
  | nil => rfl
  | cons e r ih =>
    obtain ⟨a, w⟩ := e
    simp only [kerase]
    split
    · exact ih
    · next h => simp [klookup, h, ih]

theorem klookup_kerase_of_ne (m : KMap β) {k j : Nat} (h : j ≠ k) : klookup (kerase m k) j = klookup m j := by
  induction m with
  | nil => rfl
  | cons e r ih =>
    obtain ⟨a, w⟩ := e
    simp only [kerase]
    split
    · next h1 => rw [ih]; simp [klookup, h1, h.symm]
    · simp [klookup, ih]

theorem klookup_kput (m : KMap β) (k j : Nat) (v : β) : klookup (kput m k v) j = if j = k then some v else klookup m j := by
  split
  · next h => rw [h, klookup_kput_self]
  · next h => exact klookup_kput_of_ne m h v

@[simp] theorem kput_kput (m : KMap β) (k : Nat) (v w : β) : kput (kput m k v) k w = kput m k w := by
  induction m with
  | nil => simp [kput]
  | cons e r ih =>
    obtain ⟨a, x⟩ := e
    simp only [kput]
    split
    · next h => simp [kput, h, ih]
    · split
      · simp [kput]
      · simp [kput]

theorem kmap_of_lookup (m : KMap β) {k : Nat} {v : β} (h : klookup m k = some v) (f : β → β) : kmap m k f = kput m k (f v) := by
  simp [kmap, h]

theorem kmap_of_none (m : KMap β) {k : Nat} (h : klookup m k = none) (f : β → β) : kmap m k f = m := by simp [kmap, h]

@[simp] theorem kmap_kput_self (m : KMap β) (k : Nat) (v : β) (f : β → β) : kmap (kput m k v) k f = kput m k (f v) := by
  simp [kmap]

theorem klookup_kmap_of_ne (m : KMap β) {k j : Nat} (h : j ≠ k) (f : β → β) : klookup (kmap m k f) j = klookup m j := by
  unfold kmap
  split
  · exact klookup_kput_of_ne m h _
  · rfl

theorem klookup_kmap (m : KMap β) (k j : Nat) (f : β → β) :
    klookup (kmap m k f) j = if j = k then (klookup m k).map f else klookup m j := by
  split
  · next h =>
    rw [h]; unfold kmap
    cases hk : klookup m k with
    | none => simpa using hk
    | some v => simp
  · next h => exact klookup_kmap_of_ne m h f

@[simp] theorem kget_nil (d : β) (k : Nat) : kget d ([] : KMap β) k = d := rfl

theorem kget_kput (d : β) (m : KMap β) (k j : Nat) (v : β) : kget d (kput m k v) j = if j = k then v else kget d m j := by
  unfold kget; rw [klookup_kput]; split <;> rfl

section
variable [DecidableEq β]

theorem kget_kset (d : β) (m : KMap β) (k j : Nat) (v : β) : kget d (kset d m k v) j = if j = k then v else kget d m j := by
  unfold kset
  split
  · next h =>
    unfold kget
    split
    · next hj => rw [hj, klookup_kerase_self, h]; rfl
    · next hj => rw [klookup_kerase_of_ne m hj]
  · exact kget_kput d m k j v

@[simp] theorem kget_kset_self (d : β) (m : KMap β) (k : Nat) (v : β) : kget d (kset d m k v) k = v := by rw [kget_kset]; simp

theorem kget_kset_of_ne (d : β) (m : KMap β) {k j : Nat} (h : j ≠ k) (v : β) : kget d (kset d m k v) j = kget d m j := by
  rw [kget_kset]; simp [h]

/-! ## Canonical form -/

omit [DecidableEq β] in
theorem kabove_mono {lo lo' : Nat} (h : lo' ≤ lo) : ∀ {m : KMap β}, kabove lo m = true → kabove lo' m = true
  | [], _ => rfl
  | (a, _) :: r, hm => by
    simp only [kabove, Bool.and_eq_true, decide_eq_true_eq] at hm ⊢
    exact ⟨by omega, hm.2⟩

omit [DecidableEq β] in
theorem kabove_kerase (m : KMap β) (k : Nat) : ∀ lo, kabove lo m = true → kabove lo (kerase m k) = true := by
  induction m with
  | nil => intro lo h; exact h
  | cons e r ih =>
    obtain ⟨a, w⟩ := e
    intro lo h
    simp only [kabove, Bool.and_eq_true, decide_eq_true_eq] at h
    simp only [kerase]
    split
    · exact ih lo (kabove_mono (by omega) h.2)
    · simp only [kabove, Bool.and_eq_true, decide_eq_true_eq]
      exact ⟨h.1, ih _ h.2⟩

omit [DecidableEq β] in
theorem kabove_kput (m : KMap β) (k : Nat) (v : β) : ∀ lo, lo ≤ k → kabove lo m = true → kabove lo (kput m k v) = true := by
  induction m with
  | nil => intro lo hk _; simp [kput, kabove, hk]
  | cons e r ih =>
    obtain ⟨a, w⟩ := e
    intro lo hk h
    simp only [kabove, Bool.and_eq_true, decide_eq_true_eq] at h
    simp only [kput]
    split
    · next h1 =>
      simp only [kabove, Bool.and_eq_true, decide_eq_true_eq]
      exact ⟨h.1, ih _ h1 h.2⟩
    · split
      · next h2 =>
        simp only [kabove, Bool.and_eq_true, decide_eq_true_eq]
        exact ⟨hk, h2 ▸ h.2⟩
      · simp only [kabove, Bool.and_eq_true, decide_eq_true_eq]
        exact ⟨hk, by omega, h.2⟩

omit [DecidableEq β] in
theorem mem_kerase {m : KMap β} {k : Nat} {e : Nat × β} (h : e ∈ kerase m k) : e ∈ m := by
  induction m with
  | nil => exact h
  | cons x r ih =>
    obtain ⟨a, w⟩ := x
    simp only [kerase] at h
    split at h
    · exact List.mem_cons_of_mem _ (ih h)
    · rcases List.mem_cons.1 h with h | h
      · exact h ▸ List.mem_cons_self
      · exact List.mem_cons_of_mem _ (ih h)

omit [DecidableEq β] in
theorem mem_kput {m : KMap β} {k : Nat} {v : β} {e : Nat × β} (h : e ∈ kput m k v) : e = (k, v) ∨ e ∈ m := by
  induction m with
  | nil => exact .inl (by simpa [kput] using h)
  | cons x r ih =>
    obtain ⟨a, w⟩ := x
    simp only [kput] at h
    split at h
    · rcases List.mem_cons.1 h with h | h
      · exact .inr (h ▸ List.mem_cons_self)
      · exact (ih h).imp id (List.mem_cons_of_mem _)
    · split at h
      · rcases List.mem_cons.1 h with h | h
        · exact .inl h
        · exact .inr (List.mem_cons_of_mem _ h)
      · rcases List.mem_cons.1 h with h | h
        · exact .inl h
        · exact .inr h

theorem kcanon_kset (d : β) {m : KMap β} (h : kcanon d m = true) (k : Nat) (v : β) : kcanon d (kset d m k v) = true := by
  simp only [kcanon, ksorted, Bool.and_eq_true, List.all_eq_true, decide_eq_true_eq] at h ⊢
  unfold kset
  split
  · exact ⟨kabove_kerase m k 0 h.1, fun e he => h.2 e (mem_kerase he)⟩
  · next hv =>
    refine ⟨kabove_kput m k v 0 (Nat.zero_le _) h.1, fun e he => ?_⟩
    rcases mem_kput he with he | he
    · rw [he]; exact hv
    · exact h.2 e he

theorem kcanon_kerase (d : β) {m : KMap β} (h : kcanon d m = true) (k : Nat) : kcanon d (kerase m k) = true := by
  simp only [kcanon, ksorted, Bool.and_eq_true, List.all_eq_true, decide_eq_true_eq] at h ⊢
  exact ⟨kabove_kerase m k 0 h.1, fun e he => h.2 e (mem_kerase he)⟩

theorem kcanon_ksetRun (d : β) (vs : List β) : ∀ {m : KMap β} (k : Nat), kcanon d m = true → kcanon d (ksetRun d m k vs) = true := by
  induction vs with
  | nil => intro m k h; exact h
  | cons v r ih => intro m k h; exact ih (k + 1) (kcanon_kset d h k v)

theorem kget_ksetRun_outside (d : β) (vs : List β) : ∀ (m : KMap β) (k j : Nat), (j < k ∨ k + vs.length ≤ j) →
    kget d (ksetRun d m k vs) j = kget d m j := by
  induction vs with
  | nil => intro m k j _; rfl
  | cons v r ih =>
    intro m k j h
    rw [List.length_cons] at h
    rw [ksetRun, ih _ _ _ (by omega), kget_kset_of_ne d m (by omega)]

theorem kget_ksetRun_inside (d : β) (vs : List β) : ∀ (m : KMap β) (k i : Nat) (h : i < vs.length),
    kget d (ksetRun d m k vs) (k + i) = vs[i] := by
  induction vs with
  | nil => intro m k i h; exact absurd h (Nat.not_lt_zero _)
  | cons v r ih =>
    intro m k i h
    rw [ksetRun]
    cases i with
    | zero => rw [kget_ksetRun_outside d r _ _ _ (.inl (by omega))]; simp
    | succ i =>
      have := ih (kset d m k v) (k + 1) i (by simpa using h)
      rw [show k + (i + 1) = k + 1 + i by omega, this]; rfl

end

/-- A canonical table is fixed by its values: equal memories are equal data. -/
theorem kcanon_ext [DecidableEq β] (d : β) : ∀ {m n : KMap β} (lo : Nat), kabove lo m = true → kabove lo n = true →
    (∀ e ∈ m, e.2 ≠ d) → (∀ e ∈ n, e.2 ≠ d) → (∀ k, kget d m k = kget d n k) → m = n := by
  have below : ∀ {m : KMap β} {lo k : Nat}, kabove lo m = true → k < lo → klookup m k = none := by
    intro m
    induction m with
    | nil => intro lo k _ _; rfl
    | cons e r ih =>
      obtain ⟨a, w⟩ := e
      intro lo k h hk
      simp only [kabove, Bool.and_eq_true, decide_eq_true_eq] at h
      have hne : ¬ a = k := by omega
      simp only [klookup, hne, if_false]
      exact ih h.2 (by omega)
  intro m
  induction m with
  | nil =>
    intro n lo _ hn _ hd hk
    cases n with
    | nil => rfl
    | cons e r =>
      have := hk e.1
      simp only [kget, klookup, Option.getD_none] at this
      exact absurd this.symm (by simpa using hd e List.mem_cons_self)
  | cons e r ih =>
    obtain ⟨a, w⟩ := e
    intro n lo hm hn hd hd' hk
    simp only [kabove, Bool.and_eq_true, decide_eq_true_eq] at hm
    cases n with
    | nil =>
      have := hk a
      simp only [kget, klookup, Option.getD_none, if_true, Option.getD_some] at this
      exact absurd this (hd (a, w) List.mem_cons_self)
    | cons e' r' =>
      obtain ⟨b, x⟩ := e'
      simp only [kabove, Bool.and_eq_true, decide_eq_true_eq] at hn
      have hw : w ≠ d := hd (a, w) List.mem_cons_self
      have hx : x ≠ d := hd' (b, x) List.mem_cons_self
      have hab : a = b := by
        rcases Nat.lt_trichotomy a b with h | h | h
        · have h1 := hk a
          have : klookup r' a = none := below hn.2 (by omega)
          simp [kget, klookup, this, show ¬ b = a by omega] at h1
          exact absurd h1 hw
        · exact h
        · have h1 := hk b
          have : klookup r b = none := below hm.2 (by omega)
          simp [kget, klookup, this, show ¬ a = b by omega] at h1
          exact absurd h1.symm hx
      subst hab
      have hwx : w = x := by have h1 := hk a; simpa [kget, klookup] using h1
      subst hwx
      have hr : r = r' := ih (a + 1) hm.2 hn.2 (fun e he => hd e (List.mem_cons_of_mem _ he))
        (fun e he => hd' e (List.mem_cons_of_mem _ he)) (fun k => by
          have h1 := hk k
          by_cases hka : a = k
          · subst hka
            simp [kget, below hm.2 (Nat.lt_succ_self a), below hn.2 (Nat.lt_succ_self a)]
          · simpa [kget, klookup, hka] using h1)
      rw [hr]

end Sys2Proof.Machine
end

