-- ==== Sys2Proof/Laws/Issue.lean ====
section
/-!
SUPPORT. Issue: the one outcome of an instruction that nothing stands in the way of.
-/

namespace Sys2Proof

open Machine

theorem State.modGroup_of (s : State) {gid : Nat} {g : Group} (h : klookup s.groups gid = some g) (f : Group → Group) :
    s.modGroup gid f = s.setGroup gid (f g) := by
  simp [State.modGroup, State.setGroup, kmap, h]

theorem earlyPends_right {g : Group} {t : Nat} {a b : List Item} (h : earlyPends g t (a ++ b) = []) : earlyPends g t b = [] := by
  unfold earlyPends at *
  rw [List.filter_eq_nil_iff] at *
  intro p hp hc
  apply h p hp
  simp only [Bool.and_eq_true, decide_eq_true_eq, List.contains_iff_mem, List.mem_append] at hc ⊢
  exact ⟨hc.1, .inr hc.2⟩

section
variable (sh : Shape) (gid : Nat) (g : Group) (h : Head) (t : Nat)
@[simp] theorem plainCtx_gid : (plainCtx sh gid g h t).gid = gid := rfl
@[simp] theorem plainCtx_g : (plainCtx sh gid g h t).g = g := rfl
@[simp] theorem plainCtx_h : (plainCtx sh gid g h t).h = h := rfl
@[simp] theorem plainCtx_ps : (plainCtx sh gid g h t).ps = g.parts h.guard := rfl
@[simp] theorem plainCtx_uni : (plainCtx sh gid g h t).uni = (sh.form && isUniform sh h) := rfl
@[simp] theorem plainCtx_t : (plainCtx sh gid g h t).t = t := rfl
end

/-- What `issue` answers where nothing stands in the way (R60): the effect, settled. -/
theorem issue_clear {sh : Group → Shape} {h : Head} {body : Ctx → State → Effect} {s : State} {gid : Nat} {g : Group}
    (hc : Clear (sh g) s gid g h) :
    issue sh h body s =
      .next (settle (sh g) (plainCtx (sh g) gid g h s.clock) g s (body (plainCtx (sh g) gid g h s.clock) s)) := by
  obtain ⟨⟨⟨hcur, hg⟩, ⟨hdmr, hrf, hlc, hlp⟩, hill, hsup, hwait, hearly⟩, hix, hpo⟩ := hc
  have hrf' : (!g.rfPend.isEmpty && !g.rfHold) = false := by rcases hrf with h | h <;> simp [h]
  have hsup' : ((sh g).super && !g.sup) = false := by
    cases h1 : (sh g).super
    · rfl
    · simp [hsup h1]
  have hdrop : dropPending s gid g = s := by simp [dropPending, hdmr, hrf', hlc]
  have heff : effectIn (sh g) (plainCtx (sh g) gid g h s.clock) s body = body (plainCtx (sh g) gid g h s.clock) s := by
    have h1 : indexFails (sh g) (plainCtx (sh g) gid g h s.clock).g (plainCtx (sh g) gid g h s.clock).h
        (plainCtx (sh g) gid g h s.clock).ps = [] := hix
    have h2 : poisonFails (sh g) (plainCtx (sh g) gid g h s.clock).g (plainCtx (sh g) gid g h s.clock).h
        (plainCtx (sh g) gid g h s.clock).ps = [] := hpo
    have h3 : (if (sh g).mute || (sh g).poisonLast then [] else ([] : List (Nat × W64))) = [] := by split <;> rfl
    simp only [effectIn, h1, h2, h3]
  have hof : effectOf (sh g) gid g h s body =
      (plainCtx (sh g) gid g h s.clock, body (plainCtx (sh g) gid g h s.clock) s) := by
    simp only [effectOf, hdmr, hrf', hlc, hlp, hill, hsup', hwait, hearly, heff, Bool.false_eq_true, if_false]
    split <;> rfl
  simp only [issue, hcur, hg, hof, hdrop]

/-- An instruction whose effect is done goes on at the next one. -/
theorem issue_done {sh : Group → Shape} {h : Head} {body : Ctx → State → Effect} {s : State} {gid : Nat} {g : Group} {t : State}
    (hc : Clear (sh g) s gid g h) (hb : body (plainCtx (sh g) gid g h s.clock) s = .done t) :
    issue sh h body s = .next (ran (sh g) s gid g h t) := by
  rw [issue_clear hc, hb]; rfl

/-- An instruction that transfers control goes on at its target. -/
theorem issue_jump {sh : Group → Shape} {h : Head} {body : Ctx → State → Effect} {s : State} {gid : Nat} {g : Group} {t : State} {pc : W64}
    (hc : Clear (sh g) s gid g h) (hb : body (plainCtx (sh g) gid g h s.clock) s = .jump t pc) :
    issue sh h body s = .next (ranTo (sh g) s gid g h pc t) := by
  rw [issue_clear hc, hb]; rfl

/-- An instruction that begins to wait. -/
theorem issue_block {sh : Group → Shape} {h : Head} {body : Ctx → State → Effect} {s : State} {gid : Nat} {g : Group} {t : State} {w : Wait}
    (hc : Clear (sh g) s gid g h) (hb : body (plainCtx (sh g) gid g h s.clock) s = .block t w) :
    issue sh h body s = .next (waits (sh g) gid g h w t) := by
  rw [issue_clear hc, hb]
  have h0 : earlyPends g s.clock (itemsWritten (sh g) g h) = [] := earlyPends_right hc.1.2.2.2.2.2
  simp only [settle, plainCtx, h0, noteLate, noteHeld]
  rfl

/-- An effect that leaves a state as it stands. -/
theorem issue_stop {sh : Group → Shape} {h : Head} {body : Ctx → State → Effect} {s : State} {gid : Nat} {g : Group} {t : State}
    (hc : Clear (sh g) s gid g h) (hb : body (plainCtx (sh g) gid g h s.clock) s = .stop t) :
    issue sh h body s = .next t := by
  rw [issue_clear hc, hb]; rfl

/-- A trap at the instruction (R60). -/
theorem issue_trap {sh : Group → Shape} {h : Head} {body : Ctx → State → Effect} {s : State} {gid : Nat} {g : Group} {cause : Nat}
    {ls : List (Nat × W64)} (hc : Clear (sh g) s gid g h) (hb : body (plainCtx (sh g) gid g h s.clock) s = .trap cause ls) :
    issue sh h body s = .next (trapAt s gid g cause ls) := by
  rw [issue_clear hc, hb]; rfl

/-- A trap that saves the next address (R456). -/
theorem issue_after {sh : Group → Shape} {h : Head} {body : Ctx → State → Effect} {s : State} {gid : Nat} {g : Group} {t : State} {cause : Nat}
    {ls : List (Nat × W64)} (hc : Clear (sh g) s gid g h) (hb : body (plainCtx (sh g) gid g h s.clock) s = .after t cause ls) :
    issue sh h body s = .next (if g.sup then trapAt s gid g cause ls
      else (ran (sh g) s gid g h t).takeTrap gid { cause := cause, lanes := ls, tpc := g.pc + headLen h }) := by
  rw [issue_clear hc, hb]
  cases hs : g.sup <;> simp [settle, hs, ran, ranTo, plainCtx]

/-- Without an open transaction R329 takes no lane out. -/
theorem outsideTx_eq {sh : Shape} {gid : Nat} {g : Group} {h : Head} {t : Nat} (hn : NoTx g h) (body : Ctx → State → Effect) (s : State) :
    outsideTx body (plainCtx sh gid g h t) s = body (plainCtx sh gid g h t) s := by
  have h1 : (plainCtx sh gid g h t).txLanes = [] := hn
  simp only [outsideTx, h1]

theorem plain_eq {sh : Shape} {gid : Nat} {g : Group} {h : Head} {t : Nat} (hn : NoTx g h) :
    (plainCtx sh gid g h t).plain = g.parts h.guard := by
  have h1 : ∀ l ∈ g.parts h.guard, ¬ (g.lane l).tx.isOpen = true := by simpa [List.filter_eq_nil_iff] using hn
  have h2 : (plainCtx sh gid g h t).plain = (g.parts h.guard).filter fun l => !(g.lane l).tx.isOpen := rfl
  rw [h2, List.filter_eq_self]
  intro l hl
  simpa using h1 l hl

theorem txLanes_eq {sh : Shape} {gid : Nat} {g : Group} {h : Head} {t : Nat} (hn : NoTx g h) :
    (plainCtx sh gid g h t).txLanes = [] := hn

/-- Looks without a cause raise none (R232). -/
theorem firstCause_none {ls : List LaneLook} (h : AllResident ls) : firstCause ls = none := by
  have h1 : ls.filterMap (fun x => x.cause.map (·.1)) = [] := by
    rw [List.filterMap_eq_nil_iff]; intro x hx; simp [(h x hx).1]
  simp only [firstCause, h1]; rfl

theorem noMiss {ls : List LaneLook} (h : AllResident ls) : (ls.any fun x => !x.miss.isEmpty) = false := by
  rw [List.any_eq_false]; intro x hx; simp [(h x hx).2.1]

theorem noWait {ls : List LaneLook} (h : AllResident ls) : (ls.any (·.wait)) = false := by
  rw [List.any_eq_false]; intro x hx; simp [(h x hx).2.2]

theorem filter_resident {ls : List LaneLook} (h : AllResident ls) : ls.filter (fun x => x.miss.isEmpty) = ls := by
  rw [List.filter_eq_self]; intro x hx; simp [(h x hx).2.1]

/-- The completion of an instruction whose body is done wherever `pre` holds. -/
theorem completes_of {i : Instr} {sh : Group → Shape} {h : Head} {body : Ctx → State → Effect} {pre : State → Nat → Group → Prop}
    {eff : State → Nat → Group → State} (hi : ∀ s, exec i s = issue sh h body s)
    (hb : ∀ s gid g, pre s gid g → body (plainCtx (sh g) gid g h s.clock) s = .done (eff s gid g)) : Completes i sh h pre eff := by
  intro s gid g hc hp
  rw [hi, issue_done hc (hb s gid g hp)]

/-- `compute` writes its result (R35, R47). -/
theorem compute_done (sh : Shape) (f : Nat → Nat → Nat → Nat) (s : State) (gid : Nat) (g : Group) (h : Head) (t : Nat) :
    compute (fun _ => sh) f (plainCtx sh gid g h t) s = .done (writeResult sh g h (resultOf sh g h f) s gid) := by
  unfold compute writeResult
  by_cases h1 : (g.parts h.guard).isEmpty = true
  · simp only [plainCtx, h1, if_true]
  · by_cases h2 : (sh.form && isUniform sh h) = true
    · simp only [plainCtx, h1, h2, if_true]; rfl
    · simp only [plainCtx, h1, h2]; rfl

/-- An instruction whose meaning is `compute` computes. -/
theorem computes_of {i : Instr} {sh : Shape} {h : Head} {f : Group → Nat → Nat → Nat → Nat}
    (hi : ∀ s, exec i s = issue (fun _ => sh) h (fun c s => compute (fun _ => sh) (f c.g) c s) s) : Computes i sh h f :=
  completes_of hi fun s gid g _ => compute_done sh (f g) s gid g h s.clock

/-- `test` writes its outcome (R186). -/
theorem test_done (sh : Group → Shape) (f : Nat → Nat → Bool) (s : State) (gid : Nat) (g : Group) (h : Head) (t : Nat) :
    test sh f (plainCtx (sh g) gid g h t) s =
      .done (writeTest (sh g) g h (fun l => f (srcA (sh g) g h l) (srcB (sh g) g h l)) s gid) := by
  unfold test writeTest
  by_cases h1 : (g.parts h.guard).isEmpty = true
  · simp only [plainCtx, h1, if_true]
  · by_cases h2 : ((sh g).form && isUniform (sh g) h) = true
    · simp only [plainCtx, h1, h2, if_true]; rfl
    · simp only [plainCtx, h1, h2]; rfl

/-- An instruction whose meaning is `test` tests. -/
theorem tests_of {i : Instr} {sh : Group → Shape} {h : Head} {f : Group → Nat → Nat → Bool}
    (hi : ∀ s, exec i s = issue sh h (fun c s => test sh (f c.g) c s) s) : Tests i sh h f :=
  completes_of hi fun s gid g _ => test_done sh (f g) s gid g h s.clock

/-! ## Results written -/

theorem ofNat_srcA (sh : Shape) (g : Group) (h : Head) (l : Nat) : BitVec.ofNat 64 (srcA sh g h l) = readOp g (opndOf sh.a) h.a l := by
  simp [srcA]

theorem ofNat_srcB (sh : Shape) (g : Group) (h : Head) (l : Nat) : BitVec.ofNat 64 (srcB sh g h l) = readOp g (opndOf sh.b) h.b l := by
  simp [srcB]

/-- A vector result given as patterns (R43, R44). -/
theorem inLanes_toNat (sh : Shape) (g : Group) (h : Head) (v : Nat → W64) :
    inLanes sh g h (fun l => (v l).toNat) = fun g1 => g1.modLanes (g.parts h.guard) fun l ln => writeOp g (opndOf sh.d) h.d l (v l) ln := by
  funext g1; simp [inLanes]

theorem whereLanes_of_empty {g : Group} {h : Head} (he : (g.parts h.guard).isEmpty = true) (s t : State) : whereLanes g h s t = s := by
  simp [whereLanes, he]

theorem whereLanes_of_nonempty {g : Group} {h : Head} (he : ¬ (g.parts h.guard).isEmpty = true) (s t : State) : whereLanes g h s t = t := by
  simp [whereLanes, he]

end Sys2Proof
end

