-- ==== Sys2Proof/Laws/Access.lean ====
section
/-!
SUPPORT. Loads, stores and atomics whose lanes meet no cause and whose pages are resident: what the shared parts of their meanings do.
-/

namespace Sys2Proof

open Machine

theorem txLoads_nil (s : State) (c : Ctx) (asid : Nat) : s.txLoads c asid [] = (s, []) := rfl
theorem txStores_nil (s : State) (c : Ctx) (asid : Nat) (data : Nat → List Byte) : s.txStores c asid [] data = s := rfl

theorem txAdmit_nil (s : State) (gid : Nat) {g : Group} (h : g.sent = none) : s.txAdmit gid g [] = (some s, s) := by
  simp only [State.txAdmit, h]; rfl

/-- A lane whose sources are not poisoned keeps its look (R474). -/
theorem poisonLook_eq {sh : Shape} {cvt : Bool} {c : Ctx} {x : LaneLook} (h : poisonFails sh c.g c.h c.ps = []) (hx : x.lane ∈ c.ps) :
    poisonLook sh cvt c x = x := by
  have h1 : poisonFails sh c.g c.h [x.lane] = [] := by
    unfold poisonFails at h ⊢
    rw [List.filterMap_eq_nil_iff] at h ⊢
    intro y hy
    rw [List.mem_singleton] at hy
    exact hy ▸ h _ hx
  unfold poisonLook; rw [h1]

/-- A load whose lanes are all resident enters flight. -/
theorem loadGo_ready (c : Ctx) (s : State) {looks : List LaneLook} (size scope : Nat) (cvt : Option W32) (acq : Bool) (items : List Item)
    (hr : AllResident looks) (hne : looks ≠ []) (hs : c.g.sent = none) :
    let r := (s.usePieces c.g .read looks).sendGather c.g scope looks
    let L : Load :=
      { gid := c.gid, lanes := looks.map (loadLane c), uni := [], size := size, ty := c.h.ty, part := partOf c.h.d, scal := none,
        cvt := cvt, scope := scope, acq := acq, gather := r.2 }
    loadGo c s looks [] size scope none cvt acq items = .done (r.1.postLoad c L items).1 := by
  have hm := noMiss hr
  have hfl := filter_resident hr
  have hxs : (looks.map (loadLane c)).isEmpty = false := by simpa using hne
  simp only [loadGo, txAdmit_nil _ _ hs, txLoads_nil, List.map_nil, List.append_nil, hfl, hm, hxs]
  rfl

/-- The one access of ldu enters flight. -/
theorem loadGo_ready_scal (c : Ctx) (s : State) {look : LaneLook} (size scope k : Nat) (acq : Bool) (items : List Item)
    (hr : AllResident [look]) (hs : c.g.sent = none) :
    let s2 := s.usePieces c.g .read [look]
    let L : Load :=
      { gid := c.gid, lanes := [loadLane c look], uni := c.ps, size := size, ty := c.h.ty, part := partOf c.h.d, scal := some k,
        cvt := none, scope := scope, acq := acq, gather := [] }
    loadGo c s [look] [] size scope (some k) none acq items = .done (s2.postLoad c L items).1 := by
  have hm := noMiss hr
  have hfl := filter_resident hr
  simp only [loadGo, txAdmit_nil _ _ hs, txLoads_nil, List.map_nil, List.append_nil, hfl, hm, List.map_cons, List.mergeSort_singleton,
    List.take_succ_cons, List.take_nil]
  rfl

/-- A store whose lanes are all resident enters the queue. -/
theorem storeGo_ready (c : Ctx) (s : State) {looks : List LaneLook} (data : Nat → List Byte) (entry : LaneLook → List Nat)
    (hset : LaneLook → List LaneLook) (hr : AllResident looks) :
    storeGo c s looks [] data entry hset = .done ((s.usePieces c.g .write looks).queueStores c.gid
      (looks.map fun x => (entry x, x.va, x.chunks, data x.lane)) (accCol c.h.b) (scopeOf c.h.mods) (c.h.mods.getLsbD 3) none) := by
  simp only [storeGo, anyWait, noWait hr, Bool.or_false, firstCause_none hr, noMiss hr, List.any_nil, Bool.false_eq_true, if_false, txStores_nil]

/-- Atomics whose lanes are all resident and which nothing holds back act on every lane. -/
theorem atomGo_ready (c : Ctx) (s : State) {looks : List LaneLook} (reqs : List LaneLook → List AtomReq) (n : Nat) (scal : Option Nat)
    (ret : Bool) (items : List Item) (hset : LaneLook → List LaneLook) (hr : AllResident looks) {s1 s3 : State} {ls : List AtomLane}
    (h1 : s.atomReady c looks (atomReach c.h looks) = some s1)
    (h3 : (s1.usePieces c.g .atomic looks).allAtomics c (atomOp c.h) c.h.ty.code.toNat n (atomScope c.h)
      (s1.usePieces c.g .atomic looks).nextOp (reqs looks) = some (s3, ls)) (hd : ∀ x ∈ ls, x.done.isSome = true) :
    atomGo c s looks reqs n scal ret items hset = .done (s3.finishAtom s3.nextOp
      { gid := c.gid, lanes := ls, parts := c.ps, ty := c.h.ty, scal := scal, ret := ret, acq := atomAcq c.h, colour := atomColour c.h }
      (atomReach c.h looks)) := by
  have hd' : (ls.all fun x => x.done.isSome) = true := by simpa [List.all_eq_true] using hd
  simp only [atomGo, noWait hr, firstCause_none hr, noMiss hr, h1, h3, hd', Bool.false_eq_true, if_false, if_true]

end Sys2Proof
end

