-- ==== Sys2Proof/Laws/Frames.lean ====
section
/-!
SUPPORT. What the shared operations of a group's instruction can change: lanes, post-increment and settling; traps, restarts and issue.
-/

namespace Sys2Proof.Machine

/-! ## Lanes, rows and settling -/

/-- A lane after a change of some lanes. -/
theorem lane_modLanes (g : Group) (ls : List Nat) (f : Nat → Lane → Lane) (l : Nat) :
    (g.modLanes ls f).lane l = if l ∈ ls ∧ l < g.lanes.length then f l (g.lane l) else g.lane l := by
  simp only [Group.modLanes, Group.lane, List.getD, List.getElem?_mapIdx]
  by_cases hl : l < g.lanes.length
  · simp only [List.getElem?_eq_getElem hl, Option.map_some, Option.getD_some, hl, and_true]
    by_cases hc : l ∈ ls <;> simp [hc]
  · simp only [List.getElem?_eq_none (Nat.le_of_not_lt hl), Option.map_none, Option.getD_none, hl, and_false, if_false]

/-- Post-increment reaches only the named index registers of the named lanes. -/
theorem postInc_lane (ixs ls : List Nat) : ∀ (g : Group) (l : Nat),
    (l ∉ ls → (postInc g ixs ls).lane l = g.lane l) ∧
    (postInc g ixs ls).lane l = { g.lane l with offs := ((postInc g ixs ls).lane l).offs } ∧
    ∀ k, k ∉ ixs → ((postInc g ixs ls).lane l).off k = (g.lane l).off k := by
  induction ixs with
  | nil => intro g l; exact ⟨fun _ => rfl, rfl, fun _ _ => rfl⟩
  | cons a r ih =>
    intro g l
    unfold postInc
    obtain ⟨h1, h2, h3⟩ := ih (g.modLanes ls fun _ ln => ln.setOff a (ln.off a + (g.index a).step.signExtend 12)) l
    have hl := lane_modLanes g ls (fun _ ln => ln.setOff a (ln.off a + (g.index a).step.signExtend 12)) l
    refine ⟨fun hn => ?_, ?_, fun k hk => ?_⟩
    · rw [h1 hn, hl]; simp [hn]
    · rw [hl] at h2
      rw [h2]
      split <;> rfl
    · rw [h3 k (fun x => hk (List.mem_cons_of_mem _ x)), hl]
      have hka : k ≠ a := fun x => hk (x ▸ List.mem_cons_self)
      split
      · simp only [Lane.off, Lane.setOff]; rw [kget_kset_of_ne _ _ hka]
      · rfl

/-- The group after an instruction that went on, without a restart region. -/
theorem settle_frame {sh : Shape} {gid n : Nat} {g g1 : Group} {h : Head} {t : Nat} {pc : W64} (hr : sh.region = false)
    (he : earlyPends g t (itemsWritten sh g h) = []) (hsk : sh.skipIx = none) :
    ∃ q pd sg, settleGroup sh (plainCtx sh gid g h t) n g g1 pc =
      { postInc { g1 with pend := pd } ((postIxs h)) (g.parts h.guard) with pc := pc, sig := sg, readyAt := q, wait := .none, held := none } := by
  have he' : earlyPends g (plainCtx sh gid g h t).t (itemsWritten sh (plainCtx sh gid g h t).g (plainCtx sh gid g h t).h) = [] := he
  simp only [settleGroup, he', earlyWrites, hr, Bool.false_and, Bool.false_eq_true, if_false, Group.advance, hsk]
  have : (List.filter (fun k => (none : Option Nat) != some k) (postIxs (plainCtx sh gid g h t).h)) = postIxs h := by
    rw [List.filter_eq_self.2 (fun k _ => by simp)]; rfl
  rw [this]
  exact ⟨_, _, _, rfl⟩

theorem getS_setS (g : Group) (n k : Nat) (v : W64) (h : k ≠ n) : (g.setS n v).getS k = g.getS k := by
  unfold Group.setS; split
  · rfl
  · simp only [Group.getS]; rw [kget_kset_of_ne _ _ h]

theorem laneWrite_eq (ty : Ty) (dup : Bool) (part : Nat) (ln : Lane) (r : Nat) (v : W64) :
    laneWrite ty dup part ln r v = { ln with rows := (laneWrite ty dup part ln r v).rows, poison := (laneWrite ty dup part ln r v).poison } := by
  unfold laneWrite
  split
  · rfl
  · split <;> rfl

/-- A write to a lane leaves the rows outside its operand. -/
theorem laneWrite_row (o : Opnd) (part : Nat) (ln : Lane) (r : Nat) (v : W64) (q : Nat) (h : q < r ∨ r + opndRows o ≤ q) :
    (laneWrite o.ty o.dup part ln r v).row q = ln.row q := by
  unfold laneWrite
  by_cases hp : (tyPair o.ty || o.dup) = true
  · rw [if_pos hp]
    have : 2 ≤ opndRows o := by unfold opndRows opndPair; rw [if_pos hp]; omega
    simp only [Lane.setPair, Lane.setRow, Lane.row]
    rw [kget_kset_of_ne _ _ (by omega), kget_kset_of_ne _ _ (by omega)]
  · rw [if_neg hp]
    have : 1 ≤ opndRows o := by unfold opndRows; split <;> omega
    split <;> (simp only [Lane.setRow, Lane.row]; rw [kget_kset_of_ne _ _ (by omega)])

theorem parts_lt {g : Group} {gd : Guard} {l : Nat} (h : l ∈ g.parts gd) : l < g.lanes.length := by
  have : (g.lane l).live = true := by
    unfold Group.parts Group.lanesWhere at h
    simp only [List.mem_filter, Lane.active, Lane.eligible, Bool.and_eq_true] at h
    exact h.2.1.1.1
  by_contra hl
  simp [Group.lane, List.getD, List.getElem?_eq_none (Nat.le_of_not_lt hl)] at this

/-! ## Traps, restarts and issue -/

/-- Nothing but group `gid` differs. -/
def OnlyGroup (gid : Nat) (s t : State) : Prop := t = { s with groups := t.groups } ∧ ∀ k, k ≠ gid → klookup t.groups k = klookup s.groups k
theorem OnlyGroup.refl (gid : Nat) (s : State) : OnlyGroup gid s s := ⟨rfl, fun _ _ => rfl⟩
theorem OnlyGroup.trans {gid : Nat} {a b c : State} (h : OnlyGroup gid a b) (h' : OnlyGroup gid b c) : OnlyGroup gid a c :=
  ⟨by obtain ⟨h, -⟩ := h; obtain ⟨h', -⟩ := h'; rw [h', h], fun k hk => (h'.2 k hk).trans (h.2 k hk)⟩
theorem OnlyGroup.mod (gid : Nat) (s : State) (f : Group → Group) : OnlyGroup gid s (s.modGroup gid f) :=
  ⟨rfl, fun _ hk => klookup_kmap_of_ne _ hk _⟩
theorem OnlyGroup.set (gid : Nat) (s : State) (g : Group) : OnlyGroup gid s (s.setGroup gid g) :=
  ⟨rfl, fun _ hk => klookup_kput_of_ne _ hk _⟩

/-- The state an effect carries differs in the acting group only. -/
def EffectOnly (gid : Nat) (s : State) : Effect → Prop
  | .done t => OnlyGroup gid s t
  | .jump t _ => OnlyGroup gid s t
  | .after t _ _ => OnlyGroup gid s t
  | .block t _ => OnlyGroup gid s t
  | .stop t => OnlyGroup gid s t
  | _ => True

/-- What an instruction that reaches no memory can change, its traps included. -/
def KeepsMemory (gid : Nat) (s t : State) : Prop :=
  t = { s with groups := t.groups, teams := t.teams, pool := t.pool, dies := t.dies, logs := t.logs, xa := t.xa,
               mem := { s.mem with l2q := t.mem.l2q } } ∧
  (∀ k, k ≠ gid → klookup t.groups k = klookup s.groups k) ∧
  (∀ k, (klookup t.teams k).map Team.scratch = (klookup s.teams k).map Team.scratch) ∧
  t.xa.slots = s.xa.slots ∧ t.xa.keys = s.xa.keys

theorem KeepsMemory.of {gid : Nat} {s t : State} (h : OnlyGroup gid s t) : KeepsMemory gid s t := by
  obtain ⟨h1, h2⟩ := h
  rw [h1]
  exact ⟨rfl, h2, fun _ => rfl, rfl, rfl⟩
theorem KeepsMemory.trans {gid : Nat} {a b c : State} (h : KeepsMemory gid a b) (h' : KeepsMemory gid b c) : KeepsMemory gid a c := by
  obtain ⟨h1, h2, h3, h4, h5⟩ := h; obtain ⟨k1, k2, k3, k4, k5⟩ := h'
  exact ⟨by rw [k1]; rw [h1], fun k hk => (k2 k hk).trans (h2 k hk), fun k => (k3 k).trans (h3 k), k4.trans h4, k5.trans h5⟩
/-- It changes no byte of memory. -/
theorem KeepsMemory.home {gid : Nat} {s t : State} (h : KeepsMemory gid s t) (a : Nat) : t.homeByte a = s.homeByte a := by
  obtain ⟨h1, -, -, h4, h5⟩ := h
  have hs : t.hasStorage a = s.hasStorage a := by rw [h1]; rfl
  have hb : t.mem.bytes = s.mem.bytes := by rw [h1]
  have ht : t.mem.tags = s.mem.tags := by rw [h1]
  have hl : t.mem.l2 = s.mem.l2 := by rw [h1]
  have hr : t.regionEntry = s.regionEntry := by unfold State.regionEntry; rw [h1]
  unfold State.homeByte State.slotByte State.tagFor State.slot State.keyByte State.macTag
  rw [hs, hb, ht, hl, h4, h5, hr]

theorem notePriv_keeps (gid : Nat) (s : State) (a : Nat) : KeepsMemory gid s (s.notePriv a) := by
  unfold State.notePriv
  simp only []
  split <;> exact ⟨rfl, fun _ _ => rfl, fun _ => rfl, rfl, rfl⟩
theorem teamFault_keeps (gid : Nat) (s : State) (t : Nat) : KeepsMemory gid s (s.teamFault t) := by
  unfold State.teamFault
  split
  · exact KeepsMemory.of (OnlyGroup.refl ..)
  · rename_i tm h
    refine ⟨rfl, fun _ _ => rfl, fun k => ?_, rfl, rfl⟩
    show (klookup (kput s.teams t _) k).map _ = _
    rw [klookup_kput]; split
    · rename_i hk; rw [hk, h]; rfl
    · rfl
theorem doubleTrap_keeps (gid : Nat) (s : State) (g : Group) (a : Nat) : KeepsMemory gid s (s.doubleTrap gid g a) := by
  unfold State.doubleTrap
  simp only []
  split
  · exact ⟨rfl, fun k hk => klookup_kmap_of_ne _ hk _, fun _ => rfl, rfl, rfl⟩
  · refine KeepsMemory.trans (b := s.report (dieOf g.core) 13 a g.core (g.pc.toNat % 2 ^ 52)) ⟨rfl, fun _ _ => rfl, fun _ => rfl, rfl, rfl⟩ (teamFault_keeps ..)
theorem takeTrap_cases_keep (gid : Nat) (s : State) (c : Prop) [Decidable c] (d e : Bool) (g g1 g2 : Group) (x y tm: Nat) : KeepsMemory gid s
    (let s1 := if c then (s.setGroup gid g1).notePriv x else s.setGroup gid g1
     if d = true then s1.doubleTrap gid g y else if (!e) = true then s1.teamFault tm else s1.setGroup gid g2) := by
  have h1 : KeepsMemory gid s (if c then (s.setGroup gid g1).notePriv x else s.setGroup gid g1) := by
    split
    · exact (KeepsMemory.of (OnlyGroup.set ..)).trans (notePriv_keeps ..)
    · exact KeepsMemory.of (OnlyGroup.set ..)
  revert h1
  generalize (if c then (s.setGroup gid g1).notePriv x else s.setGroup gid g1) = s2
  intro h1
  refine h1.trans ?_
  cases d <;> cases e
  · exact teamFault_keeps ..
  · exact KeepsMemory.of (OnlyGroup.set ..)
  · exact doubleTrap_keeps ..
  · exact doubleTrap_keeps ..
theorem takeTrap_keeps (gid : Nat) (s : State) (tr : Trap) : KeepsMemory gid s (s.takeTrap gid tr) := by
  unfold State.takeTrap
  split
  · exact KeepsMemory.of (OnlyGroup.refl ..)
  · exact takeTrap_cases_keep ..
theorem dropSent_keeps (gid : Nat) (s : State) (g : Group) : KeepsMemory gid s (s.dropSent gid g) := by
  unfold State.dropSent
  split
  · exact KeepsMemory.trans (b := s.dropReqs _) ⟨rfl, fun _ _ => rfl, fun _ => rfl, rfl, rfl⟩ (KeepsMemory.of (OnlyGroup.mod ..))
  · exact KeepsMemory.of (OnlyGroup.refl ..)
theorem trapAt_keeps (gid : Nat) (s : State) (g : Group) (c : Nat) (ls) : KeepsMemory gid s (trapAt s gid g c ls) :=
  ((dropSent_keeps ..).trans (takeTrap_keeps ..)).trans (KeepsMemory.of (OnlyGroup.mod ..))
theorem failOrRestart_keeps (gid : Nat) (s : State) (g : Group) (a : Nat) (f : State → State) (hf : ∀ s, KeepsMemory gid s (f s)) : KeepsMemory gid s (failOrRestart s gid g a f) := by
  unfold failOrRestart
  split
  · exact hf s
  · split
    · exact KeepsMemory.of (OnlyGroup.refl ..)
    · split
      · exact (KeepsMemory.of (OnlyGroup.mod ..)).trans (hf _)
      · exact (KeepsMemory.of (OnlyGroup.set ..)).trans ⟨rfl, fun _ _ => rfl, fun _ => rfl, rfl, rfl⟩
theorem settle_keeps (sh : Shape) (c : Ctx) (g0 : Group) (s0 s : State) (e : Effect) (h : EffectOnly c.gid s0 e) (h0 : OnlyGroup c.gid s0 s) : KeepsMemory c.gid s0 (settle sh c g0 s e) := by
  have hk := KeepsMemory.of h0
  cases e with
  | done t => exact KeepsMemory.of (OnlyGroup.trans h (OnlyGroup.mod ..))
  | jump t pc => exact KeepsMemory.of (OnlyGroup.trans h (OnlyGroup.mod ..))
  | trap c ls => exact hk.trans (trapAt_keeps ..)
  | poison ls => exact hk.trans (failOrRestart_keeps _ _ _ _ _ fun s => (KeepsMemory.of (OnlyGroup.mod ..)).trans (trapAt_keeps ..))
  | after t cause ls =>
    simp only [settle]
    split
    · exact hk.trans (trapAt_keeps ..)
    · exact (KeepsMemory.of (OnlyGroup.trans h (OnlyGroup.mod ..))).trans (takeTrap_keeps ..)
  | retry => exact hk
  | block t w => exact KeepsMemory.of (OnlyGroup.trans h (OnlyGroup.mod ..))
  | stop t => exact KeepsMemory.of h

theorem causeFirst_only {gid : Nat} {s : State} {cs : List Nat} {e o : Effect} (h : EffectOnly gid s o) : EffectOnly gid s (causeFirst cs e o) := by
  unfold causeFirst
  split
  · split
    · trivial
    · exact h
  · exact h
theorem effectIn_only {sh : Shape} {c : Ctx} {s : State} {body : Ctx → State → Effect} (h : EffectOnly c.gid s (body c s)) : EffectOnly c.gid s (effectIn sh c s body) := by
  unfold effectIn
  split
  · exact causeFirst_only trivial
  · split
    · exact causeFirst_only trivial
    · exact h
theorem privEffect_only {sh : Shape} {gid : Nat} {g : Group} {h : Head} {s : State} {body : Ctx → State → Effect} :
    (privEffect sh gid g h s body).1.gid = gid ∧ EffectOnly gid s (privEffect sh gid g h s body).2 := by
  unfold privEffect
  simp only []
  repeat' split
  all_goals exact ⟨rfl, by first | trivial | exact causeFirst_only trivial⟩
theorem effectOf_only {sh : Shape} {gid : Nat} {g : Group} {h : Head} {s : State} {body : Ctx → State → Effect} (hb : ∀ c, c.gid = gid → EffectOnly gid s (body c s)) :
    (effectOf sh gid g h s body).1.gid = gid ∧ EffectOnly gid s (effectOf sh gid g h s body).2 := by
  unfold effectOf
  simp only []
  repeat' split
  all_goals first
    | exact ⟨rfl, trivial⟩
    | exact privEffect_only
    | exact ⟨rfl, effectIn_only (hb _ rfl)⟩
    | (refine ⟨rfl, ?_⟩; unfold stallEffect; simp only []; split; exact trivial; exact causeFirst_only trivial)
theorem dropPending_only (s : State) (gid : Nat) (g : Group) : OnlyGroup gid s (dropPending s gid g) := by
  unfold dropPending
  repeat' split
  all_goals first | exact OnlyGroup.mod .. | exact OnlyGroup.refl ..

/-- An instruction whose effect reaches its own group only, also where it traps, waits or restarts. -/
theorem issue_keeps {sh : Group → Shape} {h : Head} {body : Ctx → State → Effect} {s t : State} {gid : Nat} (hc : s.cur = .group gid)
    (hb : ∀ (c : Ctx) (s : State), EffectOnly c.gid s (body c s)) (hi : issue sh h body s = .next t) : KeepsMemory gid s t := by
  unfold issue at hi
  rw [hc] at hi
  simp only [] at hi
  split at hi
  · rename_i g hg
    cases hi
    obtain ⟨h1, h2⟩ := effectOf_only (sh := sh g) (g := g) (h := h) (s := s) (body := body) (gid := gid) fun c hc => hc ▸ hb c s
    have hd := dropPending_only s gid g
    have := settle_keeps (sh g) (effectOf (sh g) gid g h s body).1 g s (dropPending s gid g) (effectOf (sh g) gid g h s body).2 (by rw [h1]; exact h2) (by rw [h1]; exact hd)
    rw [h1] at this
    exact this
  · cases hi

theorem onGroup_only (c : Ctx) (s : State) (f : Group → Group) : EffectOnly c.gid s (c.onGroup s f) := OnlyGroup.mod ..
theorem compute_only (sh f) (c : Ctx) (s : State) : EffectOnly c.gid s (compute sh f c s) := by
  unfold compute; simp only []; repeat' split
  all_goals first | exact OnlyGroup.refl .. | exact onGroup_only ..
theorem test_only (sh f) (c : Ctx) (s : State) : EffectOnly c.gid s (test sh f c s) := by
  unfold test; simp only []; repeat' split
  all_goals first | exact OnlyGroup.refl .. | exact onGroup_only ..
theorem goTo_only (gid : Nat) (s s' : State) (t ls) (h : OnlyGroup gid s s') : EffectOnly gid s (goTo s' t ls) := by
  unfold goTo; split; trivial; exact h
theorem jumpIfNone_only (c : Ctx) (s : State) (f) : EffectOnly c.gid s (jumpIfNone c s f) := by
  unfold jumpIfNone; split; exact OnlyGroup.mod ..; exact onGroup_only ..
theorem structured_only (c : Ctx) (s : State) (f : Nat → Lane → Nat) (e : Effect) (h : EffectOnly c.gid s e) : EffectOnly c.gid s (structured c f e) := by
  unfold structured; split; trivial; exact h
theorem orPoison_only (c : Ctx) (s : State) (p : List (Nat × W64)) (e : Effect) (h : EffectOnly c.gid s e) : EffectOnly c.gid s (orPoison p e) := by
  unfold orPoison; split; exact h; trivial
theorem outsideTx_only (body : Ctx → State → Effect) (h : ∀ c s, EffectOnly c.gid s (body c s)) (c : Ctx) (s : State) : EffectOnly c.gid s (outsideTx body c s) := by
  have ht : ∀ (s s1 : State) (gid : Nat) (e : Effect), OnlyGroup gid s s1 → EffectOnly gid s1 e → EffectOnly gid s e := by
    intro s s1 gid e h h'; cases e <;> first | trivial | exact OnlyGroup.trans h h'
  unfold outsideTx
  split
  · exact h c s
  · simp only []
    have hd : ∀ ls a b, OnlyGroup c.gid s (s.doomLanes c.gid ls a b) := by intro ls a b; exact OnlyGroup.mod ..
    split
    · exact hd ..
    · exact ht _ _ _ _ (hd ..) (h { c with ps := c.plain, g := _ } _)

end Sys2Proof.Machine
end

