-- ==== Sys2Proof/Laws/State.lean ====
section
/-!
SUPPORT. What each named update of the state, of a group and of a lane leaves in each field; one lemma for every field and update.
-/

namespace Sys2Proof.Machine

/-! ### State.setGroup -/

@[simp] theorem State.setGroup_groups (s : State) (gid : Nat) (g : Group) : (s.setGroup gid g).groups = kput s.groups gid g := rfl
@[simp] theorem State.setGroup_teams (s : State) (gid : Nat) (g : Group) : (s.setGroup gid g).teams = s.teams := rfl
@[simp] theorem State.setGroup_nextGid (s : State) (gid : Nat) (g : Group) : (s.setGroup gid g).nextGid = s.nextGid := rfl
@[simp] theorem State.setGroup_ops (s : State) (gid : Nat) (g : Group) : (s.setGroup gid g).ops = s.ops := rfl
@[simp] theorem State.setGroup_nextOp (s : State) (gid : Nat) (g : Group) : (s.setGroup gid g).nextOp = s.nextOp := rfl
@[simp] theorem State.setGroup_hazards (s : State) (gid : Nat) (g : Group) : (s.setGroup gid g).hazards = s.hazards := rfl
@[simp] theorem State.setGroup_mem (s : State) (gid : Nat) (g : Group) : (s.setGroup gid g).mem = s.mem := rfl
@[simp] theorem State.setGroup_pool (s : State) (gid : Nat) (g : Group) : (s.setGroup gid g).pool = s.pool := rfl
@[simp] theorem State.setGroup_tx (s : State) (gid : Nat) (g : Group) : (s.setGroup gid g).tx = s.tx := rfl
@[simp] theorem State.setGroup_hosts (s : State) (gid : Nat) (g : Group) : (s.setGroup gid g).hosts = s.hosts := rfl
@[simp] theorem State.setGroup_dies (s : State) (gid : Nat) (g : Group) : (s.setGroup gid g).dies = s.dies := rfl
@[simp] theorem State.setGroup_pkg (s : State) (gid : Nat) (g : Group) : (s.setGroup gid g).pkg = s.pkg := rfl
@[simp] theorem State.setGroup_logs (s : State) (gid : Nat) (g : Group) : (s.setGroup gid g).logs = s.logs := rfl
@[simp] theorem State.setGroup_net (s : State) (gid : Nat) (g : Group) : (s.setGroup gid g).net = s.net := rfl
@[simp] theorem State.setGroup_xa (s : State) (gid : Nat) (g : Group) : (s.setGroup gid g).xa = s.xa := rfl
@[simp] theorem State.setGroup_pmc (s : State) (gid : Nat) (g : Group) : (s.setGroup gid g).pmc = s.pmc := rfl
@[simp] theorem State.setGroup_plat (s : State) (gid : Nat) (g : Group) : (s.setGroup gid g).plat = s.plat := rfl
@[simp] theorem State.setGroup_clock (s : State) (gid : Nat) (g : Group) : (s.setGroup gid g).clock = s.clock := rfl
@[simp] theorem State.setGroup_qnext (s : State) (gid : Nat) (g : Group) : (s.setGroup gid g).qnext = s.qnext := rfl
@[simp] theorem State.setGroup_cur (s : State) (gid : Nat) (g : Group) : (s.setGroup gid g).cur = s.cur := rfl
@[simp] theorem State.setGroup_sched (s : State) (gid : Nat) (g : Group) : (s.setGroup gid g).sched = s.sched := rfl
@[simp] theorem State.setGroup_free (s : State) (gid : Nat) (g : Group) : (s.setGroup gid g).free = s.free := rfl

/-! ### State.modGroup -/

@[simp] theorem State.modGroup_groups (s : State) (gid : Nat) (f : Group → Group) : (s.modGroup gid f).groups = kmap s.groups gid f := rfl
@[simp] theorem State.modGroup_teams (s : State) (gid : Nat) (f : Group → Group) : (s.modGroup gid f).teams = s.teams := rfl
@[simp] theorem State.modGroup_nextGid (s : State) (gid : Nat) (f : Group → Group) : (s.modGroup gid f).nextGid = s.nextGid := rfl
@[simp] theorem State.modGroup_ops (s : State) (gid : Nat) (f : Group → Group) : (s.modGroup gid f).ops = s.ops := rfl
@[simp] theorem State.modGroup_nextOp (s : State) (gid : Nat) (f : Group → Group) : (s.modGroup gid f).nextOp = s.nextOp := rfl
@[simp] theorem State.modGroup_hazards (s : State) (gid : Nat) (f : Group → Group) : (s.modGroup gid f).hazards = s.hazards := rfl
@[simp] theorem State.modGroup_mem (s : State) (gid : Nat) (f : Group → Group) : (s.modGroup gid f).mem = s.mem := rfl
@[simp] theorem State.modGroup_pool (s : State) (gid : Nat) (f : Group → Group) : (s.modGroup gid f).pool = s.pool := rfl
@[simp] theorem State.modGroup_tx (s : State) (gid : Nat) (f : Group → Group) : (s.modGroup gid f).tx = s.tx := rfl
@[simp] theorem State.modGroup_hosts (s : State) (gid : Nat) (f : Group → Group) : (s.modGroup gid f).hosts = s.hosts := rfl
@[simp] theorem State.modGroup_dies (s : State) (gid : Nat) (f : Group → Group) : (s.modGroup gid f).dies = s.dies := rfl
@[simp] theorem State.modGroup_pkg (s : State) (gid : Nat) (f : Group → Group) : (s.modGroup gid f).pkg = s.pkg := rfl
@[simp] theorem State.modGroup_logs (s : State) (gid : Nat) (f : Group → Group) : (s.modGroup gid f).logs = s.logs := rfl
@[simp] theorem State.modGroup_net (s : State) (gid : Nat) (f : Group → Group) : (s.modGroup gid f).net = s.net := rfl
@[simp] theorem State.modGroup_xa (s : State) (gid : Nat) (f : Group → Group) : (s.modGroup gid f).xa = s.xa := rfl
@[simp] theorem State.modGroup_pmc (s : State) (gid : Nat) (f : Group → Group) : (s.modGroup gid f).pmc = s.pmc := rfl
@[simp] theorem State.modGroup_plat (s : State) (gid : Nat) (f : Group → Group) : (s.modGroup gid f).plat = s.plat := rfl
@[simp] theorem State.modGroup_clock (s : State) (gid : Nat) (f : Group → Group) : (s.modGroup gid f).clock = s.clock := rfl
@[simp] theorem State.modGroup_qnext (s : State) (gid : Nat) (f : Group → Group) : (s.modGroup gid f).qnext = s.qnext := rfl
@[simp] theorem State.modGroup_cur (s : State) (gid : Nat) (f : Group → Group) : (s.modGroup gid f).cur = s.cur := rfl
@[simp] theorem State.modGroup_sched (s : State) (gid : Nat) (f : Group → Group) : (s.modGroup gid f).sched = s.sched := rfl
@[simp] theorem State.modGroup_free (s : State) (gid : Nat) (f : Group → Group) : (s.modGroup gid f).free = s.free := rfl

/-! ### State.setTeam -/

@[simp] theorem State.setTeam_groups (s : State) (t : Nat) (tm : Team) : (s.setTeam t tm).groups = s.groups := rfl
@[simp] theorem State.setTeam_teams (s : State) (t : Nat) (tm : Team) : (s.setTeam t tm).teams = kput s.teams t tm := rfl
@[simp] theorem State.setTeam_nextGid (s : State) (t : Nat) (tm : Team) : (s.setTeam t tm).nextGid = s.nextGid := rfl
@[simp] theorem State.setTeam_ops (s : State) (t : Nat) (tm : Team) : (s.setTeam t tm).ops = s.ops := rfl
@[simp] theorem State.setTeam_nextOp (s : State) (t : Nat) (tm : Team) : (s.setTeam t tm).nextOp = s.nextOp := rfl
@[simp] theorem State.setTeam_hazards (s : State) (t : Nat) (tm : Team) : (s.setTeam t tm).hazards = s.hazards := rfl
@[simp] theorem State.setTeam_mem (s : State) (t : Nat) (tm : Team) : (s.setTeam t tm).mem = s.mem := rfl
@[simp] theorem State.setTeam_pool (s : State) (t : Nat) (tm : Team) : (s.setTeam t tm).pool = s.pool := rfl
@[simp] theorem State.setTeam_tx (s : State) (t : Nat) (tm : Team) : (s.setTeam t tm).tx = s.tx := rfl
@[simp] theorem State.setTeam_hosts (s : State) (t : Nat) (tm : Team) : (s.setTeam t tm).hosts = s.hosts := rfl
@[simp] theorem State.setTeam_dies (s : State) (t : Nat) (tm : Team) : (s.setTeam t tm).dies = s.dies := rfl
@[simp] theorem State.setTeam_pkg (s : State) (t : Nat) (tm : Team) : (s.setTeam t tm).pkg = s.pkg := rfl
@[simp] theorem State.setTeam_logs (s : State) (t : Nat) (tm : Team) : (s.setTeam t tm).logs = s.logs := rfl
@[simp] theorem State.setTeam_net (s : State) (t : Nat) (tm : Team) : (s.setTeam t tm).net = s.net := rfl
@[simp] theorem State.setTeam_xa (s : State) (t : Nat) (tm : Team) : (s.setTeam t tm).xa = s.xa := rfl
@[simp] theorem State.setTeam_pmc (s : State) (t : Nat) (tm : Team) : (s.setTeam t tm).pmc = s.pmc := rfl
@[simp] theorem State.setTeam_plat (s : State) (t : Nat) (tm : Team) : (s.setTeam t tm).plat = s.plat := rfl
@[simp] theorem State.setTeam_clock (s : State) (t : Nat) (tm : Team) : (s.setTeam t tm).clock = s.clock := rfl
@[simp] theorem State.setTeam_qnext (s : State) (t : Nat) (tm : Team) : (s.setTeam t tm).qnext = s.qnext := rfl
@[simp] theorem State.setTeam_cur (s : State) (t : Nat) (tm : Team) : (s.setTeam t tm).cur = s.cur := rfl
@[simp] theorem State.setTeam_sched (s : State) (t : Nat) (tm : Team) : (s.setTeam t tm).sched = s.sched := rfl
@[simp] theorem State.setTeam_free (s : State) (t : Nat) (tm : Team) : (s.setTeam t tm).free = s.free := rfl

/-! ### State.modTeam -/

@[simp] theorem State.modTeam_groups (s : State) (t : Nat) (f : Team → Team) : (s.modTeam t f).groups = s.groups := rfl
@[simp] theorem State.modTeam_teams (s : State) (t : Nat) (f : Team → Team) : (s.modTeam t f).teams = kmap s.teams t f := rfl
@[simp] theorem State.modTeam_nextGid (s : State) (t : Nat) (f : Team → Team) : (s.modTeam t f).nextGid = s.nextGid := rfl
@[simp] theorem State.modTeam_ops (s : State) (t : Nat) (f : Team → Team) : (s.modTeam t f).ops = s.ops := rfl
@[simp] theorem State.modTeam_nextOp (s : State) (t : Nat) (f : Team → Team) : (s.modTeam t f).nextOp = s.nextOp := rfl
@[simp] theorem State.modTeam_hazards (s : State) (t : Nat) (f : Team → Team) : (s.modTeam t f).hazards = s.hazards := rfl
@[simp] theorem State.modTeam_mem (s : State) (t : Nat) (f : Team → Team) : (s.modTeam t f).mem = s.mem := rfl
@[simp] theorem State.modTeam_pool (s : State) (t : Nat) (f : Team → Team) : (s.modTeam t f).pool = s.pool := rfl
@[simp] theorem State.modTeam_tx (s : State) (t : Nat) (f : Team → Team) : (s.modTeam t f).tx = s.tx := rfl
@[simp] theorem State.modTeam_hosts (s : State) (t : Nat) (f : Team → Team) : (s.modTeam t f).hosts = s.hosts := rfl
@[simp] theorem State.modTeam_dies (s : State) (t : Nat) (f : Team → Team) : (s.modTeam t f).dies = s.dies := rfl
@[simp] theorem State.modTeam_pkg (s : State) (t : Nat) (f : Team → Team) : (s.modTeam t f).pkg = s.pkg := rfl
@[simp] theorem State.modTeam_logs (s : State) (t : Nat) (f : Team → Team) : (s.modTeam t f).logs = s.logs := rfl
@[simp] theorem State.modTeam_net (s : State) (t : Nat) (f : Team → Team) : (s.modTeam t f).net = s.net := rfl
@[simp] theorem State.modTeam_xa (s : State) (t : Nat) (f : Team → Team) : (s.modTeam t f).xa = s.xa := rfl
@[simp] theorem State.modTeam_pmc (s : State) (t : Nat) (f : Team → Team) : (s.modTeam t f).pmc = s.pmc := rfl
@[simp] theorem State.modTeam_plat (s : State) (t : Nat) (f : Team → Team) : (s.modTeam t f).plat = s.plat := rfl
@[simp] theorem State.modTeam_clock (s : State) (t : Nat) (f : Team → Team) : (s.modTeam t f).clock = s.clock := rfl
@[simp] theorem State.modTeam_qnext (s : State) (t : Nat) (f : Team → Team) : (s.modTeam t f).qnext = s.qnext := rfl
@[simp] theorem State.modTeam_cur (s : State) (t : Nat) (f : Team → Team) : (s.modTeam t f).cur = s.cur := rfl
@[simp] theorem State.modTeam_sched (s : State) (t : Nat) (f : Team → Team) : (s.modTeam t f).sched = s.sched := rfl
@[simp] theorem State.modTeam_free (s : State) (t : Nat) (f : Team → Team) : (s.modTeam t f).free = s.free := rfl

/-! ### State.setOp -/

@[simp] theorem State.setOp_groups (s : State) (k : Nat) (o : Op) : (s.setOp k o).groups = s.groups := rfl
@[simp] theorem State.setOp_teams (s : State) (k : Nat) (o : Op) : (s.setOp k o).teams = s.teams := rfl
@[simp] theorem State.setOp_nextGid (s : State) (k : Nat) (o : Op) : (s.setOp k o).nextGid = s.nextGid := rfl
@[simp] theorem State.setOp_ops (s : State) (k : Nat) (o : Op) : (s.setOp k o).ops = kput s.ops k o := rfl
@[simp] theorem State.setOp_nextOp (s : State) (k : Nat) (o : Op) : (s.setOp k o).nextOp = s.nextOp := rfl
@[simp] theorem State.setOp_hazards (s : State) (k : Nat) (o : Op) : (s.setOp k o).hazards = s.hazards := rfl
@[simp] theorem State.setOp_mem (s : State) (k : Nat) (o : Op) : (s.setOp k o).mem = s.mem := rfl
@[simp] theorem State.setOp_pool (s : State) (k : Nat) (o : Op) : (s.setOp k o).pool = s.pool := rfl
@[simp] theorem State.setOp_tx (s : State) (k : Nat) (o : Op) : (s.setOp k o).tx = s.tx := rfl
@[simp] theorem State.setOp_hosts (s : State) (k : Nat) (o : Op) : (s.setOp k o).hosts = s.hosts := rfl
@[simp] theorem State.setOp_dies (s : State) (k : Nat) (o : Op) : (s.setOp k o).dies = s.dies := rfl
@[simp] theorem State.setOp_pkg (s : State) (k : Nat) (o : Op) : (s.setOp k o).pkg = s.pkg := rfl
@[simp] theorem State.setOp_logs (s : State) (k : Nat) (o : Op) : (s.setOp k o).logs = s.logs := rfl
@[simp] theorem State.setOp_net (s : State) (k : Nat) (o : Op) : (s.setOp k o).net = s.net := rfl
@[simp] theorem State.setOp_xa (s : State) (k : Nat) (o : Op) : (s.setOp k o).xa = s.xa := rfl
@[simp] theorem State.setOp_pmc (s : State) (k : Nat) (o : Op) : (s.setOp k o).pmc = s.pmc := rfl
@[simp] theorem State.setOp_plat (s : State) (k : Nat) (o : Op) : (s.setOp k o).plat = s.plat := rfl
@[simp] theorem State.setOp_clock (s : State) (k : Nat) (o : Op) : (s.setOp k o).clock = s.clock := rfl
@[simp] theorem State.setOp_qnext (s : State) (k : Nat) (o : Op) : (s.setOp k o).qnext = s.qnext := rfl
@[simp] theorem State.setOp_cur (s : State) (k : Nat) (o : Op) : (s.setOp k o).cur = s.cur := rfl
@[simp] theorem State.setOp_sched (s : State) (k : Nat) (o : Op) : (s.setOp k o).sched = s.sched := rfl
@[simp] theorem State.setOp_free (s : State) (k : Nat) (o : Op) : (s.setOp k o).free = s.free := rfl

/-! ### State.delOp -/

@[simp] theorem State.delOp_groups (s : State) (k : Nat) : (s.delOp k).groups = s.groups := rfl
@[simp] theorem State.delOp_teams (s : State) (k : Nat) : (s.delOp k).teams = s.teams := rfl
@[simp] theorem State.delOp_nextGid (s : State) (k : Nat) : (s.delOp k).nextGid = s.nextGid := rfl
@[simp] theorem State.delOp_ops (s : State) (k : Nat) : (s.delOp k).ops = kerase s.ops k := rfl
@[simp] theorem State.delOp_nextOp (s : State) (k : Nat) : (s.delOp k).nextOp = s.nextOp := rfl
@[simp] theorem State.delOp_hazards (s : State) (k : Nat) : (s.delOp k).hazards = s.hazards := rfl
@[simp] theorem State.delOp_mem (s : State) (k : Nat) : (s.delOp k).mem = s.mem := rfl
@[simp] theorem State.delOp_pool (s : State) (k : Nat) : (s.delOp k).pool = s.pool := rfl
@[simp] theorem State.delOp_tx (s : State) (k : Nat) : (s.delOp k).tx = s.tx := rfl
@[simp] theorem State.delOp_hosts (s : State) (k : Nat) : (s.delOp k).hosts = s.hosts := rfl
@[simp] theorem State.delOp_dies (s : State) (k : Nat) : (s.delOp k).dies = s.dies := rfl
@[simp] theorem State.delOp_pkg (s : State) (k : Nat) : (s.delOp k).pkg = s.pkg := rfl
@[simp] theorem State.delOp_logs (s : State) (k : Nat) : (s.delOp k).logs = s.logs := rfl
@[simp] theorem State.delOp_net (s : State) (k : Nat) : (s.delOp k).net = s.net := rfl
@[simp] theorem State.delOp_xa (s : State) (k : Nat) : (s.delOp k).xa = s.xa := rfl
@[simp] theorem State.delOp_pmc (s : State) (k : Nat) : (s.delOp k).pmc = s.pmc := rfl
@[simp] theorem State.delOp_plat (s : State) (k : Nat) : (s.delOp k).plat = s.plat := rfl
@[simp] theorem State.delOp_clock (s : State) (k : Nat) : (s.delOp k).clock = s.clock := rfl
@[simp] theorem State.delOp_qnext (s : State) (k : Nat) : (s.delOp k).qnext = s.qnext := rfl
@[simp] theorem State.delOp_cur (s : State) (k : Nat) : (s.delOp k).cur = s.cur := rfl
@[simp] theorem State.delOp_sched (s : State) (k : Nat) : (s.delOp k).sched = s.sched := rfl
@[simp] theorem State.delOp_free (s : State) (k : Nat) : (s.delOp k).free = s.free := rfl

/-! ### State.addOp -/

@[simp] theorem State.addOp_groups (s : State) (o : Op) : (s.addOp o).groups = s.groups := rfl
@[simp] theorem State.addOp_teams (s : State) (o : Op) : (s.addOp o).teams = s.teams := rfl
@[simp] theorem State.addOp_nextGid (s : State) (o : Op) : (s.addOp o).nextGid = s.nextGid := rfl
@[simp] theorem State.addOp_ops (s : State) (o : Op) : (s.addOp o).ops = kput s.ops s.nextOp o := rfl
@[simp] theorem State.addOp_nextOp (s : State) (o : Op) : (s.addOp o).nextOp = s.nextOp + 1 := rfl
@[simp] theorem State.addOp_hazards (s : State) (o : Op) : (s.addOp o).hazards = s.hazards := rfl
@[simp] theorem State.addOp_mem (s : State) (o : Op) : (s.addOp o).mem = s.mem := rfl
@[simp] theorem State.addOp_pool (s : State) (o : Op) : (s.addOp o).pool = s.pool := rfl
@[simp] theorem State.addOp_tx (s : State) (o : Op) : (s.addOp o).tx = s.tx := rfl
@[simp] theorem State.addOp_hosts (s : State) (o : Op) : (s.addOp o).hosts = s.hosts := rfl
@[simp] theorem State.addOp_dies (s : State) (o : Op) : (s.addOp o).dies = s.dies := rfl
@[simp] theorem State.addOp_pkg (s : State) (o : Op) : (s.addOp o).pkg = s.pkg := rfl
@[simp] theorem State.addOp_logs (s : State) (o : Op) : (s.addOp o).logs = s.logs := rfl
@[simp] theorem State.addOp_net (s : State) (o : Op) : (s.addOp o).net = s.net := rfl
@[simp] theorem State.addOp_xa (s : State) (o : Op) : (s.addOp o).xa = s.xa := rfl
@[simp] theorem State.addOp_pmc (s : State) (o : Op) : (s.addOp o).pmc = s.pmc := rfl
@[simp] theorem State.addOp_plat (s : State) (o : Op) : (s.addOp o).plat = s.plat := rfl
@[simp] theorem State.addOp_clock (s : State) (o : Op) : (s.addOp o).clock = s.clock := rfl
@[simp] theorem State.addOp_qnext (s : State) (o : Op) : (s.addOp o).qnext = s.qnext := rfl
@[simp] theorem State.addOp_cur (s : State) (o : Op) : (s.addOp o).cur = s.cur := rfl
@[simp] theorem State.addOp_sched (s : State) (o : Op) : (s.addOp o).sched = s.sched := rfl
@[simp] theorem State.addOp_free (s : State) (o : Op) : (s.addOp o).free = s.free := rfl

/-! ### State.setDie -/

@[simp] theorem State.setDie_groups (s : State) (d : Nat) (r : DieRegs) : (s.setDie d r).groups = s.groups := rfl
@[simp] theorem State.setDie_teams (s : State) (d : Nat) (r : DieRegs) : (s.setDie d r).teams = s.teams := rfl
@[simp] theorem State.setDie_nextGid (s : State) (d : Nat) (r : DieRegs) : (s.setDie d r).nextGid = s.nextGid := rfl
@[simp] theorem State.setDie_ops (s : State) (d : Nat) (r : DieRegs) : (s.setDie d r).ops = s.ops := rfl
@[simp] theorem State.setDie_nextOp (s : State) (d : Nat) (r : DieRegs) : (s.setDie d r).nextOp = s.nextOp := rfl
@[simp] theorem State.setDie_hazards (s : State) (d : Nat) (r : DieRegs) : (s.setDie d r).hazards = s.hazards := rfl
@[simp] theorem State.setDie_mem (s : State) (d : Nat) (r : DieRegs) : (s.setDie d r).mem = s.mem := rfl
@[simp] theorem State.setDie_pool (s : State) (d : Nat) (r : DieRegs) : (s.setDie d r).pool = s.pool := rfl
@[simp] theorem State.setDie_tx (s : State) (d : Nat) (r : DieRegs) : (s.setDie d r).tx = s.tx := rfl
@[simp] theorem State.setDie_hosts (s : State) (d : Nat) (r : DieRegs) : (s.setDie d r).hosts = s.hosts := rfl
@[simp] theorem State.setDie_dies (s : State) (d : Nat) (r : DieRegs) : (s.setDie d r).dies = kset {} s.dies d r := rfl
@[simp] theorem State.setDie_pkg (s : State) (d : Nat) (r : DieRegs) : (s.setDie d r).pkg = s.pkg := rfl
@[simp] theorem State.setDie_logs (s : State) (d : Nat) (r : DieRegs) : (s.setDie d r).logs = s.logs := rfl
@[simp] theorem State.setDie_net (s : State) (d : Nat) (r : DieRegs) : (s.setDie d r).net = s.net := rfl
@[simp] theorem State.setDie_xa (s : State) (d : Nat) (r : DieRegs) : (s.setDie d r).xa = s.xa := rfl
@[simp] theorem State.setDie_pmc (s : State) (d : Nat) (r : DieRegs) : (s.setDie d r).pmc = s.pmc := rfl
@[simp] theorem State.setDie_plat (s : State) (d : Nat) (r : DieRegs) : (s.setDie d r).plat = s.plat := rfl
@[simp] theorem State.setDie_clock (s : State) (d : Nat) (r : DieRegs) : (s.setDie d r).clock = s.clock := rfl
@[simp] theorem State.setDie_qnext (s : State) (d : Nat) (r : DieRegs) : (s.setDie d r).qnext = s.qnext := rfl
@[simp] theorem State.setDie_cur (s : State) (d : Nat) (r : DieRegs) : (s.setDie d r).cur = s.cur := rfl
@[simp] theorem State.setDie_sched (s : State) (d : Nat) (r : DieRegs) : (s.setDie d r).sched = s.sched := rfl
@[simp] theorem State.setDie_free (s : State) (d : Nat) (r : DieRegs) : (s.setDie d r).free = s.free := rfl

/-! ### State.setHost -/

@[simp] theorem State.setHost_groups (s : State) (h : Nat) (c : HostCore) : (s.setHost h c).groups = s.groups := rfl
@[simp] theorem State.setHost_teams (s : State) (h : Nat) (c : HostCore) : (s.setHost h c).teams = s.teams := rfl
@[simp] theorem State.setHost_nextGid (s : State) (h : Nat) (c : HostCore) : (s.setHost h c).nextGid = s.nextGid := rfl
@[simp] theorem State.setHost_ops (s : State) (h : Nat) (c : HostCore) : (s.setHost h c).ops = s.ops := rfl
@[simp] theorem State.setHost_nextOp (s : State) (h : Nat) (c : HostCore) : (s.setHost h c).nextOp = s.nextOp := rfl
@[simp] theorem State.setHost_hazards (s : State) (h : Nat) (c : HostCore) : (s.setHost h c).hazards = s.hazards := rfl
@[simp] theorem State.setHost_mem (s : State) (h : Nat) (c : HostCore) : (s.setHost h c).mem = s.mem := rfl
@[simp] theorem State.setHost_pool (s : State) (h : Nat) (c : HostCore) : (s.setHost h c).pool = s.pool := rfl
@[simp] theorem State.setHost_tx (s : State) (h : Nat) (c : HostCore) : (s.setHost h c).tx = s.tx := rfl
@[simp] theorem State.setHost_hosts (s : State) (h : Nat) (c : HostCore) : (s.setHost h c).hosts = kset {} s.hosts h c := rfl
@[simp] theorem State.setHost_dies (s : State) (h : Nat) (c : HostCore) : (s.setHost h c).dies = s.dies := rfl
@[simp] theorem State.setHost_pkg (s : State) (h : Nat) (c : HostCore) : (s.setHost h c).pkg = s.pkg := rfl
@[simp] theorem State.setHost_logs (s : State) (h : Nat) (c : HostCore) : (s.setHost h c).logs = s.logs := rfl
@[simp] theorem State.setHost_net (s : State) (h : Nat) (c : HostCore) : (s.setHost h c).net = s.net := rfl
@[simp] theorem State.setHost_xa (s : State) (h : Nat) (c : HostCore) : (s.setHost h c).xa = s.xa := rfl
@[simp] theorem State.setHost_pmc (s : State) (h : Nat) (c : HostCore) : (s.setHost h c).pmc = s.pmc := rfl
@[simp] theorem State.setHost_plat (s : State) (h : Nat) (c : HostCore) : (s.setHost h c).plat = s.plat := rfl
@[simp] theorem State.setHost_clock (s : State) (h : Nat) (c : HostCore) : (s.setHost h c).clock = s.clock := rfl
@[simp] theorem State.setHost_qnext (s : State) (h : Nat) (c : HostCore) : (s.setHost h c).qnext = s.qnext := rfl
@[simp] theorem State.setHost_cur (s : State) (h : Nat) (c : HostCore) : (s.setHost h c).cur = s.cur := rfl
@[simp] theorem State.setHost_sched (s : State) (h : Nat) (c : HostCore) : (s.setHost h c).sched = s.sched := rfl
@[simp] theorem State.setHost_free (s : State) (h : Nat) (c : HostCore) : (s.setHost h c).free = s.free := rfl

/-! ### State.report -/

@[simp] theorem State.report_groups (s : State) (unit chan asid src value : Nat) : (s.report unit chan asid src value).groups = s.groups := rfl
@[simp] theorem State.report_teams (s : State) (unit chan asid src value : Nat) : (s.report unit chan asid src value).teams = s.teams := rfl
@[simp] theorem State.report_nextGid (s : State) (unit chan asid src value : Nat) : (s.report unit chan asid src value).nextGid = s.nextGid := rfl
@[simp] theorem State.report_ops (s : State) (unit chan asid src value : Nat) : (s.report unit chan asid src value).ops = s.ops := rfl
@[simp] theorem State.report_nextOp (s : State) (unit chan asid src value : Nat) : (s.report unit chan asid src value).nextOp = s.nextOp := rfl
@[simp] theorem State.report_hazards (s : State) (unit chan asid src value : Nat) : (s.report unit chan asid src value).hazards = s.hazards := rfl
@[simp] theorem State.report_mem (s : State) (unit chan asid src value : Nat) : (s.report unit chan asid src value).mem = s.mem := rfl
@[simp] theorem State.report_pool (s : State) (unit chan asid src value : Nat) : (s.report unit chan asid src value).pool = s.pool := rfl
@[simp] theorem State.report_tx (s : State) (unit chan asid src value : Nat) : (s.report unit chan asid src value).tx = s.tx := rfl
@[simp] theorem State.report_hosts (s : State) (unit chan asid src value : Nat) : (s.report unit chan asid src value).hosts = s.hosts := rfl
@[simp] theorem State.report_dies (s : State) (unit chan asid src value : Nat) : (s.report unit chan asid src value).dies = s.dies := rfl
@[simp] theorem State.report_pkg (s : State) (unit chan asid src value : Nat) : (s.report unit chan asid src value).pkg = s.pkg := rfl
@[simp] theorem State.report_net (s : State) (unit chan asid src value : Nat) : (s.report unit chan asid src value).net = s.net := rfl
@[simp] theorem State.report_xa (s : State) (unit chan asid src value : Nat) : (s.report unit chan asid src value).xa = s.xa := rfl
@[simp] theorem State.report_pmc (s : State) (unit chan asid src value : Nat) : (s.report unit chan asid src value).pmc = s.pmc := rfl
@[simp] theorem State.report_plat (s : State) (unit chan asid src value : Nat) : (s.report unit chan asid src value).plat = s.plat := rfl
@[simp] theorem State.report_clock (s : State) (unit chan asid src value : Nat) : (s.report unit chan asid src value).clock = s.clock := rfl
@[simp] theorem State.report_qnext (s : State) (unit chan asid src value : Nat) : (s.report unit chan asid src value).qnext = s.qnext := rfl
@[simp] theorem State.report_cur (s : State) (unit chan asid src value : Nat) : (s.report unit chan asid src value).cur = s.cur := rfl
@[simp] theorem State.report_sched (s : State) (unit chan asid src value : Nat) : (s.report unit chan asid src value).sched = s.sched := rfl
@[simp] theorem State.report_free (s : State) (unit chan asid src value : Nat) : (s.report unit chan asid src value).free = s.free := rfl

/-! ### State.setEvent -/

@[simp] theorem State.setEvent_groups (s : State) (d bit : Nat) : (s.setEvent d bit).groups = s.groups := rfl
@[simp] theorem State.setEvent_teams (s : State) (d bit : Nat) : (s.setEvent d bit).teams = s.teams := rfl
@[simp] theorem State.setEvent_nextGid (s : State) (d bit : Nat) : (s.setEvent d bit).nextGid = s.nextGid := rfl
@[simp] theorem State.setEvent_ops (s : State) (d bit : Nat) : (s.setEvent d bit).ops = s.ops := rfl
@[simp] theorem State.setEvent_nextOp (s : State) (d bit : Nat) : (s.setEvent d bit).nextOp = s.nextOp := rfl
@[simp] theorem State.setEvent_hazards (s : State) (d bit : Nat) : (s.setEvent d bit).hazards = s.hazards := rfl
@[simp] theorem State.setEvent_mem (s : State) (d bit : Nat) : (s.setEvent d bit).mem = s.mem := rfl
@[simp] theorem State.setEvent_pool (s : State) (d bit : Nat) : (s.setEvent d bit).pool = s.pool := rfl
@[simp] theorem State.setEvent_tx (s : State) (d bit : Nat) : (s.setEvent d bit).tx = s.tx := rfl
@[simp] theorem State.setEvent_hosts (s : State) (d bit : Nat) : (s.setEvent d bit).hosts = s.hosts := rfl
@[simp] theorem State.setEvent_pkg (s : State) (d bit : Nat) : (s.setEvent d bit).pkg = s.pkg := rfl
@[simp] theorem State.setEvent_logs (s : State) (d bit : Nat) : (s.setEvent d bit).logs = s.logs := rfl
@[simp] theorem State.setEvent_net (s : State) (d bit : Nat) : (s.setEvent d bit).net = s.net := rfl
@[simp] theorem State.setEvent_xa (s : State) (d bit : Nat) : (s.setEvent d bit).xa = s.xa := rfl
@[simp] theorem State.setEvent_pmc (s : State) (d bit : Nat) : (s.setEvent d bit).pmc = s.pmc := rfl
@[simp] theorem State.setEvent_plat (s : State) (d bit : Nat) : (s.setEvent d bit).plat = s.plat := rfl
@[simp] theorem State.setEvent_clock (s : State) (d bit : Nat) : (s.setEvent d bit).clock = s.clock := rfl
@[simp] theorem State.setEvent_qnext (s : State) (d bit : Nat) : (s.setEvent d bit).qnext = s.qnext := rfl
@[simp] theorem State.setEvent_cur (s : State) (d bit : Nat) : (s.setEvent d bit).cur = s.cur := rfl
@[simp] theorem State.setEvent_sched (s : State) (d bit : Nat) : (s.setEvent d bit).sched = s.sched := rfl
@[simp] theorem State.setEvent_free (s : State) (d bit : Nat) : (s.setEvent d bit).free = s.free := rfl

/-! ### State.countEv -/

@[simp] theorem State.countEv_groups (s : State) (first num code : Nat) (asid : Option Nat) (n : Nat) : (s.countEv first num code asid n).groups = s.groups := rfl
@[simp] theorem State.countEv_teams (s : State) (first num code : Nat) (asid : Option Nat) (n : Nat) : (s.countEv first num code asid n).teams = s.teams := rfl
@[simp] theorem State.countEv_nextGid (s : State) (first num code : Nat) (asid : Option Nat) (n : Nat) : (s.countEv first num code asid n).nextGid = s.nextGid := rfl
@[simp] theorem State.countEv_ops (s : State) (first num code : Nat) (asid : Option Nat) (n : Nat) : (s.countEv first num code asid n).ops = s.ops := rfl
@[simp] theorem State.countEv_nextOp (s : State) (first num code : Nat) (asid : Option Nat) (n : Nat) : (s.countEv first num code asid n).nextOp = s.nextOp := rfl
@[simp] theorem State.countEv_hazards (s : State) (first num code : Nat) (asid : Option Nat) (n : Nat) : (s.countEv first num code asid n).hazards = s.hazards := rfl
@[simp] theorem State.countEv_mem (s : State) (first num code : Nat) (asid : Option Nat) (n : Nat) : (s.countEv first num code asid n).mem = s.mem := rfl
@[simp] theorem State.countEv_pool (s : State) (first num code : Nat) (asid : Option Nat) (n : Nat) : (s.countEv first num code asid n).pool = s.pool := rfl
@[simp] theorem State.countEv_tx (s : State) (first num code : Nat) (asid : Option Nat) (n : Nat) : (s.countEv first num code asid n).tx = s.tx := rfl
@[simp] theorem State.countEv_hosts (s : State) (first num code : Nat) (asid : Option Nat) (n : Nat) : (s.countEv first num code asid n).hosts = s.hosts := rfl
@[simp] theorem State.countEv_dies (s : State) (first num code : Nat) (asid : Option Nat) (n : Nat) : (s.countEv first num code asid n).dies = s.dies := rfl
@[simp] theorem State.countEv_pkg (s : State) (first num code : Nat) (asid : Option Nat) (n : Nat) : (s.countEv first num code asid n).pkg = s.pkg := rfl
@[simp] theorem State.countEv_logs (s : State) (first num code : Nat) (asid : Option Nat) (n : Nat) : (s.countEv first num code asid n).logs = s.logs := rfl
@[simp] theorem State.countEv_net (s : State) (first num code : Nat) (asid : Option Nat) (n : Nat) : (s.countEv first num code asid n).net = s.net := rfl
@[simp] theorem State.countEv_xa (s : State) (first num code : Nat) (asid : Option Nat) (n : Nat) : (s.countEv first num code asid n).xa = s.xa := rfl
@[simp] theorem State.countEv_plat (s : State) (first num code : Nat) (asid : Option Nat) (n : Nat) : (s.countEv first num code asid n).plat = s.plat := rfl
@[simp] theorem State.countEv_clock (s : State) (first num code : Nat) (asid : Option Nat) (n : Nat) : (s.countEv first num code asid n).clock = s.clock := rfl
@[simp] theorem State.countEv_qnext (s : State) (first num code : Nat) (asid : Option Nat) (n : Nat) : (s.countEv first num code asid n).qnext = s.qnext := rfl
@[simp] theorem State.countEv_cur (s : State) (first num code : Nat) (asid : Option Nat) (n : Nat) : (s.countEv first num code asid n).cur = s.cur := rfl
@[simp] theorem State.countEv_sched (s : State) (first num code : Nat) (asid : Option Nat) (n : Nat) : (s.countEv first num code asid n).sched = s.sched := rfl
@[simp] theorem State.countEv_free (s : State) (first num code : Nat) (asid : Option Nat) (n : Nat) : (s.countEv first num code asid n).free = s.free := rfl

/-! ### State.countCore -/

@[simp] theorem State.countCore_groups (s : State) (core code asid n : Nat) : (s.countCore core code asid n).groups = s.groups := rfl
@[simp] theorem State.countCore_teams (s : State) (core code asid n : Nat) : (s.countCore core code asid n).teams = s.teams := rfl
@[simp] theorem State.countCore_nextGid (s : State) (core code asid n : Nat) : (s.countCore core code asid n).nextGid = s.nextGid := rfl
@[simp] theorem State.countCore_ops (s : State) (core code asid n : Nat) : (s.countCore core code asid n).ops = s.ops := rfl
@[simp] theorem State.countCore_nextOp (s : State) (core code asid n : Nat) : (s.countCore core code asid n).nextOp = s.nextOp := rfl
@[simp] theorem State.countCore_hazards (s : State) (core code asid n : Nat) : (s.countCore core code asid n).hazards = s.hazards := rfl
@[simp] theorem State.countCore_mem (s : State) (core code asid n : Nat) : (s.countCore core code asid n).mem = s.mem := rfl
@[simp] theorem State.countCore_pool (s : State) (core code asid n : Nat) : (s.countCore core code asid n).pool = s.pool := rfl
@[simp] theorem State.countCore_tx (s : State) (core code asid n : Nat) : (s.countCore core code asid n).tx = s.tx := rfl
@[simp] theorem State.countCore_hosts (s : State) (core code asid n : Nat) : (s.countCore core code asid n).hosts = s.hosts := rfl
@[simp] theorem State.countCore_dies (s : State) (core code asid n : Nat) : (s.countCore core code asid n).dies = s.dies := rfl
@[simp] theorem State.countCore_pkg (s : State) (core code asid n : Nat) : (s.countCore core code asid n).pkg = s.pkg := rfl
@[simp] theorem State.countCore_logs (s : State) (core code asid n : Nat) : (s.countCore core code asid n).logs = s.logs := rfl
@[simp] theorem State.countCore_net (s : State) (core code asid n : Nat) : (s.countCore core code asid n).net = s.net := rfl
@[simp] theorem State.countCore_xa (s : State) (core code asid n : Nat) : (s.countCore core code asid n).xa = s.xa := rfl
@[simp] theorem State.countCore_plat (s : State) (core code asid n : Nat) : (s.countCore core code asid n).plat = s.plat := rfl
@[simp] theorem State.countCore_clock (s : State) (core code asid n : Nat) : (s.countCore core code asid n).clock = s.clock := rfl
@[simp] theorem State.countCore_qnext (s : State) (core code asid n : Nat) : (s.countCore core code asid n).qnext = s.qnext := rfl
@[simp] theorem State.countCore_cur (s : State) (core code asid n : Nat) : (s.countCore core code asid n).cur = s.cur := rfl
@[simp] theorem State.countCore_sched (s : State) (core code asid n : Nat) : (s.countCore core code asid n).sched = s.sched := rfl
@[simp] theorem State.countCore_free (s : State) (core code asid n : Nat) : (s.countCore core code asid n).free = s.free := rfl

/-! ### State.countHub -/

@[simp] theorem State.countHub_groups (s : State) (hub code : Nat) (asid : Option Nat) (n : Nat) : (s.countHub hub code asid n).groups = s.groups := rfl
@[simp] theorem State.countHub_teams (s : State) (hub code : Nat) (asid : Option Nat) (n : Nat) : (s.countHub hub code asid n).teams = s.teams := rfl
@[simp] theorem State.countHub_nextGid (s : State) (hub code : Nat) (asid : Option Nat) (n : Nat) : (s.countHub hub code asid n).nextGid = s.nextGid := rfl
@[simp] theorem State.countHub_ops (s : State) (hub code : Nat) (asid : Option Nat) (n : Nat) : (s.countHub hub code asid n).ops = s.ops := rfl
@[simp] theorem State.countHub_nextOp (s : State) (hub code : Nat) (asid : Option Nat) (n : Nat) : (s.countHub hub code asid n).nextOp = s.nextOp := rfl
@[simp] theorem State.countHub_hazards (s : State) (hub code : Nat) (asid : Option Nat) (n : Nat) : (s.countHub hub code asid n).hazards = s.hazards := rfl
@[simp] theorem State.countHub_mem (s : State) (hub code : Nat) (asid : Option Nat) (n : Nat) : (s.countHub hub code asid n).mem = s.mem := rfl
@[simp] theorem State.countHub_pool (s : State) (hub code : Nat) (asid : Option Nat) (n : Nat) : (s.countHub hub code asid n).pool = s.pool := rfl
@[simp] theorem State.countHub_tx (s : State) (hub code : Nat) (asid : Option Nat) (n : Nat) : (s.countHub hub code asid n).tx = s.tx := rfl
@[simp] theorem State.countHub_hosts (s : State) (hub code : Nat) (asid : Option Nat) (n : Nat) : (s.countHub hub code asid n).hosts = s.hosts := rfl
@[simp] theorem State.countHub_dies (s : State) (hub code : Nat) (asid : Option Nat) (n : Nat) : (s.countHub hub code asid n).dies = s.dies := rfl
@[simp] theorem State.countHub_pkg (s : State) (hub code : Nat) (asid : Option Nat) (n : Nat) : (s.countHub hub code asid n).pkg = s.pkg := rfl
@[simp] theorem State.countHub_logs (s : State) (hub code : Nat) (asid : Option Nat) (n : Nat) : (s.countHub hub code asid n).logs = s.logs := rfl
@[simp] theorem State.countHub_net (s : State) (hub code : Nat) (asid : Option Nat) (n : Nat) : (s.countHub hub code asid n).net = s.net := rfl
@[simp] theorem State.countHub_xa (s : State) (hub code : Nat) (asid : Option Nat) (n : Nat) : (s.countHub hub code asid n).xa = s.xa := rfl
@[simp] theorem State.countHub_plat (s : State) (hub code : Nat) (asid : Option Nat) (n : Nat) : (s.countHub hub code asid n).plat = s.plat := rfl
@[simp] theorem State.countHub_clock (s : State) (hub code : Nat) (asid : Option Nat) (n : Nat) : (s.countHub hub code asid n).clock = s.clock := rfl
@[simp] theorem State.countHub_qnext (s : State) (hub code : Nat) (asid : Option Nat) (n : Nat) : (s.countHub hub code asid n).qnext = s.qnext := rfl
@[simp] theorem State.countHub_cur (s : State) (hub code : Nat) (asid : Option Nat) (n : Nat) : (s.countHub hub code asid n).cur = s.cur := rfl
@[simp] theorem State.countHub_sched (s : State) (hub code : Nat) (asid : Option Nat) (n : Nat) : (s.countHub hub code asid n).sched = s.sched := rfl
@[simp] theorem State.countHub_free (s : State) (hub code : Nat) (asid : Option Nat) (n : Nat) : (s.countHub hub code asid n).free = s.free := rfl

/-! ### State.alarm -/

@[simp] theorem State.alarm_groups (s : State) (source : Nat) (asid : Option Nat) : (s.alarm source asid).groups = s.groups := rfl
@[simp] theorem State.alarm_teams (s : State) (source : Nat) (asid : Option Nat) : (s.alarm source asid).teams = s.teams := rfl
@[simp] theorem State.alarm_nextGid (s : State) (source : Nat) (asid : Option Nat) : (s.alarm source asid).nextGid = s.nextGid := rfl
@[simp] theorem State.alarm_ops (s : State) (source : Nat) (asid : Option Nat) : (s.alarm source asid).ops = s.ops := rfl
@[simp] theorem State.alarm_nextOp (s : State) (source : Nat) (asid : Option Nat) : (s.alarm source asid).nextOp = s.nextOp := rfl
@[simp] theorem State.alarm_hazards (s : State) (source : Nat) (asid : Option Nat) : (s.alarm source asid).hazards = s.hazards := rfl
@[simp] theorem State.alarm_mem (s : State) (source : Nat) (asid : Option Nat) : (s.alarm source asid).mem = s.mem := rfl
@[simp] theorem State.alarm_pool (s : State) (source : Nat) (asid : Option Nat) : (s.alarm source asid).pool = s.pool := rfl
@[simp] theorem State.alarm_tx (s : State) (source : Nat) (asid : Option Nat) : (s.alarm source asid).tx = s.tx := rfl
@[simp] theorem State.alarm_hosts (s : State) (source : Nat) (asid : Option Nat) : (s.alarm source asid).hosts = s.hosts := rfl
@[simp] theorem State.alarm_dies (s : State) (source : Nat) (asid : Option Nat) : (s.alarm source asid).dies = s.dies := rfl
@[simp] theorem State.alarm_pkg (s : State) (source : Nat) (asid : Option Nat) : (s.alarm source asid).pkg = s.pkg := rfl
@[simp] theorem State.alarm_logs (s : State) (source : Nat) (asid : Option Nat) : (s.alarm source asid).logs = s.logs := rfl
@[simp] theorem State.alarm_net (s : State) (source : Nat) (asid : Option Nat) : (s.alarm source asid).net = s.net := rfl
@[simp] theorem State.alarm_pmc (s : State) (source : Nat) (asid : Option Nat) : (s.alarm source asid).pmc = s.pmc := rfl
@[simp] theorem State.alarm_plat (s : State) (source : Nat) (asid : Option Nat) : (s.alarm source asid).plat = s.plat := rfl
@[simp] theorem State.alarm_clock (s : State) (source : Nat) (asid : Option Nat) : (s.alarm source asid).clock = s.clock := rfl
@[simp] theorem State.alarm_qnext (s : State) (source : Nat) (asid : Option Nat) : (s.alarm source asid).qnext = s.qnext := rfl
@[simp] theorem State.alarm_cur (s : State) (source : Nat) (asid : Option Nat) : (s.alarm source asid).cur = s.cur := rfl
@[simp] theorem State.alarm_sched (s : State) (source : Nat) (asid : Option Nat) : (s.alarm source asid).sched = s.sched := rfl
@[simp] theorem State.alarm_free (s : State) (source : Nat) (asid : Option Nat) : (s.alarm source asid).free = s.free := rfl

/-! ### Group.setS -/

@[simp] theorem Group.setS_team (g : Group) (n : Nat) (v : W64) : (g.setS n v).team = g.team := by unfold Group.setS; split <;> rfl
@[simp] theorem Group.setS_grpid (g : Group) (n : Nat) (v : W64) : (g.setS n v).grpid = g.grpid := by unfold Group.setS; split <;> rfl
@[simp] theorem Group.setS_width (g : Group) (n : Nat) (v : W64) : (g.setS n v).width = g.width := by unfold Group.setS; split <;> rfl
@[simp] theorem Group.setS_nrows (g : Group) (n : Nat) (v : W64) : (g.setS n v).nrows = g.nrows := by unfold Group.setS; split <;> rfl
@[simp] theorem Group.setS_core (g : Group) (n : Nat) (v : W64) : (g.setS n v).core = g.core := by unfold Group.setS; split <;> rfl
@[simp] theorem Group.setS_quarter (g : Group) (n : Nat) (v : W64) : (g.setS n v).quarter = g.quarter := by unfold Group.setS; split <;> rfl
@[simp] theorem Group.setS_slot (g : Group) (n : Nat) (v : W64) : (g.setS n v).slot = g.slot := by unfold Group.setS; split <;> rfl
@[simp] theorem Group.setS_half (g : Group) (n : Nat) (v : W64) : (g.setS n v).half = g.half := by unfold Group.setS; split <;> rfl
@[simp] theorem Group.setS_service (g : Group) (n : Nat) (v : W64) : (g.setS n v).service = g.service := by unfold Group.setS; split <;> rfl
@[simp] theorem Group.setS_sup (g : Group) (n : Nat) (v : W64) : (g.setS n v).sup = g.sup := by unfold Group.setS; split <;> rfl
@[simp] theorem Group.setS_pc (g : Group) (n : Nat) (v : W64) : (g.setS n v).pc = g.pc := by unfold Group.setS; split <;> rfl
@[simp] theorem Group.setS_lanes (g : Group) (n : Nat) (v : W64) : (g.setS n v).lanes = g.lanes := by unfold Group.setS; split <;> rfl
@[simp] theorem Group.setS_ix (g : Group) (n : Nat) (v : W64) : (g.setS n v).ix = g.ix := by unfold Group.setS; split <;> rfl
@[simp] theorem Group.setS_ac (g : Group) (n : Nat) (v : W64) : (g.setS n v).ac = g.ac := by unfold Group.setS; split <;> rfl
@[simp] theorem Group.setS_fmode (g : Group) (n : Nat) (v : W64) : (g.setS n v).fmode = g.fmode := by unfold Group.setS; split <;> rfl
@[simp] theorem Group.setS_gctl (g : Group) (n : Nat) (v : W64) : (g.setS n v).gctl = g.gctl := by unfold Group.setS; split <;> rfl
@[simp] theorem Group.setS_txcfg (g : Group) (n : Nat) (v : W64) : (g.setS n v).txcfg = g.txcfg := by unfold Group.setS; split <;> rfl
@[simp] theorem Group.setS_ticket (g : Group) (n : Nat) (v : W64) : (g.setS n v).ticket = g.ticket := by unfold Group.setS; split <;> rfl
@[simp] theorem Group.setS_hasTx (g : Group) (n : Nat) (v : W64) : (g.setS n v).hasTx = g.hasTx := by unfold Group.setS; split <;> rfl
@[simp] theorem Group.setS_sig (g : Group) (n : Nat) (v : W64) : (g.setS n v).sig = g.sig := by unfold Group.setS; split <;> rfl
@[simp] theorem Group.setS_z (g : Group) (n : Nat) (v : W64) : (g.setS n v).z = g.z := by unfold Group.setS; split <;> rfl
@[simp] theorem Group.setS_tpc (g : Group) (n : Nat) (v : W64) : (g.setS n v).tpc = g.tpc := by unfold Group.setS; split <;> rfl
@[simp] theorem Group.setS_tmask (g : Group) (n : Nat) (v : W64) : (g.setS n v).tmask = g.tmask := by unfold Group.setS; split <;> rfl
@[simp] theorem Group.setS_tfmode (g : Group) (n : Nat) (v : W64) : (g.setS n v).tfmode = g.tfmode := by unfold Group.setS; split <;> rfl
@[simp] theorem Group.setS_rcnt (g : Group) (n : Nat) (v : W64) : (g.setS n v).rcnt = g.rcnt := by unfold Group.setS; split <;> rfl
@[simp] theorem Group.setS_rrlim (g : Group) (n : Nat) (v : W64) : (g.setS n v).rrlim = g.rrlim := by unfold Group.setS; split <;> rfl
@[simp] theorem Group.setS_nesterr (g : Group) (n : Nat) (v : W64) : (g.setS n v).nesterr = g.nesterr := by unfold Group.setS; split <;> rfl
@[simp] theorem Group.setS_ractive (g : Group) (n : Nat) (v : W64) : (g.setS n v).ractive = g.ractive := by unfold Group.setS; split <;> rfl
@[simp] theorem Group.setS_rentry (g : Group) (n : Nat) (v : W64) : (g.setS n v).rentry = g.rentry := by unfold Group.setS; split <;> rfl
@[simp] theorem Group.setS_rsig (g : Group) (n : Nat) (v : W64) : (g.setS n v).rsig = g.rsig := by unfold Group.setS; split <;> rfl
@[simp] theorem Group.setS_readyAt (g : Group) (n : Nat) (v : W64) : (g.setS n v).readyAt = g.readyAt := by unfold Group.setS; split <;> rfl
@[simp] theorem Group.setS_deferUntil (g : Group) (n : Nat) (v : W64) : (g.setS n v).deferUntil = g.deferUntil := by unfold Group.setS; split <;> rfl
@[simp] theorem Group.setS_deferFor (g : Group) (n : Nat) (v : W64) : (g.setS n v).deferFor = g.deferFor := by unfold Group.setS; split <;> rfl
@[simp] theorem Group.setS_pend (g : Group) (n : Nat) (v : W64) : (g.setS n v).pend = g.pend := by unfold Group.setS; split <;> rfl
@[simp] theorem Group.setS_busy (g : Group) (n : Nat) (v : W64) : (g.setS n v).busy = g.busy := by unfold Group.setS; split <;> rfl
@[simp] theorem Group.setS_wait (g : Group) (n : Nat) (v : W64) : (g.setS n v).wait = g.wait := by unfold Group.setS; split <;> rfl
@[simp] theorem Group.setS_held (g : Group) (n : Nat) (v : W64) : (g.setS n v).held = g.held := by unfold Group.setS; split <;> rfl
@[simp] theorem Group.setS_stores (g : Group) (n : Nat) (v : W64) : (g.setS n v).stores = g.stores := by unfold Group.setS; split <;> rfl
@[simp] theorem Group.setS_fence (g : Group) (n : Nat) (v : W64) : (g.setS n v).fence = g.fence := by unfold Group.setS; split <;> rfl
@[simp] theorem Group.setS_dmrPend (g : Group) (n : Nat) (v : W64) : (g.setS n v).dmrPend = g.dmrPend := by unfold Group.setS; split <;> rfl
@[simp] theorem Group.setS_rfPend (g : Group) (n : Nat) (v : W64) : (g.setS n v).rfPend = g.rfPend := by unfold Group.setS; split <;> rfl
@[simp] theorem Group.setS_rfHold (g : Group) (n : Nat) (v : W64) : (g.setS n v).rfHold = g.rfHold := by unfold Group.setS; split <;> rfl
@[simp] theorem Group.setS_late (g : Group) (n : Nat) (v : W64) : (g.setS n v).late = g.late := by unfold Group.setS; split <;> rfl
@[simp] theorem Group.setS_secPend (g : Group) (n : Nat) (v : W64) : (g.setS n v).secPend = g.secPend := by unfold Group.setS; split <;> rfl
@[simp] theorem Group.setS_poisPend (g : Group) (n : Nat) (v : W64) : (g.setS n v).poisPend = g.poisPend := by unfold Group.setS; split <;> rfl
@[simp] theorem Group.setS_far (g : Group) (n : Nat) (v : W64) : (g.setS n v).far = g.far := by unfold Group.setS; split <;> rfl
@[simp] theorem Group.setS_born (g : Group) (n : Nat) (v : W64) : (g.setS n v).born = g.born := by unfold Group.setS; split <;> rfl
@[simp] theorem Group.setS_accPend (g : Group) (n : Nat) (v : W64) : (g.setS n v).accPend = g.accPend := by unfold Group.setS; split <;> rfl
@[simp] theorem Group.setS_fetched (g : Group) (n : Nat) (v : W64) : (g.setS n v).fetched = g.fetched := by unfold Group.setS; split <;> rfl
@[simp] theorem Group.setS_sent (g : Group) (n : Nat) (v : W64) : (g.setS n v).sent = g.sent := by unfold Group.setS; split <;> rfl

/-! ### Group.modLane -/

@[simp] theorem Group.modLane_team (g : Group) (l : Nat) (f : Lane → Lane) : (g.modLane l f).team = g.team := rfl
@[simp] theorem Group.modLane_grpid (g : Group) (l : Nat) (f : Lane → Lane) : (g.modLane l f).grpid = g.grpid := rfl
@[simp] theorem Group.modLane_width (g : Group) (l : Nat) (f : Lane → Lane) : (g.modLane l f).width = g.width := rfl
@[simp] theorem Group.modLane_nrows (g : Group) (l : Nat) (f : Lane → Lane) : (g.modLane l f).nrows = g.nrows := rfl
@[simp] theorem Group.modLane_core (g : Group) (l : Nat) (f : Lane → Lane) : (g.modLane l f).core = g.core := rfl
@[simp] theorem Group.modLane_quarter (g : Group) (l : Nat) (f : Lane → Lane) : (g.modLane l f).quarter = g.quarter := rfl
@[simp] theorem Group.modLane_slot (g : Group) (l : Nat) (f : Lane → Lane) : (g.modLane l f).slot = g.slot := rfl
@[simp] theorem Group.modLane_half (g : Group) (l : Nat) (f : Lane → Lane) : (g.modLane l f).half = g.half := rfl
@[simp] theorem Group.modLane_service (g : Group) (l : Nat) (f : Lane → Lane) : (g.modLane l f).service = g.service := rfl
@[simp] theorem Group.modLane_sup (g : Group) (l : Nat) (f : Lane → Lane) : (g.modLane l f).sup = g.sup := rfl
@[simp] theorem Group.modLane_pc (g : Group) (l : Nat) (f : Lane → Lane) : (g.modLane l f).pc = g.pc := rfl
@[simp] theorem Group.modLane_lanes (g : Group) (l : Nat) (f : Lane → Lane) : (g.modLane l f).lanes = g.lanes.modify l f := rfl
@[simp] theorem Group.modLane_scal (g : Group) (l : Nat) (f : Lane → Lane) : (g.modLane l f).scal = g.scal := rfl
@[simp] theorem Group.modLane_ix (g : Group) (l : Nat) (f : Lane → Lane) : (g.modLane l f).ix = g.ix := rfl
@[simp] theorem Group.modLane_ac (g : Group) (l : Nat) (f : Lane → Lane) : (g.modLane l f).ac = g.ac := rfl
@[simp] theorem Group.modLane_fmode (g : Group) (l : Nat) (f : Lane → Lane) : (g.modLane l f).fmode = g.fmode := rfl
@[simp] theorem Group.modLane_gctl (g : Group) (l : Nat) (f : Lane → Lane) : (g.modLane l f).gctl = g.gctl := rfl
@[simp] theorem Group.modLane_txcfg (g : Group) (l : Nat) (f : Lane → Lane) : (g.modLane l f).txcfg = g.txcfg := rfl
@[simp] theorem Group.modLane_ticket (g : Group) (l : Nat) (f : Lane → Lane) : (g.modLane l f).ticket = g.ticket := rfl
@[simp] theorem Group.modLane_hasTx (g : Group) (l : Nat) (f : Lane → Lane) : (g.modLane l f).hasTx = g.hasTx := rfl
@[simp] theorem Group.modLane_sig (g : Group) (l : Nat) (f : Lane → Lane) : (g.modLane l f).sig = g.sig := rfl
@[simp] theorem Group.modLane_z (g : Group) (l : Nat) (f : Lane → Lane) : (g.modLane l f).z = g.z := rfl
@[simp] theorem Group.modLane_tpc (g : Group) (l : Nat) (f : Lane → Lane) : (g.modLane l f).tpc = g.tpc := rfl
@[simp] theorem Group.modLane_tmask (g : Group) (l : Nat) (f : Lane → Lane) : (g.modLane l f).tmask = g.tmask := rfl
@[simp] theorem Group.modLane_tfmode (g : Group) (l : Nat) (f : Lane → Lane) : (g.modLane l f).tfmode = g.tfmode := rfl
@[simp] theorem Group.modLane_rcnt (g : Group) (l : Nat) (f : Lane → Lane) : (g.modLane l f).rcnt = g.rcnt := rfl
@[simp] theorem Group.modLane_rrlim (g : Group) (l : Nat) (f : Lane → Lane) : (g.modLane l f).rrlim = g.rrlim := rfl
@[simp] theorem Group.modLane_nesterr (g : Group) (l : Nat) (f : Lane → Lane) : (g.modLane l f).nesterr = g.nesterr := rfl
@[simp] theorem Group.modLane_ractive (g : Group) (l : Nat) (f : Lane → Lane) : (g.modLane l f).ractive = g.ractive := rfl
@[simp] theorem Group.modLane_rentry (g : Group) (l : Nat) (f : Lane → Lane) : (g.modLane l f).rentry = g.rentry := rfl
@[simp] theorem Group.modLane_rsig (g : Group) (l : Nat) (f : Lane → Lane) : (g.modLane l f).rsig = g.rsig := rfl
@[simp] theorem Group.modLane_readyAt (g : Group) (l : Nat) (f : Lane → Lane) : (g.modLane l f).readyAt = g.readyAt := rfl
@[simp] theorem Group.modLane_deferUntil (g : Group) (l : Nat) (f : Lane → Lane) : (g.modLane l f).deferUntil = g.deferUntil := rfl
@[simp] theorem Group.modLane_deferFor (g : Group) (l : Nat) (f : Lane → Lane) : (g.modLane l f).deferFor = g.deferFor := rfl
@[simp] theorem Group.modLane_pend (g : Group) (l : Nat) (f : Lane → Lane) : (g.modLane l f).pend = g.pend := rfl
@[simp] theorem Group.modLane_busy (g : Group) (l : Nat) (f : Lane → Lane) : (g.modLane l f).busy = g.busy := rfl
@[simp] theorem Group.modLane_wait (g : Group) (l : Nat) (f : Lane → Lane) : (g.modLane l f).wait = g.wait := rfl
@[simp] theorem Group.modLane_held (g : Group) (l : Nat) (f : Lane → Lane) : (g.modLane l f).held = g.held := rfl
@[simp] theorem Group.modLane_stores (g : Group) (l : Nat) (f : Lane → Lane) : (g.modLane l f).stores = g.stores := rfl
@[simp] theorem Group.modLane_fence (g : Group) (l : Nat) (f : Lane → Lane) : (g.modLane l f).fence = g.fence := rfl
@[simp] theorem Group.modLane_dmrPend (g : Group) (l : Nat) (f : Lane → Lane) : (g.modLane l f).dmrPend = g.dmrPend := rfl
@[simp] theorem Group.modLane_rfPend (g : Group) (l : Nat) (f : Lane → Lane) : (g.modLane l f).rfPend = g.rfPend := rfl
@[simp] theorem Group.modLane_rfHold (g : Group) (l : Nat) (f : Lane → Lane) : (g.modLane l f).rfHold = g.rfHold := rfl
@[simp] theorem Group.modLane_late (g : Group) (l : Nat) (f : Lane → Lane) : (g.modLane l f).late = g.late := rfl
@[simp] theorem Group.modLane_secPend (g : Group) (l : Nat) (f : Lane → Lane) : (g.modLane l f).secPend = g.secPend := rfl
@[simp] theorem Group.modLane_poisPend (g : Group) (l : Nat) (f : Lane → Lane) : (g.modLane l f).poisPend = g.poisPend := rfl
@[simp] theorem Group.modLane_far (g : Group) (l : Nat) (f : Lane → Lane) : (g.modLane l f).far = g.far := rfl
@[simp] theorem Group.modLane_born (g : Group) (l : Nat) (f : Lane → Lane) : (g.modLane l f).born = g.born := rfl
@[simp] theorem Group.modLane_accPend (g : Group) (l : Nat) (f : Lane → Lane) : (g.modLane l f).accPend = g.accPend := rfl
@[simp] theorem Group.modLane_fetched (g : Group) (l : Nat) (f : Lane → Lane) : (g.modLane l f).fetched = g.fetched := rfl
@[simp] theorem Group.modLane_sent (g : Group) (l : Nat) (f : Lane → Lane) : (g.modLane l f).sent = g.sent := rfl

/-! ### Group.modLanes -/

@[simp] theorem Group.modLanes_team (g : Group) (ls : List Nat) (f : Nat → Lane → Lane) : (g.modLanes ls f).team = g.team := rfl
@[simp] theorem Group.modLanes_grpid (g : Group) (ls : List Nat) (f : Nat → Lane → Lane) : (g.modLanes ls f).grpid = g.grpid := rfl
@[simp] theorem Group.modLanes_width (g : Group) (ls : List Nat) (f : Nat → Lane → Lane) : (g.modLanes ls f).width = g.width := rfl
@[simp] theorem Group.modLanes_nrows (g : Group) (ls : List Nat) (f : Nat → Lane → Lane) : (g.modLanes ls f).nrows = g.nrows := rfl
@[simp] theorem Group.modLanes_core (g : Group) (ls : List Nat) (f : Nat → Lane → Lane) : (g.modLanes ls f).core = g.core := rfl
@[simp] theorem Group.modLanes_quarter (g : Group) (ls : List Nat) (f : Nat → Lane → Lane) : (g.modLanes ls f).quarter = g.quarter := rfl
@[simp] theorem Group.modLanes_slot (g : Group) (ls : List Nat) (f : Nat → Lane → Lane) : (g.modLanes ls f).slot = g.slot := rfl
@[simp] theorem Group.modLanes_half (g : Group) (ls : List Nat) (f : Nat → Lane → Lane) : (g.modLanes ls f).half = g.half := rfl
@[simp] theorem Group.modLanes_service (g : Group) (ls : List Nat) (f : Nat → Lane → Lane) : (g.modLanes ls f).service = g.service := rfl
@[simp] theorem Group.modLanes_sup (g : Group) (ls : List Nat) (f : Nat → Lane → Lane) : (g.modLanes ls f).sup = g.sup := rfl
@[simp] theorem Group.modLanes_pc (g : Group) (ls : List Nat) (f : Nat → Lane → Lane) : (g.modLanes ls f).pc = g.pc := rfl
@[simp] theorem Group.modLanes_scal (g : Group) (ls : List Nat) (f : Nat → Lane → Lane) : (g.modLanes ls f).scal = g.scal := rfl
@[simp] theorem Group.modLanes_ix (g : Group) (ls : List Nat) (f : Nat → Lane → Lane) : (g.modLanes ls f).ix = g.ix := rfl
@[simp] theorem Group.modLanes_ac (g : Group) (ls : List Nat) (f : Nat → Lane → Lane) : (g.modLanes ls f).ac = g.ac := rfl
@[simp] theorem Group.modLanes_fmode (g : Group) (ls : List Nat) (f : Nat → Lane → Lane) : (g.modLanes ls f).fmode = g.fmode := rfl
@[simp] theorem Group.modLanes_gctl (g : Group) (ls : List Nat) (f : Nat → Lane → Lane) : (g.modLanes ls f).gctl = g.gctl := rfl
@[simp] theorem Group.modLanes_txcfg (g : Group) (ls : List Nat) (f : Nat → Lane → Lane) : (g.modLanes ls f).txcfg = g.txcfg := rfl
@[simp] theorem Group.modLanes_ticket (g : Group) (ls : List Nat) (f : Nat → Lane → Lane) : (g.modLanes ls f).ticket = g.ticket := rfl
@[simp] theorem Group.modLanes_hasTx (g : Group) (ls : List Nat) (f : Nat → Lane → Lane) : (g.modLanes ls f).hasTx = g.hasTx := rfl
@[simp] theorem Group.modLanes_sig (g : Group) (ls : List Nat) (f : Nat → Lane → Lane) : (g.modLanes ls f).sig = g.sig := rfl
@[simp] theorem Group.modLanes_z (g : Group) (ls : List Nat) (f : Nat → Lane → Lane) : (g.modLanes ls f).z = g.z := rfl
@[simp] theorem Group.modLanes_tpc (g : Group) (ls : List Nat) (f : Nat → Lane → Lane) : (g.modLanes ls f).tpc = g.tpc := rfl
@[simp] theorem Group.modLanes_tmask (g : Group) (ls : List Nat) (f : Nat → Lane → Lane) : (g.modLanes ls f).tmask = g.tmask := rfl
@[simp] theorem Group.modLanes_tfmode (g : Group) (ls : List Nat) (f : Nat → Lane → Lane) : (g.modLanes ls f).tfmode = g.tfmode := rfl
@[simp] theorem Group.modLanes_rcnt (g : Group) (ls : List Nat) (f : Nat → Lane → Lane) : (g.modLanes ls f).rcnt = g.rcnt := rfl
@[simp] theorem Group.modLanes_rrlim (g : Group) (ls : List Nat) (f : Nat → Lane → Lane) : (g.modLanes ls f).rrlim = g.rrlim := rfl
@[simp] theorem Group.modLanes_nesterr (g : Group) (ls : List Nat) (f : Nat → Lane → Lane) : (g.modLanes ls f).nesterr = g.nesterr := rfl
@[simp] theorem Group.modLanes_ractive (g : Group) (ls : List Nat) (f : Nat → Lane → Lane) : (g.modLanes ls f).ractive = g.ractive := rfl
@[simp] theorem Group.modLanes_rentry (g : Group) (ls : List Nat) (f : Nat → Lane → Lane) : (g.modLanes ls f).rentry = g.rentry := rfl
@[simp] theorem Group.modLanes_rsig (g : Group) (ls : List Nat) (f : Nat → Lane → Lane) : (g.modLanes ls f).rsig = g.rsig := rfl
@[simp] theorem Group.modLanes_readyAt (g : Group) (ls : List Nat) (f : Nat → Lane → Lane) : (g.modLanes ls f).readyAt = g.readyAt := rfl
@[simp] theorem Group.modLanes_deferUntil (g : Group) (ls : List Nat) (f : Nat → Lane → Lane) : (g.modLanes ls f).deferUntil = g.deferUntil := rfl
@[simp] theorem Group.modLanes_deferFor (g : Group) (ls : List Nat) (f : Nat → Lane → Lane) : (g.modLanes ls f).deferFor = g.deferFor := rfl
@[simp] theorem Group.modLanes_pend (g : Group) (ls : List Nat) (f : Nat → Lane → Lane) : (g.modLanes ls f).pend = g.pend := rfl
@[simp] theorem Group.modLanes_busy (g : Group) (ls : List Nat) (f : Nat → Lane → Lane) : (g.modLanes ls f).busy = g.busy := rfl
@[simp] theorem Group.modLanes_wait (g : Group) (ls : List Nat) (f : Nat → Lane → Lane) : (g.modLanes ls f).wait = g.wait := rfl
@[simp] theorem Group.modLanes_held (g : Group) (ls : List Nat) (f : Nat → Lane → Lane) : (g.modLanes ls f).held = g.held := rfl
@[simp] theorem Group.modLanes_stores (g : Group) (ls : List Nat) (f : Nat → Lane → Lane) : (g.modLanes ls f).stores = g.stores := rfl
@[simp] theorem Group.modLanes_fence (g : Group) (ls : List Nat) (f : Nat → Lane → Lane) : (g.modLanes ls f).fence = g.fence := rfl
@[simp] theorem Group.modLanes_dmrPend (g : Group) (ls : List Nat) (f : Nat → Lane → Lane) : (g.modLanes ls f).dmrPend = g.dmrPend := rfl
@[simp] theorem Group.modLanes_rfPend (g : Group) (ls : List Nat) (f : Nat → Lane → Lane) : (g.modLanes ls f).rfPend = g.rfPend := rfl
@[simp] theorem Group.modLanes_rfHold (g : Group) (ls : List Nat) (f : Nat → Lane → Lane) : (g.modLanes ls f).rfHold = g.rfHold := rfl
@[simp] theorem Group.modLanes_late (g : Group) (ls : List Nat) (f : Nat → Lane → Lane) : (g.modLanes ls f).late = g.late := rfl
@[simp] theorem Group.modLanes_secPend (g : Group) (ls : List Nat) (f : Nat → Lane → Lane) : (g.modLanes ls f).secPend = g.secPend := rfl
@[simp] theorem Group.modLanes_poisPend (g : Group) (ls : List Nat) (f : Nat → Lane → Lane) : (g.modLanes ls f).poisPend = g.poisPend := rfl
@[simp] theorem Group.modLanes_far (g : Group) (ls : List Nat) (f : Nat → Lane → Lane) : (g.modLanes ls f).far = g.far := rfl
@[simp] theorem Group.modLanes_born (g : Group) (ls : List Nat) (f : Nat → Lane → Lane) : (g.modLanes ls f).born = g.born := rfl
@[simp] theorem Group.modLanes_accPend (g : Group) (ls : List Nat) (f : Nat → Lane → Lane) : (g.modLanes ls f).accPend = g.accPend := rfl
@[simp] theorem Group.modLanes_fetched (g : Group) (ls : List Nat) (f : Nat → Lane → Lane) : (g.modLanes ls f).fetched = g.fetched := rfl
@[simp] theorem Group.modLanes_sent (g : Group) (ls : List Nat) (f : Nat → Lane → Lane) : (g.modLanes ls f).sent = g.sent := rfl

/-! ### Group.setIndex -/

@[simp] theorem Group.setIndex_team (g : Group) (k : Nat) (x : Index) : (g.setIndex k x).team = g.team := rfl
@[simp] theorem Group.setIndex_grpid (g : Group) (k : Nat) (x : Index) : (g.setIndex k x).grpid = g.grpid := rfl
@[simp] theorem Group.setIndex_width (g : Group) (k : Nat) (x : Index) : (g.setIndex k x).width = g.width := rfl
@[simp] theorem Group.setIndex_nrows (g : Group) (k : Nat) (x : Index) : (g.setIndex k x).nrows = g.nrows := rfl
@[simp] theorem Group.setIndex_core (g : Group) (k : Nat) (x : Index) : (g.setIndex k x).core = g.core := rfl
@[simp] theorem Group.setIndex_quarter (g : Group) (k : Nat) (x : Index) : (g.setIndex k x).quarter = g.quarter := rfl
@[simp] theorem Group.setIndex_slot (g : Group) (k : Nat) (x : Index) : (g.setIndex k x).slot = g.slot := rfl
@[simp] theorem Group.setIndex_half (g : Group) (k : Nat) (x : Index) : (g.setIndex k x).half = g.half := rfl
@[simp] theorem Group.setIndex_service (g : Group) (k : Nat) (x : Index) : (g.setIndex k x).service = g.service := rfl
@[simp] theorem Group.setIndex_sup (g : Group) (k : Nat) (x : Index) : (g.setIndex k x).sup = g.sup := rfl
@[simp] theorem Group.setIndex_pc (g : Group) (k : Nat) (x : Index) : (g.setIndex k x).pc = g.pc := rfl
@[simp] theorem Group.setIndex_lanes (g : Group) (k : Nat) (x : Index) : (g.setIndex k x).lanes = g.lanes := rfl
@[simp] theorem Group.setIndex_scal (g : Group) (k : Nat) (x : Index) : (g.setIndex k x).scal = g.scal := rfl
@[simp] theorem Group.setIndex_ix (g : Group) (k : Nat) (x : Index) : (g.setIndex k x).ix = kset {} g.ix k x := rfl
@[simp] theorem Group.setIndex_ac (g : Group) (k : Nat) (x : Index) : (g.setIndex k x).ac = g.ac := rfl
@[simp] theorem Group.setIndex_fmode (g : Group) (k : Nat) (x : Index) : (g.setIndex k x).fmode = g.fmode := rfl
@[simp] theorem Group.setIndex_gctl (g : Group) (k : Nat) (x : Index) : (g.setIndex k x).gctl = g.gctl := rfl
@[simp] theorem Group.setIndex_txcfg (g : Group) (k : Nat) (x : Index) : (g.setIndex k x).txcfg = g.txcfg := rfl
@[simp] theorem Group.setIndex_ticket (g : Group) (k : Nat) (x : Index) : (g.setIndex k x).ticket = g.ticket := rfl
@[simp] theorem Group.setIndex_hasTx (g : Group) (k : Nat) (x : Index) : (g.setIndex k x).hasTx = g.hasTx := rfl
@[simp] theorem Group.setIndex_sig (g : Group) (k : Nat) (x : Index) : (g.setIndex k x).sig = g.sig := rfl
@[simp] theorem Group.setIndex_z (g : Group) (k : Nat) (x : Index) : (g.setIndex k x).z = g.z := rfl
@[simp] theorem Group.setIndex_tpc (g : Group) (k : Nat) (x : Index) : (g.setIndex k x).tpc = g.tpc := rfl
@[simp] theorem Group.setIndex_tmask (g : Group) (k : Nat) (x : Index) : (g.setIndex k x).tmask = g.tmask := rfl
@[simp] theorem Group.setIndex_tfmode (g : Group) (k : Nat) (x : Index) : (g.setIndex k x).tfmode = g.tfmode := rfl
@[simp] theorem Group.setIndex_rcnt (g : Group) (k : Nat) (x : Index) : (g.setIndex k x).rcnt = g.rcnt := rfl
@[simp] theorem Group.setIndex_rrlim (g : Group) (k : Nat) (x : Index) : (g.setIndex k x).rrlim = g.rrlim := rfl
@[simp] theorem Group.setIndex_nesterr (g : Group) (k : Nat) (x : Index) : (g.setIndex k x).nesterr = g.nesterr := rfl
@[simp] theorem Group.setIndex_ractive (g : Group) (k : Nat) (x : Index) : (g.setIndex k x).ractive = g.ractive := rfl
@[simp] theorem Group.setIndex_rentry (g : Group) (k : Nat) (x : Index) : (g.setIndex k x).rentry = g.rentry := rfl
@[simp] theorem Group.setIndex_rsig (g : Group) (k : Nat) (x : Index) : (g.setIndex k x).rsig = g.rsig := rfl
@[simp] theorem Group.setIndex_readyAt (g : Group) (k : Nat) (x : Index) : (g.setIndex k x).readyAt = g.readyAt := rfl
@[simp] theorem Group.setIndex_deferUntil (g : Group) (k : Nat) (x : Index) : (g.setIndex k x).deferUntil = g.deferUntil := rfl
@[simp] theorem Group.setIndex_deferFor (g : Group) (k : Nat) (x : Index) : (g.setIndex k x).deferFor = g.deferFor := rfl
@[simp] theorem Group.setIndex_pend (g : Group) (k : Nat) (x : Index) : (g.setIndex k x).pend = g.pend := rfl
@[simp] theorem Group.setIndex_busy (g : Group) (k : Nat) (x : Index) : (g.setIndex k x).busy = g.busy := rfl
@[simp] theorem Group.setIndex_wait (g : Group) (k : Nat) (x : Index) : (g.setIndex k x).wait = g.wait := rfl
@[simp] theorem Group.setIndex_held (g : Group) (k : Nat) (x : Index) : (g.setIndex k x).held = g.held := rfl
@[simp] theorem Group.setIndex_stores (g : Group) (k : Nat) (x : Index) : (g.setIndex k x).stores = g.stores := rfl
@[simp] theorem Group.setIndex_fence (g : Group) (k : Nat) (x : Index) : (g.setIndex k x).fence = g.fence := rfl
@[simp] theorem Group.setIndex_dmrPend (g : Group) (k : Nat) (x : Index) : (g.setIndex k x).dmrPend = g.dmrPend := rfl
@[simp] theorem Group.setIndex_rfPend (g : Group) (k : Nat) (x : Index) : (g.setIndex k x).rfPend = g.rfPend := rfl
@[simp] theorem Group.setIndex_rfHold (g : Group) (k : Nat) (x : Index) : (g.setIndex k x).rfHold = g.rfHold := rfl
@[simp] theorem Group.setIndex_late (g : Group) (k : Nat) (x : Index) : (g.setIndex k x).late = g.late := rfl
@[simp] theorem Group.setIndex_secPend (g : Group) (k : Nat) (x : Index) : (g.setIndex k x).secPend = g.secPend := rfl
@[simp] theorem Group.setIndex_poisPend (g : Group) (k : Nat) (x : Index) : (g.setIndex k x).poisPend = g.poisPend := rfl
@[simp] theorem Group.setIndex_far (g : Group) (k : Nat) (x : Index) : (g.setIndex k x).far = g.far := rfl
@[simp] theorem Group.setIndex_born (g : Group) (k : Nat) (x : Index) : (g.setIndex k x).born = g.born := rfl
@[simp] theorem Group.setIndex_accPend (g : Group) (k : Nat) (x : Index) : (g.setIndex k x).accPend = g.accPend := rfl
@[simp] theorem Group.setIndex_fetched (g : Group) (k : Nat) (x : Index) : (g.setIndex k x).fetched = g.fetched := rfl
@[simp] theorem Group.setIndex_sent (g : Group) (k : Nat) (x : Index) : (g.setIndex k x).sent = g.sent := rfl

/-! ### Group.setCounter -/

@[simp] theorem Group.setCounter_team (g : Group) (k : Nat) (v : BitVec 16) : (g.setCounter k v).team = g.team := rfl
@[simp] theorem Group.setCounter_grpid (g : Group) (k : Nat) (v : BitVec 16) : (g.setCounter k v).grpid = g.grpid := rfl
@[simp] theorem Group.setCounter_width (g : Group) (k : Nat) (v : BitVec 16) : (g.setCounter k v).width = g.width := rfl
@[simp] theorem Group.setCounter_nrows (g : Group) (k : Nat) (v : BitVec 16) : (g.setCounter k v).nrows = g.nrows := rfl
@[simp] theorem Group.setCounter_core (g : Group) (k : Nat) (v : BitVec 16) : (g.setCounter k v).core = g.core := rfl
@[simp] theorem Group.setCounter_quarter (g : Group) (k : Nat) (v : BitVec 16) : (g.setCounter k v).quarter = g.quarter := rfl
@[simp] theorem Group.setCounter_slot (g : Group) (k : Nat) (v : BitVec 16) : (g.setCounter k v).slot = g.slot := rfl
@[simp] theorem Group.setCounter_half (g : Group) (k : Nat) (v : BitVec 16) : (g.setCounter k v).half = g.half := rfl
@[simp] theorem Group.setCounter_service (g : Group) (k : Nat) (v : BitVec 16) : (g.setCounter k v).service = g.service := rfl
@[simp] theorem Group.setCounter_sup (g : Group) (k : Nat) (v : BitVec 16) : (g.setCounter k v).sup = g.sup := rfl
@[simp] theorem Group.setCounter_pc (g : Group) (k : Nat) (v : BitVec 16) : (g.setCounter k v).pc = g.pc := rfl
@[simp] theorem Group.setCounter_lanes (g : Group) (k : Nat) (v : BitVec 16) : (g.setCounter k v).lanes = g.lanes := rfl
@[simp] theorem Group.setCounter_scal (g : Group) (k : Nat) (v : BitVec 16) : (g.setCounter k v).scal = g.scal := rfl
@[simp] theorem Group.setCounter_ix (g : Group) (k : Nat) (v : BitVec 16) : (g.setCounter k v).ix = g.ix := rfl
@[simp] theorem Group.setCounter_ac (g : Group) (k : Nat) (v : BitVec 16) : (g.setCounter k v).ac = kset 0 g.ac k v := rfl
@[simp] theorem Group.setCounter_fmode (g : Group) (k : Nat) (v : BitVec 16) : (g.setCounter k v).fmode = g.fmode := rfl
@[simp] theorem Group.setCounter_gctl (g : Group) (k : Nat) (v : BitVec 16) : (g.setCounter k v).gctl = g.gctl := rfl
@[simp] theorem Group.setCounter_txcfg (g : Group) (k : Nat) (v : BitVec 16) : (g.setCounter k v).txcfg = g.txcfg := rfl
@[simp] theorem Group.setCounter_ticket (g : Group) (k : Nat) (v : BitVec 16) : (g.setCounter k v).ticket = g.ticket := rfl
@[simp] theorem Group.setCounter_hasTx (g : Group) (k : Nat) (v : BitVec 16) : (g.setCounter k v).hasTx = g.hasTx := rfl
@[simp] theorem Group.setCounter_sig (g : Group) (k : Nat) (v : BitVec 16) : (g.setCounter k v).sig = g.sig := rfl
@[simp] theorem Group.setCounter_z (g : Group) (k : Nat) (v : BitVec 16) : (g.setCounter k v).z = g.z := rfl
@[simp] theorem Group.setCounter_tpc (g : Group) (k : Nat) (v : BitVec 16) : (g.setCounter k v).tpc = g.tpc := rfl
@[simp] theorem Group.setCounter_tmask (g : Group) (k : Nat) (v : BitVec 16) : (g.setCounter k v).tmask = g.tmask := rfl
@[simp] theorem Group.setCounter_tfmode (g : Group) (k : Nat) (v : BitVec 16) : (g.setCounter k v).tfmode = g.tfmode := rfl
@[simp] theorem Group.setCounter_rcnt (g : Group) (k : Nat) (v : BitVec 16) : (g.setCounter k v).rcnt = g.rcnt := rfl
@[simp] theorem Group.setCounter_rrlim (g : Group) (k : Nat) (v : BitVec 16) : (g.setCounter k v).rrlim = g.rrlim := rfl
@[simp] theorem Group.setCounter_nesterr (g : Group) (k : Nat) (v : BitVec 16) : (g.setCounter k v).nesterr = g.nesterr := rfl
@[simp] theorem Group.setCounter_ractive (g : Group) (k : Nat) (v : BitVec 16) : (g.setCounter k v).ractive = g.ractive := rfl
@[simp] theorem Group.setCounter_rentry (g : Group) (k : Nat) (v : BitVec 16) : (g.setCounter k v).rentry = g.rentry := rfl
@[simp] theorem Group.setCounter_rsig (g : Group) (k : Nat) (v : BitVec 16) : (g.setCounter k v).rsig = g.rsig := rfl
@[simp] theorem Group.setCounter_readyAt (g : Group) (k : Nat) (v : BitVec 16) : (g.setCounter k v).readyAt = g.readyAt := rfl
@[simp] theorem Group.setCounter_deferUntil (g : Group) (k : Nat) (v : BitVec 16) : (g.setCounter k v).deferUntil = g.deferUntil := rfl
@[simp] theorem Group.setCounter_deferFor (g : Group) (k : Nat) (v : BitVec 16) : (g.setCounter k v).deferFor = g.deferFor := rfl
@[simp] theorem Group.setCounter_pend (g : Group) (k : Nat) (v : BitVec 16) : (g.setCounter k v).pend = g.pend := rfl
@[simp] theorem Group.setCounter_busy (g : Group) (k : Nat) (v : BitVec 16) : (g.setCounter k v).busy = g.busy := rfl
@[simp] theorem Group.setCounter_wait (g : Group) (k : Nat) (v : BitVec 16) : (g.setCounter k v).wait = g.wait := rfl
@[simp] theorem Group.setCounter_held (g : Group) (k : Nat) (v : BitVec 16) : (g.setCounter k v).held = g.held := rfl
@[simp] theorem Group.setCounter_stores (g : Group) (k : Nat) (v : BitVec 16) : (g.setCounter k v).stores = g.stores := rfl
@[simp] theorem Group.setCounter_fence (g : Group) (k : Nat) (v : BitVec 16) : (g.setCounter k v).fence = g.fence := rfl
@[simp] theorem Group.setCounter_dmrPend (g : Group) (k : Nat) (v : BitVec 16) : (g.setCounter k v).dmrPend = g.dmrPend := rfl
@[simp] theorem Group.setCounter_rfPend (g : Group) (k : Nat) (v : BitVec 16) : (g.setCounter k v).rfPend = g.rfPend := rfl
@[simp] theorem Group.setCounter_rfHold (g : Group) (k : Nat) (v : BitVec 16) : (g.setCounter k v).rfHold = g.rfHold := rfl
@[simp] theorem Group.setCounter_late (g : Group) (k : Nat) (v : BitVec 16) : (g.setCounter k v).late = g.late := rfl
@[simp] theorem Group.setCounter_secPend (g : Group) (k : Nat) (v : BitVec 16) : (g.setCounter k v).secPend = g.secPend := rfl
@[simp] theorem Group.setCounter_poisPend (g : Group) (k : Nat) (v : BitVec 16) : (g.setCounter k v).poisPend = g.poisPend := rfl
@[simp] theorem Group.setCounter_far (g : Group) (k : Nat) (v : BitVec 16) : (g.setCounter k v).far = g.far := rfl
@[simp] theorem Group.setCounter_born (g : Group) (k : Nat) (v : BitVec 16) : (g.setCounter k v).born = g.born := rfl
@[simp] theorem Group.setCounter_accPend (g : Group) (k : Nat) (v : BitVec 16) : (g.setCounter k v).accPend = g.accPend := rfl
@[simp] theorem Group.setCounter_fetched (g : Group) (k : Nat) (v : BitVec 16) : (g.setCounter k v).fetched = g.fetched := rfl
@[simp] theorem Group.setCounter_sent (g : Group) (k : Nat) (v : BitVec 16) : (g.setCounter k v).sent = g.sent := rfl

/-! ### Lane.setRow -/

@[simp] theorem Lane.setRow_rows (ln : Lane) (n : Nat) (v : W32) : (ln.setRow n v).rows = kset 0 ln.rows n v := rfl
@[simp] theorem Lane.setRow_flags (ln : Lane) (n : Nat) (v : W32) : (ln.setRow n v).flags = ln.flags := rfl
@[simp] theorem Lane.setRow_cnt (ln : Lane) (n : Nat) (v : W32) : (ln.setRow n v).cnt = ln.cnt := rfl
@[simp] theorem Lane.setRow_dup (ln : Lane) (n : Nat) (v : W32) : (ln.setRow n v).dup = ln.dup := rfl
@[simp] theorem Lane.setRow_live (ln : Lane) (n : Nat) (v : W32) : (ln.setRow n v).live = ln.live := rfl
@[simp] theorem Lane.setRow_parked (ln : Lane) (n : Nat) (v : W32) : (ln.setRow n v).parked = ln.parked := rfl
@[simp] theorem Lane.setRow_offs (ln : Lane) (n : Nat) (v : W32) : (ln.setRow n v).offs = ln.offs := rfl
@[simp] theorem Lane.setRow_sr (ln : Lane) (n : Nat) (v : W32) : (ln.setRow n v).sr = ln.sr := rfl
@[simp] theorem Lane.setRow_tnest (ln : Lane) (n : Nat) (v : W32) : (ln.setRow n v).tnest = ln.tnest := rfl
@[simp] theorem Lane.setRow_tcause (ln : Lane) (n : Nat) (v : W32) : (ln.setRow n v).tcause = ln.tcause := rfl
@[simp] theorem Lane.setRow_tval (ln : Lane) (n : Nat) (v : W32) : (ln.setRow n v).tval = ln.tval := rfl
@[simp] theorem Lane.setRow_tsrst (ln : Lane) (n : Nat) (v : W32) : (ln.setRow n v).tsrst = ln.tsrst := rfl
@[simp] theorem Lane.setRow_regCnt (ln : Lane) (n : Nat) (v : W32) : (ln.setRow n v).regCnt = ln.regCnt := rfl
@[simp] theorem Lane.setRow_poison (ln : Lane) (n : Nat) (v : W32) : (ln.setRow n v).poison = ln.poison := rfl
@[simp] theorem Lane.setRow_tx (ln : Lane) (n : Nat) (v : W32) : (ln.setRow n v).tx = ln.tx := rfl
@[simp] theorem Lane.setRow_upset (ln : Lane) (n : Nat) (v : W32) : (ln.setRow n v).upset = ln.upset := rfl

/-! ### Lane.setPair -/

@[simp] theorem Lane.setPair_flags (ln : Lane) (n : Nat) (v : W64) : (ln.setPair n v).flags = ln.flags := rfl
@[simp] theorem Lane.setPair_cnt (ln : Lane) (n : Nat) (v : W64) : (ln.setPair n v).cnt = ln.cnt := rfl
@[simp] theorem Lane.setPair_dup (ln : Lane) (n : Nat) (v : W64) : (ln.setPair n v).dup = ln.dup := rfl
@[simp] theorem Lane.setPair_live (ln : Lane) (n : Nat) (v : W64) : (ln.setPair n v).live = ln.live := rfl
@[simp] theorem Lane.setPair_parked (ln : Lane) (n : Nat) (v : W64) : (ln.setPair n v).parked = ln.parked := rfl
@[simp] theorem Lane.setPair_offs (ln : Lane) (n : Nat) (v : W64) : (ln.setPair n v).offs = ln.offs := rfl
@[simp] theorem Lane.setPair_sr (ln : Lane) (n : Nat) (v : W64) : (ln.setPair n v).sr = ln.sr := rfl
@[simp] theorem Lane.setPair_tnest (ln : Lane) (n : Nat) (v : W64) : (ln.setPair n v).tnest = ln.tnest := rfl
@[simp] theorem Lane.setPair_tcause (ln : Lane) (n : Nat) (v : W64) : (ln.setPair n v).tcause = ln.tcause := rfl
@[simp] theorem Lane.setPair_tval (ln : Lane) (n : Nat) (v : W64) : (ln.setPair n v).tval = ln.tval := rfl
@[simp] theorem Lane.setPair_tsrst (ln : Lane) (n : Nat) (v : W64) : (ln.setPair n v).tsrst = ln.tsrst := rfl
@[simp] theorem Lane.setPair_regCnt (ln : Lane) (n : Nat) (v : W64) : (ln.setPair n v).regCnt = ln.regCnt := rfl
@[simp] theorem Lane.setPair_poison (ln : Lane) (n : Nat) (v : W64) : (ln.setPair n v).poison = ln.poison := rfl
@[simp] theorem Lane.setPair_tx (ln : Lane) (n : Nat) (v : W64) : (ln.setPair n v).tx = ln.tx := rfl
@[simp] theorem Lane.setPair_upset (ln : Lane) (n : Nat) (v : W64) : (ln.setPair n v).upset = ln.upset := rfl

/-! ### Lane.setFlag -/

@[simp] theorem Lane.setFlag_rows (ln : Lane) (k : Nat) (b : Bool) : (ln.setFlag k b).rows = ln.rows := by unfold Lane.setFlag; split <;> rfl
@[simp] theorem Lane.setFlag_cnt (ln : Lane) (k : Nat) (b : Bool) : (ln.setFlag k b).cnt = ln.cnt := by unfold Lane.setFlag; split <;> rfl
@[simp] theorem Lane.setFlag_dup (ln : Lane) (k : Nat) (b : Bool) : (ln.setFlag k b).dup = ln.dup := by unfold Lane.setFlag; split <;> rfl
@[simp] theorem Lane.setFlag_live (ln : Lane) (k : Nat) (b : Bool) : (ln.setFlag k b).live = ln.live := by unfold Lane.setFlag; split <;> rfl
@[simp] theorem Lane.setFlag_parked (ln : Lane) (k : Nat) (b : Bool) : (ln.setFlag k b).parked = ln.parked := by unfold Lane.setFlag; split <;> rfl
@[simp] theorem Lane.setFlag_offs (ln : Lane) (k : Nat) (b : Bool) : (ln.setFlag k b).offs = ln.offs := by unfold Lane.setFlag; split <;> rfl
@[simp] theorem Lane.setFlag_sr (ln : Lane) (k : Nat) (b : Bool) : (ln.setFlag k b).sr = ln.sr := by unfold Lane.setFlag; split <;> rfl
@[simp] theorem Lane.setFlag_tnest (ln : Lane) (k : Nat) (b : Bool) : (ln.setFlag k b).tnest = ln.tnest := by unfold Lane.setFlag; split <;> rfl
@[simp] theorem Lane.setFlag_tcause (ln : Lane) (k : Nat) (b : Bool) : (ln.setFlag k b).tcause = ln.tcause := by unfold Lane.setFlag; split <;> rfl
@[simp] theorem Lane.setFlag_tval (ln : Lane) (k : Nat) (b : Bool) : (ln.setFlag k b).tval = ln.tval := by unfold Lane.setFlag; split <;> rfl
@[simp] theorem Lane.setFlag_tsrst (ln : Lane) (k : Nat) (b : Bool) : (ln.setFlag k b).tsrst = ln.tsrst := by unfold Lane.setFlag; split <;> rfl
@[simp] theorem Lane.setFlag_regCnt (ln : Lane) (k : Nat) (b : Bool) : (ln.setFlag k b).regCnt = ln.regCnt := by unfold Lane.setFlag; split <;> rfl
@[simp] theorem Lane.setFlag_poison (ln : Lane) (k : Nat) (b : Bool) : (ln.setFlag k b).poison = ln.poison := by unfold Lane.setFlag; split <;> rfl
@[simp] theorem Lane.setFlag_tx (ln : Lane) (k : Nat) (b : Bool) : (ln.setFlag k b).tx = ln.tx := by unfold Lane.setFlag; split <;> rfl
@[simp] theorem Lane.setFlag_upset (ln : Lane) (k : Nat) (b : Bool) : (ln.setFlag k b).upset = ln.upset := by unfold Lane.setFlag; split <;> rfl

/-! ### Lane.setOff -/

@[simp] theorem Lane.setOff_rows (ln : Lane) (k : Nat) (v : BitVec 12) : (ln.setOff k v).rows = ln.rows := rfl
@[simp] theorem Lane.setOff_flags (ln : Lane) (k : Nat) (v : BitVec 12) : (ln.setOff k v).flags = ln.flags := rfl
@[simp] theorem Lane.setOff_cnt (ln : Lane) (k : Nat) (v : BitVec 12) : (ln.setOff k v).cnt = ln.cnt := rfl
@[simp] theorem Lane.setOff_dup (ln : Lane) (k : Nat) (v : BitVec 12) : (ln.setOff k v).dup = ln.dup := rfl
@[simp] theorem Lane.setOff_live (ln : Lane) (k : Nat) (v : BitVec 12) : (ln.setOff k v).live = ln.live := rfl
@[simp] theorem Lane.setOff_parked (ln : Lane) (k : Nat) (v : BitVec 12) : (ln.setOff k v).parked = ln.parked := rfl
@[simp] theorem Lane.setOff_offs (ln : Lane) (k : Nat) (v : BitVec 12) : (ln.setOff k v).offs = kset 0 ln.offs k v := rfl
@[simp] theorem Lane.setOff_sr (ln : Lane) (k : Nat) (v : BitVec 12) : (ln.setOff k v).sr = ln.sr := rfl
@[simp] theorem Lane.setOff_tnest (ln : Lane) (k : Nat) (v : BitVec 12) : (ln.setOff k v).tnest = ln.tnest := rfl
@[simp] theorem Lane.setOff_tcause (ln : Lane) (k : Nat) (v : BitVec 12) : (ln.setOff k v).tcause = ln.tcause := rfl
@[simp] theorem Lane.setOff_tval (ln : Lane) (k : Nat) (v : BitVec 12) : (ln.setOff k v).tval = ln.tval := rfl
@[simp] theorem Lane.setOff_tsrst (ln : Lane) (k : Nat) (v : BitVec 12) : (ln.setOff k v).tsrst = ln.tsrst := rfl
@[simp] theorem Lane.setOff_regCnt (ln : Lane) (k : Nat) (v : BitVec 12) : (ln.setOff k v).regCnt = ln.regCnt := rfl
@[simp] theorem Lane.setOff_poison (ln : Lane) (k : Nat) (v : BitVec 12) : (ln.setOff k v).poison = ln.poison := rfl
@[simp] theorem Lane.setOff_tx (ln : Lane) (k : Nat) (v : BitVec 12) : (ln.setOff k v).tx = ln.tx := rfl
@[simp] theorem Lane.setOff_upset (ln : Lane) (k : Nat) (v : BitVec 12) : (ln.setOff k v).upset = ln.upset := rfl

/-! ### Lane.setCnt -/

@[simp] theorem Lane.setCnt_rows (ln : Lane) (n : Nat) : (ln.setCnt n).rows = ln.rows := rfl
@[simp] theorem Lane.setCnt_flags (ln : Lane) (n : Nat) : (ln.setCnt n).flags = ln.flags := rfl
@[simp] theorem Lane.setCnt_cnt (ln : Lane) (n : Nat) : (ln.setCnt n).cnt = n := rfl
@[simp] theorem Lane.setCnt_dup (ln : Lane) (n : Nat) : (ln.setCnt n).dup = n := rfl
@[simp] theorem Lane.setCnt_live (ln : Lane) (n : Nat) : (ln.setCnt n).live = ln.live := rfl
@[simp] theorem Lane.setCnt_parked (ln : Lane) (n : Nat) : (ln.setCnt n).parked = ln.parked := rfl
@[simp] theorem Lane.setCnt_offs (ln : Lane) (n : Nat) : (ln.setCnt n).offs = ln.offs := rfl
@[simp] theorem Lane.setCnt_sr (ln : Lane) (n : Nat) : (ln.setCnt n).sr = ln.sr := rfl
@[simp] theorem Lane.setCnt_tnest (ln : Lane) (n : Nat) : (ln.setCnt n).tnest = ln.tnest := rfl
@[simp] theorem Lane.setCnt_tcause (ln : Lane) (n : Nat) : (ln.setCnt n).tcause = ln.tcause := rfl
@[simp] theorem Lane.setCnt_tval (ln : Lane) (n : Nat) : (ln.setCnt n).tval = ln.tval := rfl
@[simp] theorem Lane.setCnt_tsrst (ln : Lane) (n : Nat) : (ln.setCnt n).tsrst = ln.tsrst := rfl
@[simp] theorem Lane.setCnt_regCnt (ln : Lane) (n : Nat) : (ln.setCnt n).regCnt = ln.regCnt := rfl
@[simp] theorem Lane.setCnt_poison (ln : Lane) (n : Nat) : (ln.setCnt n).poison = ln.poison := rfl
@[simp] theorem Lane.setCnt_tx (ln : Lane) (n : Nat) : (ln.setCnt n).tx = ln.tx := rfl
@[simp] theorem Lane.setCnt_upset (ln : Lane) (n : Nat) : (ln.setCnt n).upset = ln.upset := rfl

end Sys2Proof.Machine
end

