-- ==== Sys2Proof/Laws/Memory.lean ====
section
/-!
SUPPORT. Every operation on global memory keeps the canonical form of its bytes; those that store nothing leave the bytes as they are.
-/

namespace Sys2Proof

open Machine

/-! ## Operations that store nothing -/

/-- Either branch leaves the bytes. -/
theorem ite_bytes {c : Prop} [Decidable c] {a b : State} {m : KMap Byte} (ha : a.mem.bytes = m) (hb : b.mem.bytes = m) :
    (if c then a else b).mem.bytes = m := by split <;> assumption

@[simp] theorem writeBack_bytes (s : State) (sec : Nat) : (s.writeBack sec).mem.bytes = s.mem.bytes := by
  unfold State.writeBack; repeat' split
  all_goals rfl

@[simp] theorem dropSector_bytes (s : State) (sec : Nat) : (s.dropSector sec).mem.bytes = s.mem.bytes := writeBack_bytes s sec

theorem foldl_bytes {α : Type} (f : State → α → State) (hf : ∀ s x, (f s x).mem.bytes = s.mem.bytes) :
    ∀ (xs : List α) (s : State), (xs.foldl f s).mem.bytes = s.mem.bytes
  | [], _ => rfl
  | x :: xs, s => (foldl_bytes f hf xs (f s x)).trans (hf s x)

@[simp] theorem dropLine_bytes (s : State) (line : Nat) : (s.dropLine line).mem.bytes = s.mem.bytes := by
  dsimp only [State.dropLine]
  generalize (List.range 4).map (4 * line + ·) = xs
  exact foldl_bytes _ dropSector_bytes xs s

@[simp] theorem l2Room_bytes (s : State) (sec : Nat) : (s.l2Room sec).mem.bytes = s.mem.bytes := by
  unfold State.l2Room
  refine ite_bytes rfl (ite_bytes rfl ?_)
  split
  · exact dropLine_bytes s _
  · rfl

@[simp] theorem alarm_bytes (s : State) (source : Nat) (asid : Option Nat) : (s.alarm source asid).mem.bytes = s.mem.bytes := rfl

@[simp] theorem fillSector_bytes (s : State) (sec slot asid : Nat) : (s.fillSector sec slot asid).mem.bytes = s.mem.bytes := by
  refine ite_bytes rfl ?_
  have h := (l2Room_bytes _ sec).trans (dropSector_bytes (s.countHub (homeHub (sec * 256)) 0x20 (some asid)) sec)
  split <;> exact h

@[simp] theorem dropL1_bytes (s : State) (p : Nat → Nat → Bool) : (s.dropL1 p).mem.bytes = s.mem.bytes := rfl
@[simp] theorem l1Store_bytes (s : State) (core pa : Nat) (bs : List Byte) : (s.l1Store core pa bs).mem.bytes = s.mem.bytes := rfl
@[simp] theorem revoke_bytes (s : State) (pa : Nat) (core : Option Nat) (asid : Nat) : (s.revoke pa core asid).mem.bytes = s.mem.bytes := by
  simp only [State.revoke]; repeat' split
  all_goals rfl

@[simp] theorem leaveL1_bytes (s : State) (core asid line : Nat) : (s.leaveL1 core asid line).mem.bytes = s.mem.bytes :=
  ite_bytes (revoke_bytes s (line * 256) none asid) rfl

@[simp] theorem l1Put_bytes (s : State) (asid : Nat) (x : L1Line) : (s.l1Put asid x).mem.bytes = s.mem.bytes := by
  have h : ∀ o : Option Nat, (match o with | some l => s.leaveL1 x.core asid l | none => s).mem.bytes = s.mem.bytes := by
    intro o; cases o
    · rfl
    · exact leaveL1_bytes ..
  exact ite_bytes rfl (h _)

@[simp] theorem l1Fill_bytes (s : State) (core asid line slot : Nat) : (s.l1Fill core asid line slot).mem.bytes = s.mem.bytes := l1Put_bytes ..

@[simp] theorem trimL1_bytes (s : State) (core asid : Nat) : (s.trimL1 core asid).mem.bytes = s.mem.bytes :=
  ite_bytes rfl (foldl_bytes _ (fun s l => leaveL1_bytes s core asid l) _ s)

@[simp] theorem flushRegion_bytes (s : State) (r asid : Nat) : (s.flushRegion r asid).mem.bytes = s.mem.bytes :=
  (foldl_bytes _ (fun s x => dropSector_bytes s x) _ _).trans (foldl_bytes _ (fun s (e : Nat × AtomLine) => revoke_bytes s (e.1 * 256) none asid) _ s)

@[simp] theorem transfer_bytes (s : State) (r asid : Nat) : (s.transfer r asid).mem.bytes = s.mem.bytes := flushRegion_bytes s r asid
@[simp] theorem abortHosts_bytes (s : State) (who : Agent) (pa n : Nat) (w : Bool) : (s.abortHosts who pa n w).mem.bytes = s.mem.bytes := rfl
@[simp] theorem report_bytes (s : State) (u c a x v : Nat) : (s.report u c a x v).mem.bytes = s.mem.bytes := rfl

@[simp] theorem touch_bytes (s : State) (who : Agent) (pa n : Nat) (w : Bool) : (s.touch who pa n w).mem.bytes = s.mem.bytes := by
  have h : ((if s.needsTransfer (agentDevice who) pa then s.transfer (regionOf pa) (agentAsid who) else s).mem.bytes = s.mem.bytes) :=
    ite_bytes (transfer_bytes _ _ _) rfl
  exact (revoke_bytes (State.abortHosts _ who pa n w) pa (agentCore who) (agentAsid who)).trans h

@[simp] theorem arrive_bytes (s : State) (who : Agent) (pa n slot : Nat) (w : Bool) : (s.arrive who pa n slot w).mem.bytes = s.mem.bytes := by
  have h := touch_bytes s who pa n w
  exact ite_bytes h (ite_bytes ((fillSector_bytes _ _ _ _).trans h) h)

@[simp] theorem readAt_bytes (s : State) (who : Agent) (pa n slot : Nat) : (s.readAt who pa n slot).1.mem.bytes = s.mem.bytes :=
  arrive_bytes s who pa n slot false

theorem readSpan_bytes (who : Agent) (slot : Nat) : ∀ (fuel : Nat) (s : State) (pa n : Nat),
    (s.readSpan who slot fuel pa n).1.mem.bytes = s.mem.bytes
  | 0, _, _, _ => rfl
  | fuel + 1, s, pa, n => by
    unfold State.readSpan
    split
    · rfl
    · exact (readSpan_bytes who slot fuel _ _ _).trans (readAt_bytes _ _ _ _ _)

@[simp] theorem readRun_bytes (s : State) (who : Agent) (pa slot n : Nat) : (s.readRun who pa slot n).1.mem.bytes = s.mem.bytes :=
  readSpan_bytes who slot _ s pa n

/-! ## Operations that store -/

/-- What leaves the bytes as they are keeps their form. -/
theorem canonical_of_bytes {s t : State} (h : t.mem.bytes = s.mem.bytes) (hs : MemoryCanonical s) : MemoryCanonical t := by
  unfold MemoryCanonical; rw [h]; exact hs

/-- A run of bytes written keeps the form. -/
theorem ksetRun_wf {m : KMap Byte} (h : Memory.wf m = true) (k : Nat) (bs : List Byte) : Memory.wf (ksetRun 0 m k bs) = true :=
  kcanon_ksetRun 0 bs k h

theorem ownSector_canonical {s : State} (h : MemoryCanonical s) (sec slot : Nat) (whole : Bool) : MemoryCanonical (s.ownSector sec slot whole) := by
  unfold State.ownSector MemoryCanonical
  split
  · split
    · dsimp only; exact ksetRun_wf h _ _
    · exact h
  · cases whole
    · simp only [Bool.false_eq_true, if_false]; exact ksetRun_wf h _ _
    · exact h

theorem homeWrite_canonical {s : State} (h : MemoryCanonical s) (pa : Nat) (bs : List Byte) (slot asid : Nat) (whole : Bool) :
    MemoryCanonical (s.homeWrite pa bs slot asid whole) := by
  unfold State.homeWrite
  split
  · exact h
  · refine ksetRun_wf (ownSector_canonical ?_ _ _ _) _ _
    split
    · exact canonical_of_bytes ((l2Room_bytes _ _).trans (dropSector_bytes _ _)) h
    · exact canonical_of_bytes ((l2Room_bytes _ _).trans (fillSector_bytes _ _ _ _)) h

theorem writeAt_canonical {s : State} (h : MemoryCanonical s) (who : Agent) (pa : Nat) (bs : List Byte) (slot : Nat) (whole : Bool) :
    MemoryCanonical (s.writeAt who pa bs slot whole) := by
  have h1 := homeWrite_canonical (canonical_of_bytes (arrive_bytes s who pa bs.length slot true) h) pa bs slot (agentAsid who) whole
  unfold State.writeAt
  simp only
  split
  · exact canonical_of_bytes (l1Store_bytes _ _ _ _) h1
  · exact h1

theorem writeSpan_canonical (who : Agent) (slot : Nat) : ∀ (fuel : Nat) {s : State}, MemoryCanonical s → ∀ (pa : Nat) (bs : List Byte),
    MemoryCanonical (s.writeSpan who slot fuel pa bs)
  | 0, _, h, _, _ => h
  | fuel + 1, s, h, pa, bs => by
    unfold State.writeSpan
    split
    · exact h
    · exact writeSpan_canonical who slot fuel (writeAt_canonical h _ _ _ _ _) _ _

theorem writeRun_canonical {s : State} (h : MemoryCanonical s) (who : Agent) (slot pa : Nat) (bs : List Byte) :
    MemoryCanonical (s.writeRun who slot pa bs) := writeSpan_canonical who slot _ h pa bs

end Sys2Proof
end

