-- ==== Sys2Proof/Laws/Homes.lean ====
section
/-!
SUPPORT. What a read of a byte at its home depends on, and the operations that leave it.
-/

namespace Sys2Proof.Machine

/-- What reads of memory depend on. -/
def memView (s : State) := (s.mem.bytes, s.mem.l2, s.mem.tags, s.mem.regions, s.mem.extents, s.xa.slots, s.xa.keys, s.pkg.ilcfg, s.groups)

theorem countEv_memView (s : State) (a b c : Nat) (d : Option Nat) (n : Nat) : memView (s.countEv a b c d n) = memView s := by
  unfold State.countEv; rfl
/-- A write that arrives without a transfer changes nothing that reads depend on. -/
theorem arrive_memView (s : State) (who : Agent) (pa n slot : Nat) (hn : s.needsTransfer (agentDevice who) pa = false) :
    memView (s.arrive who pa n slot true) = memView s := by
  have hr : ∀ s : State, ∀ c a, memView (s.revoke pa c a) = memView s := by
    intro s c a; unfold State.revoke
    simp only []
    split
    · split
      · split
        · rfl
        · rfl
      · rfl
    · rfl
  unfold State.arrive State.touch
  simp only [hn, if_true, Bool.false_eq_true, if_false]
  rw [hr]; rfl
theorem hasStorage_of_memView {s t : State} (h : memView s = memView t) (pa : Nat) : s.hasStorage pa = t.hasStorage pa := by
  simp only [memView, Prod.mk.injEq] at h
  unfold State.hasStorage State.ilsize State.extentOf
  simp only [h]
theorem fillCheck_of_memView {s t : State} (h : memView s = memView t) (a b : Nat) : s.fillCheck a b = t.fillCheck a b := by
  simp only [memView, Prod.mk.injEq] at h
  unfold State.fillCheck State.tagNow State.tagFor State.macTag State.slot State.regionEntry State.authKey
  simp only [h]
theorem homeByte_of_memView {s t : State} (h : memView s = memView t) (pa : Nat) : s.homeByte pa = t.homeByte pa := by
  have := hasStorage_of_memView h pa
  simp only [memView, Prod.mk.injEq] at h
  unfold State.homeByte State.slotByte State.tagFor State.slot State.regionEntry State.keyByte State.macTag
  simp only [this, h]
/-- A slice with room keeps every line. -/
theorem l2Room_of_room {s t : State} {sec : Nat} (h : t.mem.l2 = kerase s.mem.l2 sec) (hp : t.mem.peer = s.mem.peer) (hr : RoomInL2 s sec) :
    t.l2Room sec = t := by
  unfold State.l2Room
  simp only []
  refine if_pos ?_
  rw [Bool.or_eq_true]
  refine .inr (decide_eq_true (Nat.lt_of_le_of_lt ?_ hr))
  refine (List.Nodup.subperm (List.nodup_dedup _) fun y hy => ?_).length_le
  rw [List.mem_dedup, List.mem_filter] at hy ⊢
  refine ⟨?_, hy.2⟩
  rcases List.mem_append.1 hy.1 with h1 | h1
  · obtain ⟨e, he, rfl⟩ := List.mem_map.1 h1
    rw [h] at he
    exact List.mem_append.2 (.inl (List.mem_map.2 ⟨e, mem_kerase he, rfl⟩))
  · rw [hp] at h1
    exact List.mem_append.2 (.inr h1)

/-- A sector served in clear is in L2 in clear after the fill, and nothing else that reads depend on changes. -/
theorem fillSector_memView (s : State) (sec slot asid : Nat) (hp : ServedPlain s sec slot) (hr : RoomInL2 s sec) :
   ∃ e, (memView (s.fillSector sec slot asid) = memView s ∧ klookup s.mem.l2 sec = some e ∧ e.raw = false) ∨
        (e.raw = false ∧ klookup s.mem.l2 sec = none ∧ ∃ l2, (∀ k, klookup l2 k = if k = sec then some e else klookup s.mem.l2 k) ∧ memView (s.fillSector sec slot asid) = (s.mem.bytes, l2, s.mem.tags, s.mem.regions, s.mem.extents, s.xa.slots, s.xa.keys, s.pkg.ilcfg, s.groups)) := by
  unfold ServedPlain at hp
  unfold State.fillSector
  cases hl : klookup s.mem.l2 sec with
  | some e =>
    rw [hl] at hp
    refine ⟨e, .inl ⟨?_, rfl, hp.2⟩⟩
    have : klookup (s.countHub (homeHub (sec * 256)) 0x20 (some asid)).mem.l2 sec = some e := hl
    simp only [this, hp.1, beq_self_eq_true, if_true]
    exact countEv_memView ..
  | none =>
    rw [hl] at hp
    refine ⟨{ dirty := false, slot := slot }, .inr ⟨rfl, rfl, kput (kerase s.mem.l2 sec) sec { dirty := false, slot := slot }, ?_, ?_⟩⟩
    · intro k
      rw [klookup_kput]
      by_cases hk : k = sec
      · simp [hk]
      · simp only [hk, if_false]; rw [klookup_kerase_of_ne _ hk]
    · have h1 : klookup (s.countHub (homeHub (sec * 256)) 0x20 (some asid)).mem.l2 sec = none := hl
      simp only [h1, Bool.false_eq_true, if_false]
      have hd : ∀ s : State, klookup s.mem.l2 sec = none → s.dropSector sec = { s with mem := { s.mem with l2 := kerase s.mem.l2 sec } } := by
        intro s h; unfold State.dropSector State.writeBack; rw [h]
      rw [hd _ h1, l2Room_of_room (by rfl) (by rfl) hr]
      have hf : ∀ t : State, memView t = (s.mem.bytes, kerase s.mem.l2 sec, s.mem.tags, s.mem.regions, s.mem.extents, s.xa.slots, s.xa.keys, s.pkg.ilcfg, s.groups) → t.fillCheck sec slot = .ok := by
        intro t h
        rw [← hp]
        simp only [memView, Prod.mk.injEq] at h
        unfold State.fillCheck State.tagNow State.tagFor State.macTag State.slot State.regionEntry State.authKey
        simp only [h, hl, klookup_kerase_self]
      rw [hf _ (by rfl)]
      rfl

end Sys2Proof.Machine
end

