-- ==== Sys2Proof/Laws/PerInstr.lean ====
section
/-!
SUPPORT. Statements made instruction by instruction. Family Opcode: where an instruction is a device word, the opcode map names it at the
major and minor code its encoding carries (02_code.md R57, R61).
-/

namespace Sys2Proof.Laws

/-- The opcode map gives the instruction back from its own codes and fields. -/
def Opcode.Statement (i : Instr) : Prop := ∀ (major : BitVec 8) (minor : BitVec 4) (h : Head), deviceParts i = some (major, minor, h) →
  pairOk i = true → (match deviceOf major.toNat minor.toNat with | some f => f h | none => Instr.unassignedOpcode major minor h) = i

/-- An instruction that is no device word. -/
theorem opcode_none {i : Instr} (h : deviceParts i = none) : Opcode.Statement i := by
  intro _ _ _ hp; rw [h] at hp; cases hp

/-- A device word whose codes the map lists. -/
theorem opcode_some {f : Head → Instr} {major : BitVec 8} {minor : BitVec 4} {h : Head} (hp : deviceParts (f h) = some (major, minor, h))
    (hd : deviceOf major.toNat minor.toNat = some f) : Opcode.Statement (f h) := by
  intro a b k ha _
  rw [hp] at ha; cases ha
  rw [hd]

theorem Opcode.coldReset : Opcode.Statement (.coldReset) := opcode_none rfl
theorem Opcode.bootStage (img : BootImage) : Opcode.Statement (.bootStage img) := opcode_none rfl
theorem Opcode.mailboxImage (img : BootImage) : Opcode.Statement (.mailboxImage img) := opcode_none rfl
theorem Opcode.clockStepDown : Opcode.Statement (.clockStepDown) := opcode_none rfl
theorem Opcode.clockStepUp : Opcode.Statement (.clockStepUp) := opcode_none rfl
theorem Opcode.thermalTrip : Opcode.Statement (.thermalTrip) := opcode_none rfl
theorem Opcode.mctpReadSensors : Opcode.Statement (.mctpReadSensors) := opcode_none rfl
theorem Opcode.mctpSetPowerLimit (watts : Nat) : Opcode.Statement (.mctpSetPowerLimit watts) := opcode_none rfl
theorem Opcode.mctpReadEventLog : Opcode.Statement (.mctpReadEventLog) := opcode_none rfl
theorem Opcode.nop (h : Head) : Opcode.Statement (.nop h) := opcode_some (f := .nop) rfl rfl
theorem Opcode.bra (h : Head) : Opcode.Statement (.bra h) := opcode_some (f := .bra) rfl rfl
theorem Opcode.brx (h : Head) : Opcode.Statement (.brx h) := opcode_some (f := .brx) rfl rfl
theorem Opcode.call (h : Head) : Opcode.Statement (.call h) := opcode_some (f := .call) rfl rfl
theorem Opcode.ret (h : Head) : Opcode.Statement (.ret h) := opcode_some (f := .ret) rfl rfl
theorem Opcode.exit (h : Head) : Opcode.Statement (.exit h) := opcode_some (f := .exit) rfl rfl
theorem Opcode.ifc (h : Head) : Opcode.Statement (.ifc h) := opcode_some (f := .ifc) rfl rfl
theorem Opcode.elsec (h : Head) : Opcode.Statement (.elsec h) := opcode_some (f := .elsec) rfl rfl
theorem Opcode.endif (h : Head) : Opcode.Statement (.endif h) := opcode_some (f := .endif) rfl rfl
theorem Opcode.loopc (h : Head) : Opcode.Statement (.loopc h) := opcode_some (f := .loopc) rfl rfl
theorem Opcode.endloop (h : Head) : Opcode.Statement (.endloop h) := opcode_some (f := .endloop) rfl rfl
theorem Opcode.brk (h : Head) : Opcode.Statement (.brk h) := opcode_some (f := .brk) rfl rfl
theorem Opcode.cont (h : Head) : Opcode.Statement (.cont h) := opcode_some (f := .cont) rfl rfl
theorem Opcode.iadd (h : Head) : Opcode.Statement (.iadd h) := opcode_some (f := .iadd) rfl rfl
theorem Opcode.isub (h : Head) : Opcode.Statement (.isub h) := opcode_some (f := .isub) rfl rfl
theorem Opcode.imul (h : Head) : Opcode.Statement (.imul h) := opcode_some (f := .imul) rfl rfl
theorem Opcode.imulh (h : Head) : Opcode.Statement (.imulh h) := opcode_some (f := .imulh) rfl rfl
theorem Opcode.imad (h : Head) : Opcode.Statement (.imad h) := opcode_some (f := .imad) rfl rfl
theorem Opcode.imin (h : Head) : Opcode.Statement (.imin h) := opcode_some (f := .imin) rfl rfl
theorem Opcode.imax (h : Head) : Opcode.Statement (.imax h) := opcode_some (f := .imax) rfl rfl
theorem Opcode.iabs (h : Head) : Opcode.Statement (.iabs h) := opcode_some (f := .iabs) rfl rfl
theorem Opcode.ineg (h : Head) : Opcode.Statement (.ineg h) := opcode_some (f := .ineg) rfl rfl
theorem Opcode.iaddc (h : Head) : Opcode.Statement (.iaddc h) := opcode_some (f := .iaddc) rfl rfl
theorem Opcode.andb (h : Head) : Opcode.Statement (.andb h) := opcode_some (f := .andb) rfl rfl
theorem Opcode.orb (h : Head) : Opcode.Statement (.orb h) := opcode_some (f := .orb) rfl rfl
theorem Opcode.xorb (h : Head) : Opcode.Statement (.xorb h) := opcode_some (f := .xorb) rfl rfl
theorem Opcode.notb (h : Head) : Opcode.Statement (.notb h) := opcode_some (f := .notb) rfl rfl
theorem Opcode.andn (h : Head) : Opcode.Statement (.andn h) := opcode_some (f := .andn) rfl rfl
theorem Opcode.shl (h : Head) : Opcode.Statement (.shl h) := opcode_some (f := .shl) rfl rfl
theorem Opcode.shr (h : Head) : Opcode.Statement (.shr h) := opcode_some (f := .shr) rfl rfl
theorem Opcode.sar (h : Head) : Opcode.Statement (.sar h) := opcode_some (f := .sar) rfl rfl
theorem Opcode.rot (h : Head) : Opcode.Statement (.rot h) := opcode_some (f := .rot) rfl rfl
theorem Opcode.popc (h : Head) : Opcode.Statement (.popc h) := opcode_some (f := .popc) rfl rfl
theorem Opcode.clz (h : Head) : Opcode.Statement (.clz h) := opcode_some (f := .clz) rfl rfl
theorem Opcode.brev (h : Head) : Opcode.Statement (.brev h) := opcode_some (f := .brev) rfl rfl
theorem Opcode.bfx (h : Head) : Opcode.Statement (.bfx h) := opcode_some (f := .bfx) rfl rfl
theorem Opcode.bfi (h : Head) : Opcode.Statement (.bfi h) := opcode_some (f := .bfi) rfl rfl
theorem Opcode.prmb (h : Head) : Opcode.Statement (.prmb h) := opcode_some (f := .prmb) rfl rfl
theorem Opcode.icmp (h : Head) : Opcode.Statement (.icmp h) := opcode_some (f := .icmp) rfl rfl
theorem Opcode.fadd (h : Head) : Opcode.Statement (.fadd h) := opcode_some (f := .fadd) rfl rfl
theorem Opcode.fsub (h : Head) : Opcode.Statement (.fsub h) := opcode_some (f := .fsub) rfl rfl
theorem Opcode.fmul (h : Head) : Opcode.Statement (.fmul h) := opcode_some (f := .fmul) rfl rfl
theorem Opcode.ffma (h : Head) : Opcode.Statement (.ffma h) := opcode_some (f := .ffma) rfl rfl
theorem Opcode.fmin (h : Head) : Opcode.Statement (.fmin h) := opcode_some (f := .fmin) rfl rfl
theorem Opcode.fmax (h : Head) : Opcode.Statement (.fmax h) := opcode_some (f := .fmax) rfl rfl
theorem Opcode.fcmp (h : Head) : Opcode.Statement (.fcmp h) := opcode_some (f := .fcmp) rfl rfl
theorem Opcode.fclass (h : Head) : Opcode.Statement (.fclass h) := opcode_some (f := .fclass) rfl rfl
theorem Opcode.frnd (h : Head) : Opcode.Statement (.frnd h) := opcode_some (f := .frnd) rfl rfl
theorem Opcode.frcp (h : Head) : Opcode.Statement (.frcp h) := opcode_some (f := .frcp) rfl rfl
theorem Opcode.frsq (h : Head) : Opcode.Statement (.frsq h) := opcode_some (f := .frsq) rfl rfl
theorem Opcode.fsqrt (h : Head) : Opcode.Statement (.fsqrt h) := opcode_some (f := .fsqrt) rfl rfl
theorem Opcode.fexp2 (h : Head) : Opcode.Statement (.fexp2 h) := opcode_some (f := .fexp2) rfl rfl
theorem Opcode.flog2 (h : Head) : Opcode.Statement (.flog2 h) := opcode_some (f := .flog2) rfl rfl
theorem Opcode.fsin (h : Head) : Opcode.Statement (.fsin h) := opcode_some (f := .fsin) rfl rfl
theorem Opcode.fcos (h : Head) : Opcode.Statement (.fcos h) := opcode_some (f := .fcos) rfl rfl
theorem Opcode.ftanh (h : Head) : Opcode.Statement (.ftanh h) := opcode_some (f := .ftanh) rfl rfl
theorem Opcode.cvt (h : Head) : Opcode.Statement (.cvt h) := opcode_some (f := .cvt) rfl rfl
theorem Opcode.cvtsr (h : Head) : Opcode.Statement (.cvtsr h) := opcode_some (f := .cvtsr) rfl rfl
theorem Opcode.qpack (h : Head) : Opcode.Statement (.qpack h) := opcode_some (f := .qpack) rfl rfl
theorem Opcode.qunpack (h : Head) : Opcode.Statement (.qunpack h) := opcode_some (f := .qunpack) rfl rfl
theorem Opcode.qscale (h : Head) : Opcode.Statement (.qscale h) := opcode_some (f := .qscale) rfl rfl
theorem Opcode.qdot (h : Head) : Opcode.Statement (.qdot h) := opcode_some (f := .qdot) rfl rfl
theorem Opcode.dot8 (h : Head) : Opcode.Statement (.dot8 h) := opcode_some (f := .dot8) rfl rfl
theorem Opcode.dot16 (h : Head) : Opcode.Statement (.dot16 h) := opcode_some (f := .dot16) rfl rfl
theorem Opcode.mov (h : Head) : Opcode.Statement (.mov h) := opcode_some (f := .mov) rfl rfl
theorem Opcode.movw (h : Head) : Opcode.Statement (.movw h) := opcode_some (f := .movw) rfl rfl
theorem Opcode.sel (h : Head) : Opcode.Statement (.sel h) := opcode_some (f := .sel) rfl rfl
theorem Opcode.sget (h : Head) : Opcode.Statement (.sget h) := opcode_some (f := .sget) rfl rfl
theorem Opcode.sset (h : Head) : Opcode.Statement (.sset h) := opcode_some (f := .sset) rfl rfl
theorem Opcode.xset (h : Head) : Opcode.Statement (.xset h) := opcode_some (f := .xset) rfl rfl
theorem Opcode.xld (h : Head) : Opcode.Statement (.xld h) := opcode_some (f := .xld) rfl rfl
theorem Opcode.xst (h : Head) : Opcode.Statement (.xst h) := opcode_some (f := .xst) rfl rfl
theorem Opcode.xadd (h : Head) : Opcode.Statement (.xadd h) := opcode_some (f := .xadd) rfl rfl
theorem Opcode.shfl (h : Head) : Opcode.Statement (.shfl h) := opcode_some (f := .shfl) rfl rfl
theorem Opcode.shflx (h : Head) : Opcode.Statement (.shflx h) := opcode_some (f := .shflx) rfl rfl
theorem Opcode.bcast (h : Head) : Opcode.Statement (.bcast h) := opcode_some (f := .bcast) rfl rfl
theorem Opcode.vote (h : Head) : Opcode.Statement (.vote h) := opcode_some (f := .vote) rfl rfl
theorem Opcode.firstc (h : Head) : Opcode.Statement (.firstc h) := opcode_some (f := .firstc) rfl rfl
theorem Opcode.gred (h : Head) : Opcode.Statement (.gred h) := opcode_some (f := .gred) rfl rfl
theorem Opcode.scan (h : Head) : Opcode.Statement (.scan h) := opcode_some (f := .scan) rfl rfl
theorem Opcode.compact (h : Head) : Opcode.Statement (.compact h) := opcode_some (f := .compact) rfl rfl
theorem Opcode.rwr (h : Head) : Opcode.Statement (.rwr h) := opcode_some (f := .rwr) rfl rfl
theorem Opcode.remoteDepositArrive (dep : Nat) : Opcode.Statement (.remoteDepositArrive dep) := opcode_none rfl
theorem Opcode.awaitc (h : Head) : Opcode.Statement (.awaitc h) := opcode_some (f := .awaitc) rfl rfl
theorem Opcode.awaitSatisfied (gid : Nat) : Opcode.Statement (.awaitSatisfied gid) := opcode_none rfl
theorem Opcode.ld (h : Head) : Opcode.Statement (.ld h) := opcode_some (f := .ld) rfl rfl
theorem Opcode.loadDataReturn (load : Nat) : Opcode.Statement (.loadDataReturn load) := opcode_none rfl
theorem Opcode.st (h : Head) : Opcode.Statement (.st h) := opcode_some (f := .st) rfl rfl
theorem Opcode.ldu (h : Head) : Opcode.Statement (.ldu h) := opcode_some (f := .ldu) rfl rfl
theorem Opcode.stu (h : Head) : Opcode.Statement (.stu h) := opcode_some (f := .stu) rfl rfl
theorem Opcode.pref (h : Head) : Opcode.Statement (.pref h) := opcode_some (f := .pref) rfl rfl
theorem Opcode.cvta (h : Head) : Opcode.Statement (.cvta h) := opcode_some (f := .cvta) rfl rfl
theorem Opcode.isap (h : Head) : Opcode.Statement (.isap h) := opcode_some (f := .isap) rfl rfl
theorem Opcode.cflush (h : Head) : Opcode.Statement (.cflush h) := opcode_some (f := .cflush) rfl rfl
theorem Opcode.cflushComplete (op : Nat) : Opcode.Statement (.cflushComplete op) := opcode_none rfl
theorem Opcode.cinv (h : Head) : Opcode.Statement (.cinv h) := opcode_some (f := .cinv) rfl rfl
theorem Opcode.bar (h : Head) : Opcode.Statement (.bar h) := opcode_some (f := .bar) rfl rfl
theorem Opcode.barRelease (team n : Nat) : Opcode.Statement (.barRelease team n) := opcode_none rfl
theorem Opcode.binit (h : Head) : Opcode.Statement (.binit h) := opcode_some (f := .binit) rfl rfl
theorem Opcode.barr (h : Head) : Opcode.Statement (.barr h) := opcode_some (f := .barr) rfl rfl
theorem Opcode.barrierPhaseComplete (team off : Nat) : Opcode.Statement (.barrierPhaseComplete team off) := opcode_none rfl
theorem Opcode.bwait (h : Head) : Opcode.Statement (.bwait h) := opcode_some (f := .bwait) rfl rfl
theorem Opcode.bwaitSatisfied (gid : Nat) : Opcode.Statement (.bwaitSatisfied gid) := opcode_none rfl
theorem Opcode.btest (h : Head) : Opcode.Statement (.btest h) := opcode_some (f := .btest) rfl rfl
theorem Opcode.atom (h : Head) : Opcode.Statement (.atom h) := opcode_some (f := .atom) rfl rfl
theorem Opcode.contentionEnterFar (line : Nat) : Opcode.Statement (.contentionEnterFar line) := opcode_none rfl
theorem Opcode.contentionReturnNear (line : Nat) : Opcode.Statement (.contentionReturnNear line) := opcode_none rfl
theorem Opcode.atomu (h : Head) : Opcode.Statement (.atomu h) := opcode_some (f := .atomu) rfl rfl
theorem Opcode.red (h : Head) : Opcode.Statement (.red h) := opcode_some (f := .red) rfl rfl
theorem Opcode.fence (h : Head) : Opcode.Statement (.fence h) := opcode_some (f := .fence) rfl rfl
theorem Opcode.fenceComplete (gid : Nat) : Opcode.Statement (.fenceComplete gid) := opcode_none rfl
theorem Opcode.tbeg (h : Head) : Opcode.Statement (.tbeg h) := opcode_some (f := .tbeg) rfl rfl
theorem Opcode.tbegResume (gid : Nat) : Opcode.Statement (.tbegResume gid) := opcode_none rfl
theorem Opcode.fallbackLockGrant (gid : Nat) : Opcode.Statement (.fallbackLockGrant gid) := opcode_none rfl
theorem Opcode.tend (h : Head) : Opcode.Statement (.tend h) := opcode_some (f := .tend) rfl rfl
theorem Opcode.tendCommit (gid : Nat) : Opcode.Statement (.tendCommit gid) := opcode_none rfl
theorem Opcode.tabort (h : Head) : Opcode.Statement (.tabort h) := opcode_some (f := .tabort) rfl rfl
theorem Opcode.tstat (h : Head) : Opcode.Statement (.tstat h) := opcode_some (f := .tstat) rfl rfl
theorem Opcode.xtbeg (rd rs1 : BitVec 5) : Opcode.Statement (.xtbeg rd rs1) := opcode_none rfl
theorem Opcode.xtend (rd : BitVec 5) : Opcode.Statement (.xtend rd) := opcode_none rfl
theorem Opcode.xtendCommit (host : Nat) : Opcode.Statement (.xtendCommit host) := opcode_none rfl
theorem Opcode.xtabort (code : BitVec 8) : Opcode.Statement (.xtabort code) := opcode_none rfl
theorem Opcode.xtstat (rd : BitVec 5) : Opcode.Statement (.xtstat rd) := opcode_none rfl
theorem Opcode.xspawn (rd rs1 : BitVec 5) : Opcode.Statement (.xspawn rd rs1) := opcode_none rfl
theorem Opcode.hostTxAbort (host : Nat) (cause : Nat) : Opcode.Statement (.hostTxAbort host cause) := opcode_none rfl
theorem Opcode.cpost (h : Head) : Opcode.Statement (.cpost h) := opcode_some (f := .cpost) rfl rfl
theorem Opcode.hazardRelease (op : Nat) : Opcode.Statement (.hazardRelease op) := opcode_none rfl
theorem Opcode.cardUnitWrite (op unit : Nat) : Opcode.Statement (.cardUnitWrite op unit) := opcode_none rfl
theorem Opcode.cardComplete (op : Nat) : Opcode.Statement (.cardComplete op) := opcode_none rfl
theorem Opcode.rst (h : Head) : Opcode.Statement (.rst h) := opcode_some (f := .rst) rfl rfl
theorem Opcode.remotePathLost (pkg : Nat) : Opcode.Statement (.remotePathLost pkg) := opcode_none rfl
theorem Opcode.spawn (h : Head) : Opcode.Statement (.spawn h) := opcode_some (f := .spawn) rfl rfl
theorem Opcode.jopen (h : Head) : Opcode.Statement (.jopen h) := opcode_some (f := .jopen) rfl rfl
theorem Opcode.jclose (h : Head) : Opcode.Statement (.jclose h) := opcode_some (f := .jclose) rfl rfl
theorem Opcode.jcloseFree (op : Nat) : Opcode.Statement (.jcloseFree op) := opcode_none rfl
theorem Opcode.jmul (h : Head) : Opcode.Statement (.jmul h) := opcode_some (f := .jmul) rfl rfl
theorem Opcode.jmulBarrierSatisfied (op : Nat) : Opcode.Statement (.jmulBarrierSatisfied op) := opcode_none rfl
theorem Opcode.jstrm (h : Head) : Opcode.Statement (.jstrm h) := opcode_some (f := .jstrm) rfl rfl
theorem Opcode.jacc (h : Head) : Opcode.Statement (.jacc h) := opcode_some (f := .jacc) rfl rfl
theorem Opcode.jget (h : Head) : Opcode.Statement (.jget h) := opcode_some (f := .jget) rfl rfl
theorem Opcode.jdrain (h : Head) : Opcode.Statement (.jdrain h) := opcode_some (f := .jdrain) rfl rfl
theorem Opcode.jstat (h : Head) : Opcode.Statement (.jstat h) := opcode_some (f := .jstat) rfl rfl
theorem Opcode.joinOpStart (op : Nat) : Opcode.Statement (.joinOpStart op) := opcode_none rfl
theorem Opcode.joinOpComplete (op : Nat) : Opcode.Statement (.joinOpComplete op) := opcode_none rfl
theorem Opcode.fch (h : Head) : Opcode.Statement (.fch h) := opcode_some (f := .fch) rfl rfl
theorem Opcode.fetchOpStart (op : Nat) : Opcode.Statement (.fetchOpStart op) := opcode_none rfl
theorem Opcode.fetchOpComplete (op : Nat) : Opcode.Statement (.fetchOpComplete op) := opcode_none rfl
theorem Opcode.wini (h : Head) : Opcode.Statement (.wini h) := opcode_some (f := .wini) rfl rfl
theorem Opcode.wpush (h : Head) : Opcode.Statement (.wpush h) := opcode_some (f := .wpush) rfl rfl
theorem Opcode.wpop (h : Head) : Opcode.Statement (.wpop h) := opcode_some (f := .wpop) rfl rfl
theorem Opcode.wins (h : Head) : Opcode.Statement (.wins h) := opcode_some (f := .wins) rfl rfl
theorem Opcode.wstat (h : Head) : Opcode.Statement (.wstat h) := opcode_some (f := .wstat) rfl rfl
theorem Opcode.topk (h : Head) : Opcode.Statement (.topk h) := opcode_some (f := .topk) rfl rfl
theorem Opcode.dgrow (h : Head) : Opcode.Statement (.dgrow h) := opcode_some (f := .dgrow) rfl rfl
theorem Opcode.dgrowComplete (op : Nat) : Opcode.Statement (.dgrowComplete op) := opcode_none rfl
theorem Opcode.sys (h : Head) : Opcode.Statement (.sys h) := opcode_some (f := .sys) rfl rfl
theorem Opcode.sret (h : Head) : Opcode.Statement (.sret h) := opcode_some (f := .sret) rfl rfl
theorem Opcode.bkpt (h : Head) : Opcode.Statement (.bkpt h) := opcode_some (f := .bkpt) rfl rfl
theorem Opcode.sigchk (h : Head) : Opcode.Statement (.sigchk h) := opcode_some (f := .sigchk) rfl rfl
theorem Opcode.ireg (h : Head) : Opcode.Statement (.ireg h) := opcode_some (f := .ireg) rfl rfl
theorem Opcode.halt (h : Head) : Opcode.Statement (.halt h) := opcode_some (f := .halt) rfl rfl
theorem Opcode.haltWake (gid : Nat) : Opcode.Statement (.haltWake gid) := opcode_none rfl
theorem Opcode.zget (h : Head) : Opcode.Statement (.zget h) := opcode_some (f := .zget) rfl rfl
theorem Opcode.zset (h : Head) : Opcode.Statement (.zset h) := opcode_some (f := .zset) rfl rfl
theorem Opcode.tlbi (h : Head) : Opcode.Statement (.tlbi h) := opcode_some (f := .tlbi) rfl rfl
theorem Opcode.tlbiComplete (op : Nat) : Opcode.Statement (.tlbiComplete op) := opcode_none rfl
theorem Opcode.replay (h : Head) : Opcode.Statement (.replay h) := opcode_some (f := .replay) rfl rfl
theorem Opcode.ownset (h : Head) : Opcode.Statement (.ownset h) := opcode_some (f := .ownset) rfl rfl
theorem Opcode.ownsetComplete (op : Nat) : Opcode.Statement (.ownsetComplete op) := opcode_none rfl
theorem Opcode.caps (h : Head) : Opcode.Statement (.caps h) := opcode_some (f := .caps) rfl rfl
theorem Opcode.pmc (h : Head) : Opcode.Statement (.pmc h) := opcode_some (f := .pmc) rfl rfl
theorem Opcode.pageWalk (core asid : Nat) (va : BitVec 64) : Opcode.Statement (.pageWalk core asid va) := opcode_none rfl
theorem Opcode.l2RequestDeferred (req : Nat) : Opcode.Statement (.l2RequestDeferred req) := opcode_none rfl
theorem Opcode.l2Fill (sector slot : Nat) : Opcode.Statement (.l2Fill sector slot) := opcode_none rfl
theorem Opcode.gatherDirectReturn (load : Nat) : Opcode.Statement (.gatherDirectReturn load) := opcode_none rfl
theorem Opcode.parityRecovery (p : ParityFault) : Opcode.Statement (.parityRecovery p) := opcode_none rfl
theorem Opcode.ownershipTransfer (region : Nat) : Opcode.Statement (.ownershipTransfer region) := opcode_none rfl
theorem Opcode.cxlExtentEvent (ext : ExtentEvent) : Opcode.Statement (.cxlExtentEvent ext) := opcode_none rfl
theorem Opcode.packetReceive (p : Packet) : Opcode.Statement (.packetReceive p) := opcode_none rfl
theorem Opcode.flitReceive (link : Nat) (f : RawFlit) : Opcode.Statement (.flitReceive link f) := opcode_none rfl
theorem Opcode.linkLaneLoss (link lane : Nat) : Opcode.Statement (.linkLaneLoss link lane) := opcode_none rfl
theorem Opcode.linkRetrainComplete (link : Nat) (ok : Bool) (farSeq : BitVec 12) : Opcode.Statement (.linkRetrainComplete link ok farSeq) := opcode_none rfl
theorem Opcode.planePortReport (plane : Nat) (down : List Nat) : Opcode.Statement (.planePortReport plane down) := opcode_none rfl
theorem Opcode.switchContribution (plane : Nat) (p : Packet) : Opcode.Statement (.switchContribution plane p) := opcode_none rfl
theorem Opcode.switchChunkDeliver (plane chunk : Nat) : Opcode.Statement (.switchChunkDeliver plane chunk) := opcode_none rfl
theorem Opcode.switchBroadcastDeliver (plane : Nat) (p : Packet) : Opcode.Statement (.switchBroadcastDeliver plane p) := opcode_none rfl
theorem Opcode.mailboxDoorbell (value : BitVec 64) : Opcode.Statement (.mailboxDoorbell value) := opcode_none rfl
theorem Opcode.dispatchPlace (task : Nat) : Opcode.Statement (.dispatchPlace task) := opcode_none rfl
theorem Opcode.pairScrub (pair : Nat) : Opcode.Statement (.pairScrub pair) := opcode_none rfl
theorem Opcode.agingStep (task : Nat) : Opcode.Statement (.agingStep task) := opcode_none rfl
theorem Opcode.teamRetire (team : Nat) : Opcode.Statement (.teamRetire team) := opcode_none rfl
theorem Opcode.hostTaskPost (task : Nat) : Opcode.Statement (.hostTaskPost task) := opcode_none rfl
theorem Opcode.htdone (value : BitVec 64) : Opcode.Statement (.htdone value) := opcode_none rfl
theorem Opcode.dispatcherPreempt (task : Nat) : Opcode.Statement (.dispatcherPreempt task) := opcode_none rfl
theorem Opcode.prmtGo (value : BitVec 64) : Opcode.Statement (.prmtGo value) := opcode_none rfl
theorem Opcode.ckctlCheckpoint (value : BitVec 64) : Opcode.Statement (.ckctlCheckpoint value) := opcode_none rfl
theorem Opcode.ckctlRestore (value : BitVec 64) : Opcode.Statement (.ckctlRestore value) := opcode_none rfl
theorem Opcode.preemptHalt (team : Nat) : Opcode.Statement (.preemptHalt team) := opcode_none rfl
theorem Opcode.imageWrite (team : Nat) : Opcode.Statement (.imageWrite team) := opcode_none rfl
theorem Opcode.errorLogArbitrate (unit : Nat) : Opcode.Statement (.errorLogArbitrate unit) := opcode_none rfl
theorem Opcode.kcmdClear : Opcode.Statement (.kcmdClear) := opcode_none rfl
theorem Opcode.kcmdPlain : Opcode.Statement (.kcmdPlain) := opcode_none rfl
theorem Opcode.kcmdLoad (value : BitVec 64) : Opcode.Statement (.kcmdLoad value) := opcode_none rfl
theorem Opcode.kcmdComplete : Opcode.Statement (.kcmdComplete) := opcode_none rfl
theorem Opcode.kprovWrite (value : BitVec 64) : Opcode.Statement (.kprovWrite value) := opcode_none rfl
theorem Opcode.almcfgWrite (value : BitVec 64) : Opcode.Statement (.almcfgWrite value) := opcode_none rfl
theorem Opcode.almrel (value : BitVec 64) : Opcode.Statement (.almrel value) := opcode_none rfl
theorem Opcode.glitchDetect (voltage : Bool) : Opcode.Statement (.glitchDetect voltage) := opcode_none rfl
theorem Opcode.debugIntrusion : Opcode.Statement (.debugIntrusion) := opcode_none rfl
theorem Opcode.alarmContain : Opcode.Statement (.alarmContain) := opcode_none rfl
theorem Opcode.alarmErase : Opcode.Statement (.alarmErase) := opcode_none rfl
theorem Opcode.hostEventRequest (die : Nat) : Opcode.Statement (.hostEventRequest die) := opcode_none rfl
theorem Opcode.registerWrite (addr : Nat) (value : BitVec 64) : Opcode.Statement (.registerWrite addr value) := opcode_none rfl
theorem Opcode.fixedLatencyResultWrite (gid : Nat) : Opcode.Statement (.fixedLatencyResultWrite gid) := opcode_none rfl
theorem Opcode.hostAccess (a : HostAccess) : Opcode.Statement (.hostAccess a) := opcode_none rfl
theorem Opcode.unassignedOpcode (major : BitVec 8) (minor : BitVec 4) (h : Head) : Opcode.Statement (.unassignedOpcode major minor h) := by
  intro a b k ha hk
  simp only [deviceParts, Option.some.injEq, Prod.mk.injEq] at ha
  obtain ⟨rfl, rfl, rfl⟩ := ha
  simp only [pairOk, Option.isNone_iff_eq_none] at hk
  rw [hk]

end Sys2Proof.Laws
end

