-- ==== Sys2Proof/Laws/Wire.lean ====
section
/-!
SUPPORT. What a received flit says: its fields where its CRC is that of its bits, nothing where it is another (13_engines.md R426).
-/

namespace Sys2Proof.Machine

theorem side_low (c low : W64) : (c ++ low).extractLsb' 0 64 = low := by
  apply BitVec.eq_of_getLsbD_eq; intro i hi
  have := BitVec.getLsbD_append (x := c) (y := low) (i := i)
  simp only [hi, ite_true] at this
  simpa [hi, BitVec.getLsbD_extractLsb'] using this

theorem side_high (c low : W64) : (c ++ low).extractLsb' 64 64 = c := by
  apply BitVec.eq_of_getLsbD_eq; intro i hi
  have := BitVec.getLsbD_append (x := c) (y := low) (i := 64 + i)
  rw [if_neg (by omega), Nat.add_sub_cancel_left] at this
  simpa [hi, BitVec.getLsbD_extractLsb'] using this

/-- What a flit's body and the sideband below its CRC say. -/
def flitMeans (b : BitVec 2048) (low : W64) : Flit :=
  { body := match (low.extractLsb' 30 2).toNat with
      | 0 => .idle
      | 1 => (match headerPacket (b.extractLsb' 0 192) ((bodyBytes b).drop 64) with | some p => .header p | none => .reserved)
      | 2 => .data (bodyBytes b)
      | _ => .control
    seq := low.extractLsb' 0 12, av := low.getLsbD 29, ack := low.extractLsb' 12 12, cred := (low.extractLsb' 32 8).toNat }

theorem flitRead_good (b : BitVec 2048) (low : W64) : flitRead { body := b, side := flitCrc b low ++ low } = some (flitMeans b low) := by
  unfold flitRead
  simp only [side_low, side_high]
  exact if_neg (fun h => h rfl)

theorem flitRead_bad (b : BitVec 2048) (low c : W64) (h : c ≠ flitCrc b low) : flitRead { body := b, side := c ++ low } = none := by
  unfold flitRead
  simp only [side_low, side_high]
  exact if_pos h

/-- The sideband of a flit below its CRC. -/
def flitLow (f : Flit) : W64 := (0 : BitVec 24) ++ BitVec.ofNat 8 f.cred ++ bodyKind f.body ++ BitVec.ofBool f.av ++ (0 : BitVec 5) ++ f.ack ++ f.seq

/-- A flit that is received as it was sent says what its bits say. -/
theorem flitRead_raw (f : Flit) : flitRead (flitRaw f) = some (flitMeans (bodyBits f.body) (flitLow f)) :=
  flitRead_good (bodyBits f.body) (flitLow f)

end Sys2Proof.Machine
end

