-- ==== Sys2Proof/Tests/Slice0.lean ====
section
/-!
SUPPORT. Tests of the model on small fixed values, and states and operands that meet the hypotheses of the statements. Expected results are
the manual's own worked examples, or worked by hand from the rule that the test's comment names.
-/

namespace Sys2Proof.Tests

open Sys2Proof Sys2Proof.Machine

set_option Elab.async false

/-! ## Instructions in brief -/

def v (n : BitVec 11) : Operand := .row n 0 0
def sr (n : BitVec 6) : Operand := .scal n 0
/-- A field that is not used. -/
def z : Operand := .row 0 0 0
/-- A head without guard, hints or parameter block. -/
def hd (t : Ty) (m : BitVec 5) (d a b : Operand) : Head :=
  { guard := { inv := false, flag := 0 }, stall := 0, yield := false, reuse := false, ty := t, mods := m, d := d, a := a, b := b, params := none }
def Head.block (h : Head) (w0 w1 w2 w3 : PWord) : Head := { h with params := some { w0 := w0, w1 := w1, w2 := w2, w3 := w3 } }
def lit0 : PWord := .lit 0

/-! ## Well-formedness: one ill-formed term for every check -/

/-- R58: GINV with GFLAG 0. -/
theorem smoke_guard : (Instr.iadd { hd .i32 0 (v 1) (v 2) (v 3) with guard := { inv := true, flag := 0 } }).wf = false := by decide
/-- R38: a reserved type code. -/
theorem smoke_type : (Instr.iadd (hd (.reserved 0) 0 (v 1) (v 2) (v 3))).wf = false := by decide
/-- R40: bits that the kind requires to be zero, in D, A and B. -/
theorem smoke_operand_d : (Instr.iadd (hd .i32 0 (.row 1 0 1) (v 2) (v 3))).wf = false := by decide
theorem smoke_operand_a : (Instr.iadd (hd .i32 0 (v 1) (.scal 2 1) (v 3))).wf = false := by decide
theorem smoke_operand_b : (Instr.iadd (hd .i32 0 (v 1) (v 2) (.row 3 0 32))).wf = false := by decide
/-- R40: an immediate in D. -/
theorem smoke_dest : (Instr.iadd (hd .i32 0 (.imm 1) (v 2) (v 3))).wf = false := by decide
/-- R52: movw without its block, iadd with one. -/
theorem smoke_block_missing : (Instr.movw (hd .n32 0 (v 1) z z)).wf = false := by decide
theorem smoke_block_extra : (Instr.iadd (Head.block (hd .i32 0 (v 1) (v 2) (v 3)) lit0 lit0 lit0 lit0)).wf = false := by decide
/-- R57: the pair of iadd is assigned. -/
theorem smoke_pair : (Instr.unassignedOpcode 0x10 0 (hd .b32 0 z z z)).wf = false := by decide
/-- R246, R242, R428, R463, R473: numbers outside their range. -/
theorem smoke_events : Instr.wf (.barRelease 0 16) = false ∧ Instr.wf (.barrierPhaseComplete 0 8) = false ∧
    Instr.wf (.pageWalk 240 0 0) = false ∧ Instr.wf (.pageWalk 0 65536 0) = false ∧ Instr.wf (.pageWalk 0 0 0x0040000000000000) = false ∧
    Instr.wf (.ownershipTransfer (2 ^ 31)) = false ∧ Instr.wf (.linkLaneLoss 18 0) = false ∧ Instr.wf (.linkLaneLoss 0 16) = false ∧
    Instr.wf (.linkRetrainComplete 18 true 0) = false ∧ Instr.wf (.planePortReport 18 []) = false ∧ Instr.wf (.pairScrub 120) = false ∧
    Instr.wf (.errorLogArbitrate 6) = false ∧ Instr.wf (.hostEventRequest 4) = false ∧ Instr.wf (.xtendCommit 48) = false ∧
    Instr.wf (.hostTxAbort 48 1) = false ∧ Instr.wf (.mctpSetPowerLimit 2400) = false := by decide
theorem smoke_flit : Instr.wf (.flitReceive 18 { body := 0, side := 0 }) = false := by decide
theorem smoke_image : Instr.wf (.bootStage { payload := [], signature := [], ilsize := 97 }) = false ∧
    Instr.wf (.mailboxImage { payload := [], signature := [], ilsize := 97 }) = false := by decide
/-- A well-formed instruction passes. -/
theorem smoke_ok : (Instr.iadd (hd .i32 0 (v 1) (v 2) (v 3))).wf = true ∧ Instr.wf (.hostEventRequest 3) = true := by decide

/-! ## Decoding: words written out from the encodings of the manual -/

/-- The twelve bytes of a word given as bits 95 to 64 and bits 63 to 0, as the manual's worked encodings give them. -/
def wordOf (hi lo : Nat) : List Byte := leBytes 12 (hi * 2 ^ 64 + lo)

/-- 02_code.md, a worked encoding: `@!f2 iadd.i32 v12, v[ix3+5]+, s7 !3 !y`. -/
theorem test_decode_iadd : decodeBytes [0x07, 0x00, 0x70, 0x16, 0x00, 0x31, 0x00, 0x00, 0xA0, 0x38, 0x0A, 0x10] =
    some (.iadd { hd .i32 0 (v 12) (.ind 3 true 5 0) (sr 7) with guard := { inv := true, flag := 2 }, stall := 3, yield := true }, []) := by
  decide +kernel
/-- 02_code.md R27, R39: `bra` of the control family, B = the immediate -12. -/
theorem test_decode_bra : decodeBytes (wordOf 0x00200000 0x1FFFF4) = some (.bra (hd .b32 0 z z (.imm 0x7FFF4)), []) := by decide +kernel
/-- 03_lanes.md: `if f1, e1` and `@f3 brk #2`. -/
theorem test_decode_if : decodeBytes (wordOf 0x01000000 0x000000000038000F) = some (.ifc (hd .b32 0 z (v 1) (.imm 15)), []) := by decide +kernel
theorem test_decode_brk : decodeBytes (wordOf 0x01530000 0x0000000000180002) =
    some (.brk { hd .b32 0 z z (.imm 2) with guard := { inv := false, flag := 3 } }, []) := by decide +kernel
/-- 02_code.md R27, R38 for majors 0x11, 0x12, 0x30, 0x31: `and.b32 v1, v2, v3`, `popc.b32 v1, v2`, `ffma.f32 v1, v2, s3`, `frcp.f32 v1, v2`. -/
theorem test_decode_logic : decodeBytes (wordOf 0x11000000 0x0000040000400003) = some (.andb (hd .b32 0 (v 1) (v 2) (v 3)), []) := by decide +kernel
theorem test_decode_popc : decodeBytes (wordOf 0x12000000 0x0000040000400000) = some (.popc (hd .b32 0 (v 1) (v 2) z), []) := by decide +kernel
theorem test_decode_ffma : decodeBytes (wordOf 0x30300160 0x0000040000500003) = some (.ffma (hd .f32 0 (v 1) (v 2) (sr 3)), []) := by decide +kernel
theorem test_decode_frcp : decodeBytes (wordOf 0x31000160 0x0000040000400000) = some (.frcp (hd .f32 0 (v 1) (v 2) z), []) := by decide +kernel
/-- 06_pipes.md: `cvtsr.bf16x2.f32x2 v4, v6`. -/
theorem test_decode_cvtsr : decodeBytes (wordOf 0x50100236 0x0000100000C00000) = some (.cvtsr (hd .bf16x2 22 (v 4) (v 6) z), []) := by decide +kernel
/-- R27 for majors 0x51, 0x52: `qpack.q4.k2 v21, v8, v20`, `dot8.i8x4 v1, v2, v3`. -/
theorem test_decode_qpack : decodeBytes (wordOf 0x510001E2 0x0000540001000014) = some (.qpack (hd .q4 2 (v 21) (v 8) (v 20)), []) := by decide +kernel
theorem test_decode_dot8 : decodeBytes (wordOf 0x52100280 0x0000040000400003) = some (.dot8 (hd .i8x4 0 (v 1) (v 2) (v 3)), []) := by decide +kernel
/-- 04_rows.md R131: `movw.n64 s5, <5, 512, 0, 0>`; R27 for 0x61 and 0x63: `sget.b64`'s class field and `shfl`. -/
theorem test_decode_movw : decodeBytes (wordOf 0x60100100 0xC000140000000000 ++ leBytes 16 (5 + 512 * 2 ^ 32)) =
    some (.movw (Head.block (hd .n64 0 (sr 5) z z) (.lit 5) (.lit 512) lit0 lit0), []) := by decide +kernel
theorem test_decode_sget : decodeBytes (wordOf 0x61000000 0x0000040002400000) = some (.sget (hd .b32 0 (v 1) (v 18) z), []) := by decide +kernel
theorem test_decode_shfl : decodeBytes (wordOf 0x63000000 0x0000040000580001) = some (.shfl (hd .b32 0 (v 1) (v 2) (.imm 1)), []) := by decide +kernel
/-- 17_programs_rows.md: `@f5 wins f1, s12, v5` and `@f4 xadd ix2, #1`; 04_rows.md: `await ac1, #3`. -/
theorem test_decode_wins : decodeBytes (wordOf 0xB0450000 0x0000060001800005) =
    some (.wins { hd .b32 0 (v 1) (sr 12) (v 5) with guard := { inv := false, flag := 5 } }, []) := by decide +kernel
theorem test_decode_xadd : decodeBytes (wordOf 0x62340000 0x00000B0000200000) =
    some (.xadd { hd .b32 0 (v 2) (.imm 1) z with guard := { inv := false, flag := 4 } }, []) := by decide +kernel
theorem test_decode_await : decodeBytes (wordOf 0x64100000 0x0000070000600000) = some (.awaitc (hd .b32 0 (v 1) (.imm 3) z), []) := by decide +kernel
/-- 07_local.md: `st.n32.pkg.rel.c3 s2, v1, #64` and `barr s4, #65536`; 17_programs_rows.md: `ld.b32.q.pkg v8, v0`. -/
theorem test_decode_st : decodeBytes [0x40, 0x00, 0x3B, 0x00, 0x00, 0x08, 0x00, 0x40, 0xCA, 0x00, 0x10, 0x70] =
    some (.st (hd .n32 10 (sr 2) (v 1) (.imm 0x30040)), []) := by decide +kernel
theorem test_decode_barr : decodeBytes [0x00, 0x00, 0x99, 0x00, 0x00, 0x02, 0x00, 0x00, 0x00, 0x00, 0x20, 0x80] =
    some (.barr (hd .b32 0 z (sr 4) (.imm 0x10000)), []) := by decide +kernel
theorem test_decode_ld : decodeBytes [0x00, 0x80, 0x18, 0x00, 0x00, 0x20, 0x00, 0x00, 0x02, 0x00, 0x00, 0x70] =
    some (.ld (hd .b32 2 (v 8) (v 0) (.imm 0x8000)), []) := by decide +kernel
/-- R27 for majors 0x71, 0x72: `cvta s3, s4` and `cinv.all`. -/
theorem test_decode_cvta : decodeBytes (wordOf 0x71000000 0x40000E0000800000) = some (.cvta (hd .b32 0 (sr 3) (sr 4) z), []) := by decide +kernel
theorem test_decode_cinv : decodeBytes (wordOf 0x72100001 0) = some (.cinv (hd .b32 1 z z z), []) := by decide +kernel
/-- 09_order.md: an atom with its block, and `fence.pkg #0x02`. -/
theorem test_decode_atom : decodeBytes (wordOf 0x880000C0 0x8000120000580001 ++ [0x02] ++ List.replicate 15 0) =
    some (.atom (Head.block (hd .n32 0 (v 4) (sr 2) (.imm 1)) (.lit 2) lit0 lit0 lit0), []) := by decide +kernel
theorem test_decode_fence : decodeBytes [0x02, 0x00, 0x18, 0x00, 0x00, 0x00, 0x00, 0x00, 0x02, 0x00, 0x30, 0x88] =
    some (.fence (hd .b32 2 z z (.imm 2)), []) := by decide +kernel
/-- 10_transactions.md: `tabort #9`; 18_programs_joins.md: `@!f1 tstat v7`. -/
theorem test_decode_tabort : decodeBytes [0x09, 0x00, 0x18, 0x00, 0x00, 0x00, 0x00, 0x00, 0x00, 0x00, 0x20, 0x90] =
    some (.tabort (hd .b32 0 z z (.imm 9)), []) := by decide +kernel
theorem test_decode_tstat : decodeBytes [0x00, 0x00, 0x00, 0x00, 0x00, 0x1C, 0x00, 0x00, 0x00, 0x00, 0x39, 0x90] =
    some (.tstat { hd .b32 0 (v 7) z z with guard := { inv := true, flag := 1 } }, []) := by decide +kernel
/-- 13_engines.md: `cpost s9, s3` and `rst.n32.c2 s6, v4, #0 <s7, 0, 0, 0>`; 14_time.md: `spawn s5, s4`. -/
theorem test_decode_cpost : decodeBytes [0x00, 0x00, 0x60, 0x00, 0x00, 0x26, 0x00, 0x40, 0x00, 0x00, 0x00, 0x98] =
    some (.cpost (hd .b32 0 (sr 9) (sr 3) z), []) := by decide +kernel
theorem test_decode_rst : decodeBytes ([0x00, 0x00, 0x9A, 0x00, 0x00, 0x18, 0x00, 0xC0, 0xC0, 0x00, 0x10, 0x98, 0x00, 0x00, 0x00, 0x8E]
      ++ List.replicate 12 0) = some (.rst (Head.block (hd .n32 0 (sr 6) (v 4) (.imm 0x20000)) (.sub 7 0) lit0 lit0 lit0), []) := by decide +kernel
theorem test_decode_spawn : decodeBytes [0x00, 0x00, 0x80, 0x00, 0x00, 0x16, 0x00, 0x40, 0x00, 0x00, 0x20, 0x98] =
    some (.spawn (hd .b32 0 (sr 5) (sr 4) z), []) := by decide +kernel
/-- 11_tun.md: `jmul s10, s4, s5 <s6, s7, s8, 0>`. -/
theorem test_decode_jmul : decodeBytes [0x05, 0x00, 0x90, 0x00, 0x00, 0x2A, 0x00, 0xC0, 0x00, 0x00, 0x20, 0xA0, 0x00, 0x00, 0x00, 0x8C,
      0x00, 0x00, 0x00, 0x8E, 0x00, 0x00, 0x00, 0x90, 0x00, 0x00, 0x00, 0x00] =
    some (.jmul (Head.block (hd .b32 0 (sr 10) (sr 4) (sr 5)) (.sub 6 0) (.sub 7 0) (.sub 8 0) lit0), []) := by decide +kernel
/-- 02_code.md R51: `s5-16` as a parameter word. -/
theorem test_decode_pword : PWord.ofBits 0x8BFFFFF0 = .sub 5 0x1FFFFF0 := by decide +kernel
/-- 12_irregular.md: topk of rows through ix2. -/
theorem test_decode_topk : decodeBytes [0x06, 0x00, 0x58, 0x00, 0x00, 0x21, 0x00, 0x00, 0x61, 0x01, 0x00, 0xB1] =
    some (.topk (hd .f32 1 (v 8) (.ind 2 false 0 0) (.imm 6)), []) := by decide +kernel
/-- 15_traps.md: `sys #7` and `zget.cr s3, TPC`; 19_programs_faults.md: `halt s3`, `replay s9`, `bwait.pend s11, s9, #0`. -/
theorem test_decode_sys : decodeBytes [0x07, 0x00, 0x18, 0x00, 0x00, 0x00, 0x00, 0x00, 0x00, 0x00, 0x00, 0xF0] =
    some (.sys (hd .b32 0 z z (.imm 7)), []) := by decide +kernel
theorem test_decode_zget : decodeBytes [0x00, 0x00, 0x20, 0x00, 0x00, 0x0C, 0x00, 0x40, 0x01, 0x00, 0x00, 0xF1] =
    some (.zget (hd .b32 1 (sr 3) (v 1) z), []) := by decide +kernel
theorem test_decode_halt : decodeBytes (wordOf 0xF0500000 0x40000C0000000000) = some (.halt (hd .b32 0 (sr 3) z z), []) := by decide +kernel
theorem test_decode_replay : decodeBytes (wordOf 0xF4100000 0x4000240000000000) = some (.replay (hd .b32 0 (sr 9) z z), []) := by decide +kernel
theorem test_decode_bwait : decodeBytes (wordOf 0x80300000 0x40002E0001380000) = some (.bwait (hd .b32 0 (sr 11) (sr 9) (.imm 0)), []) := by decide +kernel
/-- 16_tenancy.md: `pmc.hub s4, #2`; 08_memory.md: `tlbi.va s3, s4, #7`. -/
theorem test_decode_pmc : decodeBytes [0x00, 0x00, 0x40, 0x00, 0x00, 0x13, 0x00, 0x40, 0x01, 0x00, 0x10, 0xF8] =
    some (.pmc (hd .b32 1 (sr 4) (.imm 2) z), []) := by decide +kernel
theorem test_decode_tlbi : decodeBytes (wordOf 0xF4000000 0x40000E0000980007) = some (.tlbi (hd .b32 0 (sr 3) (sr 4) (.imm 7)), []) := by decide +kernel
/-- R57: major 0x10 has minors 0 to 9; the pair 0x10, 10 is unassigned. -/
theorem test_decode_unassigned : decodeBytes (wordOf 0x10A00000 0) = some (.unassignedOpcode 0x10 10 (hd .b32 0 z z z), []) := by decide +kernel
/-- 10_transactions.md R346: funct3 4 is xspawn, a nonzero field marked 0 is no Xovmtx instruction, and neither is another opcode. -/
theorem test_decode_host : decodeHost 0x0005C50B = some (.xspawn 10 11) ∧ decodeHost 0x0015850B = none ∧ decodeHost 0x1050200B = none ∧
    decodeHost 0x00000013 = none ∧ decodeHost 0x0000150B = some (.xtend 10) ∧ decodeHost 0x0000350B = some (.xtstat 10) := by decide +kernel

/-! ## A small machine -/

/-- A lane with rows 0 to 3 holding 1 to 4. -/
def lane0 : Lane := { rows := [(0, 1), (1, 2), (2, 3), (3, 4)], flags := 2 }
/-- A group of 32 lanes with 64 rows: s4 is the base of the scratchpad, s6 and s7 are handles, s8 and s9 addresses of two mapped pages. -/
def grp : Group :=
  { team := 0, grpid := 0, width := 32, nrows := 64, core := 0, quarter := 0, slot := 0, half := 0, service := false, sup := false, pc := 0x10000,
    lanes := List.replicate 32 lane0, scal := [(4, 0x0100000000000000), (5, 3), (6, 0x10000), (7, 0x20001), (8, 0x10000), (9, 0x14000)] }
def sgrp : Group := { grp with sup := true }
/-- An open partition, of block grain or of element grain. -/
def part0 (gen : Nat) (elem : Bool) : Partition :=
  { gen := gen, half := 0, slots := 8, probe := 1, elem := elem, dmr := false, int := false, cmask := 0, afmt := 11, ageo := 0, bfmt := 11,
    bgeo := 0, acb := 0, ascb := 0, bcb := 0, bscb := 0, fbase := 0x10000, fcap := 32 }
/-- Its team, with 64 KiB of scratchpad and two partitions. -/
def team0 : Team :=
  { task := 1, teamid := 0, asid := 1, core := 0, paired := false, ngroup := 1, sbytes := 65536, tun := 8, txok := true, locbase := 0,
    locsize := 0, prio := 2, trapsOn := true, placedAt := 0, parts := [(0, part0 1 false), (1, part0 2 true)] }
/-- Pages of this package and of package 0's domain window, held in the core's TLB with A and D set. -/
def here : TlbEntry := { l1 := true, unit := 0, asid := 1, vpn := 4, size := 1, pte := 0x103F3, eaddr := 0 }
def there : TlbEntry := { l1 := true, unit := 0, asid := 1, vpn := 5, size := 1, pte := 0x80000000003F3, eaddr := 16 }
/-- The machine with group `g` acting. -/
def act (g : Group) : State :=
  { groups := [(0, g)], teams := [(0, team0)], nextGid := 1, cur := .group 0, xa := State.reset.xa,
    mem := { tlb := [here, there] } }

/-- `Clear` holds of every listed instruction on group `g`. -/
abbrev ClearAll (g : Group) (l : List (Shape × Head)) : Prop := ∀ p ∈ l, Clear p.1 (act g) 0 g p.2

/-- `T v1, v2, v3`, with modifiers. -/
def abc (t : Ty) (m : BitVec 5 := 0) : Head := hd t m (v 1) (v 2) (v 3)
/-- `T v1, v2`. -/
def ab (t : Ty) (m : BitVec 5 := 0) : Head := hd t m (v 1) (v 2) z
/-- A uniform form: `T s1, s5, s5`. -/
def uni (t : Ty) (m : BitVec 5 := 0) : Head := hd t m (sr 1) (sr 5) (sr 5)

/-! ## Witnesses: states and operands that meet the hypotheses of the statements -/

theorem witness_integer : ClearAll grp
    [(satShape 0 (abc .i32) (tyInt .i32), abc .i32), (satShape 1 (uni .n64) (tyInt .n64), uni .n64), (mulShape 2 (abc .n32), abc .n32),
     (mulShape 3 (abc .i32), abc .i32), (imadShape (abc .i32), abc .i32), (intShape 0x10 5 (abc .i32) true, abc .i32),
     (intShape 0x10 6 (abc .n32) true, abc .n32), (unSatShape 7 (ab .i32), ab .i32), (unSatShape 8 (ab .i32), ab .i32)] := by decide +kernel
theorem witness_logic : ClearAll grp
    [(logShape 0 (abc .b32), abc .b32), (logShape 1 (uni .b32), uni .b32), (logShape 2 (abc .i32), abc .i32), (notShape (ab .b32), ab .b32),
     (logShape 4 (abc .b32), abc .b32), (logShape 5 (abc .b32), abc .b32), (logShape 6 (abc .b32), abc .b32), (logShape 7 (abc .b32), abc .b32),
     (logShape 8 (abc .b32), abc .b32)] := by decide +kernel
theorem witness_bits : ClearAll grp
    [(countShape 0 (ab .b32), ab .b32), (countShape 1 (ab .b32), ab .b32), (brevShape (ab .b32), ab .b32), (intShape 0x12 3 (abc .i32) true, abc .i32),
     (bfiShape (abc .b32), abc .b32), (prmbShape (abc .b32), abc .b32), (icmpShape (abc .i32), abc .i32), (iaddcShape (abc .i32 1), abc .i32 1),
     (iaddcShape (uni .n64 1), uni .n64 1)] := by decide +kernel
theorem witness_float : ClearAll grp
    [(arithShape 0 (abc .f32), abc .f32), (arithShape 1 (abc .f16), abc .f16), (arithShape 2 (abc .f16x2), abc .f16x2), (ffmaShape (abc .f32), abc .f32),
     (mnmxShape 4 (abc .f32), abc .f32), (mnmxShape 5 (uni .f64), uni .f64), (frndShape (ab .f32), ab .f32),
     (fcmpShape 6 (abc .f32) true, abc .f32), (fclassShape (hd .f32 0 (v 1) (v 2) (.imm 1)) grp, hd .f32 0 (v 1) (v 2) (.imm 1))] := by decide +kernel
theorem witness_special_functions : ClearAll grp
    [(sfuShape 0 (ab .f32) true, ab .f32), (sfuShape 2 (ab .f32) true, ab .f32), (sfuShape 1 (ab .f32) false, ab .f32),
     (sfuShape 3 (ab .f32) false, ab .f32), (sfuShape 4 (ab .f32) false, ab .f32), (sfuShape 5 (ab .f32) false, ab .f32),
     (sfuShape 6 (ab .f32) false, ab .f32), (sfuShape 7 (ab .f32) false, ab .f32)] := by decide +kernel
theorem witness_conversions : ClearAll grp
    [(cvtShape 0 (ab .i32 1), ab .i32 1), (cvtShape 1 (ab .f16 11), ab .f16 11), (qpackShape (hd .q4 0 (v 21) (v 8) (v 20)), hd .q4 0 (v 21) (v 8) (v 20)),
     (qunpackShape (hd .f32 0 (v 24) (v 21) (v 20)), hd .f32 0 (v 24) (v 21) (v 20)), (qscaleShape (hd .q4 0 (v 20) (v 8) z), hd .q4 0 (v 20) (v 8) z),
     (qdotShape (abc .f32), abc .f32), (dot8Shape (abc .i8x4), abc .i8x4), (dot16Shape (abc .f16x2), abc .f16x2)] ∧
    (let h := hd .q4 0 (v 20) (v 8) z
     ∀ l ∈ grp.parts h.guard, ∀ e ∈ blockRows (rowOf grp h.a 0) (h.mods.getLsbD 4) l, (grp.lane e.1).poison.contains e.2 = false) := by decide +kernel
theorem witness_moves : ClearAll grp
    [(movShape (ab .b32), ab .b32), (movwShape (Head.block (hd .b32 0 (v 1) z z) (.lit 5) lit0 lit0 lit0), Head.block (hd .b32 0 (v 1) z z) (.lit 5) lit0 lit0 lit0),
     (selShape (abc .b32), abc .b32), (sgetShape (hd .b32 0 (v 1) (v 0) z), hd .b32 0 (v 1) (v 0) z),
     (ssetShape (hd .b32 0 (v 16) (sr 5) z), hd .b32 0 (v 16) (sr 5) z), (xstShape (hd .b32 0 (v 1) (v 15) z), hd .b32 0 (v 1) (v 15) z),
     (xaddShape (hd .b32 0 (v 2) (.imm 1) z), hd .b32 0 (v 2) (.imm 1) z)] := by decide +kernel
/-- The window ends with the last declared row. -/
theorem witness_xset : let h := Head.block (hd .b32 1 (v 15) z z) (.lit 40) (.lit 24) (.lit 1) lit0
    Clear (xsetShape h) (act grp) 0 grp h ∧ (paramValues grp h).1.toNat ≤ 2047 ∧ (paramValues grp h).2.1.toNat ≤ 4095 ∧
      (paramValues grp h).1.toNat + (paramValues grp h).2.1.toNat ≤ grp.nrows := by decide +kernel
theorem witness_xld : let h := hd .b32 0 (v 0) (v 2) (sr 5)
    Clear (xldShape h) (act grp) 0 grp h ∧ (readNum grp h.b).extractLsb' 31 33 = 0 ∧
      ((readNum grp h.b).extractLsb' 0 11).toNat + ((readNum grp h.b).extractLsb' 11 12).toNat ≤ grp.nrows := by decide +kernel
theorem witness_cross_lane : (ClearAll grp
    [(shflShape (abc .b32) grp, abc .b32), (shflxShape (hd .b32 0 (v 1) (v 2) (v 3)), hd .b32 0 (v 1) (v 2) (v 3)),
     (bcastShape (hd .b32 0 (v 1) (v 2) (sr 5)), hd .b32 0 (v 1) (v 2) (sr 5)), (voteShape (hd .b32 0 (sr 1) (v 1) z), hd .b32 0 (sr 1) (v 1) z),
     (firstShape (hd .b32 0 (sr 1) (v 1) z), hd .b32 0 (sr 1) (v 1) z), (gredShape (hd .i32 0 (sr 1) (v 1) z), hd .i32 0 (sr 1) (v 1) z),
     (scanShape (ab .i32 0), ab .i32 0), (compactShape (ab .b32), ab .b32)]) := by decide +kernel
/-- A group of which row 1 alone is poisoned, in lanes 1 to 31: what shfl, shflx, bcast and first read is not. -/
def spoiled : Group := { grp with lanes := lane0 :: List.replicate 31 { lane0 with poison := [1] } }
theorem witness_cross_lane_rows :
    (let h := abc .b32
     Clear (shflShape h spoiled) (act spoiled) 0 spoiled h ∧ ∀ l ∈ spoiled.parts h.guard,
       ∀ e ∈ rowsA (plainCtx (shflShape h spoiled) 0 spoiled h 0) (shflShape h spoiled)
           (shflSrc (h.mods.toNat % 8) (segLen spoiled.width (h.mods.toNat / 8)) l (srcB (shflShape h spoiled) spoiled h l)),
         (spoiled.lane e.1).poison.contains e.2 = false) ∧
    (let h := abc .b32
     Clear (shflxShape h) (act spoiled) 0 spoiled h ∧ ∀ l ∈ spoiled.parts h.guard, srcB (shflxShape h) spoiled h l < spoiled.width ∧
       (spoiled.lane (srcB (shflxShape h) spoiled h l)).poison.contains (rowOf spoiled h.a 0) = false) ∧
    (let h := hd .b32 0 (v 5) (v 2) (.imm 32)
     Clear (shflxShape h) (act spoiled) 0 spoiled h ∧ ∀ l ∈ spoiled.parts h.guard, spoiled.width ≤ srcB (shflxShape h) spoiled h l ∧
       srcB (shflxShape h) spoiled h l < 2 * spoiled.width ∧
       (spoiled.lane (srcB (shflxShape h) spoiled h l - spoiled.width)).poison.contains (rowOf spoiled h.a 0 + 1) = false) ∧
    (let h := hd .b32 0 (v 5) (v 1) (sr 1)
     Clear (bcastShape h) (act spoiled) 0 spoiled h ∧ spoiled.parts h.guard ≠ [] ∧
       ∀ e ∈ rowsA (plainCtx (bcastShape h) 0 spoiled h 0) (bcastShape h) ((readNum spoiled h.b).toNat % spoiled.width),
         (spoiled.lane e.1).poison.contains e.2 = false) ∧
    (let h := hd .b32 0 (sr 1) (v 1) z
     Clear (firstShape h) (act spoiled) 0 spoiled h ∧ h.mods.getLsbD 0 = false ∧ spoiled.parts h.guard ≠ [] ∧
       poisonFail { firstShape h with cross := false } spoiled h (lowest (spoiled.parts h.guard)) = none) := by
  refine ⟨?_, ?_, ?_, ?_, ?_⟩ <;> decide +kernel

/-! ### Control flow -/

theorem witness_branches :
    Clear (ctlShape 0x00 1 (hd .b32 0 z z z)) (act grp) 0 grp (hd .b32 0 z z z) ∧
    (let h := hd .b32 0 z z (.imm 0x7FFF4); Clear { ctlShape 0x00 2 h with b := fImm } (act grp) 0 grp h) ∧
    (let h := hd .b32 0 z (sr 4) z
     Clear { ctlShape 0x00 3 h with a := fScal } (act grp) 0 grp h ∧ (readNum grp h.a).extractLsb' 0 2 = 0) ∧
    (let h := hd .b32 0 (sr 1) z (sr 4)
     Clear { ctlShape 0x00 4 h with d := fScal, b := fScalRaw } (act grp) 0 grp h ∧
       (if isImm h.b then branchTarget grp h.b else readNum grp h.b).extractLsb' 0 2 = 0) ∧
    (let h := hd .b32 0 z (sr 4) z
     Clear { ctlShape 0x00 5 h with a := fScal, inactive := true } (act grp) 0 grp h ∧ (readNum grp h.a).extractLsb' 0 2 = 0) := by
  refine ⟨?_, ?_, ?_, ?_, ?_⟩ <;> decide +kernel
/-- Targets that are no multiple of 4: s5 holds 3. -/
theorem witness_branches_align :
    (let h := hd .b32 0 z (sr 5) z
     Clear { ctlShape 0x00 3 h with a := fScal } (act grp) 0 grp h ∧ grp.parts h.guard ≠ [] ∧ (readNum grp h.a).extractLsb' 0 2 ≠ 0) ∧
    (let h := hd .b32 0 (sr 1) z (sr 5)
     Clear { ctlShape 0x00 4 h with d := fScal, b := fScalRaw } (act grp) 0 grp h ∧ grp.parts h.guard ≠ [] ∧
       (if isImm h.b then branchTarget grp h.b else readNum grp h.b).extractLsb' 0 2 ≠ 0) ∧
    (let h := hd .b32 0 z (sr 5) z
     let g : Group := { grp with lanes := List.replicate 32 (lane0.setCnt 1) }
     Clear { ctlShape 0x00 5 h with a := fScal, inactive := true } (act grp) 0 grp h ∧ grp.parts h.guard ≠ [] ∧
       Clear { ctlShape 0x00 5 h with a := fScal, inactive := true } (act g) 0 g h ∧ g.actives = [] ∧ (readNum g h.a).extractLsb' 0 2 ≠ 0) := by
  refine ⟨?_, ?_, ?_⟩ <;> decide +kernel
/-- A group whose lanes stand in an if at depth 1. -/
def deep : Group := { grp with lanes := List.replicate 32 (lane0.setCnt 1) }
theorem witness_structured :
    (let h := hd .b32 0 z (v 1) (.imm 15)
     Clear { ctlShape 0x01 0 h with modsOk := h.mods.toNat < 2, a := .cls 8, b := fImm, always := true, inactive := true,
                                    reads := flagItems (clsNum h.a) } (act grp) 0 grp h ∧
       nestOver grp (fun l ln => if ln.cnt = 0 then (if (grp.lane l).flag (clsNum h.a) != h.mods.getLsbD 0 then 0 else 1) else ln.cnt + 1) = []) ∧
    (let h := hd .b32 0 z z (.imm 15)
     Clear { ctlShape 0x01 1 h with b := fImm, always := true, inactive := true } (act deep) 0 deep h ∧
     Clear { ctlShape 0x01 4 h with b := fImm, always := true, inactive := true } (act grp) 0 grp h) ∧
    (let h := hd .b32 0 z z z
     Clear { ctlShape 0x01 2 h with always := true, inactive := true } (act deep) 0 deep h ∧
     Clear { ctlShape 0x01 3 h with always := true, inactive := true } (act grp) 0 grp h ∧
       nestOver grp (fun _ ln => if ln.cnt > 0 then ln.cnt + 2 else 0) = []) ∧
    (let h := hd .b32 0 z z (.imm 14)
     Clear { ctlShape 0x01 5 h with b := fImm, inactive := true, extra := must (decide ((readRaw grp h.b).toNat ≤ 14)) } (act grp) 0 grp h) ∧
    (let h := hd .b32 0 z z (.imm 15)
     Clear { ctlShape 0x01 6 h with b := fImm, inactive := true, extra := must (decide ((readRaw grp h.b).toNat ≤ 15)) } (act grp) 0 grp h) := by
  refine ⟨?_, ?_, ?_, ?_, ?_⟩ <;> decide +kernel
/-- Counters of 16, which an if, and of 15, which a loop would raise past 16. -/
theorem witness_nest : let full : Group := { grp with lanes := List.replicate 32 (lane0.setCnt 16) }
    let near : Group := { grp with lanes := List.replicate 32 (lane0.setCnt 15) }
    (let h := hd .b32 0 z (v 1) (.imm 15)
     Clear { ctlShape 0x01 0 h with modsOk := h.mods.toNat < 2, a := .cls 8, b := fImm, always := true, inactive := true,
                                    reads := flagItems (clsNum h.a) } (act full) 0 full h ∧
       nestOver full (fun l ln => if ln.cnt = 0 then (if (full.lane l).flag (clsNum h.a) != h.mods.getLsbD 0 then 0 else 1) else ln.cnt + 1) ≠ []) ∧
    (let h := hd .b32 0 z z z
     Clear { ctlShape 0x01 3 h with always := true, inactive := true } (act near) 0 near h ∧
       nestOver near (fun _ ln => if ln.cnt > 0 then ln.cnt + 2 else 0) ≠ []) := by
  refine ⟨?_, ?_⟩ <;> decide +kernel
theorem witness_exit : (let h := hd .b32 0 z z z
    Clear { ctlShape 0x00 6 h with region := true } (act grp) 0 grp h ∧ grp.sup = false) := by decide +kernel
/-- A handler that ends lane 0 of a group with others left. -/
theorem witness_exit_last : let h := hd .b32 0 z z z
    let s1 := (((act sgrp).countCore 0 0x12 1 0).modGroup 0 fun g1 => g1.modLanes (sgrp.parts h.guard) fun _ ln => { ln.dropTx with live := false }).txSettle 0
    Clear { ctlShape 0x00 6 h with region := true } (act sgrp) 0 sgrp h ∧ sgrp.parts h.guard ≠ [] ∧
      (∃ g1, klookup s1.groups 0 = some g1 ∧ g1.sup = true ∧ g1.service = false ∧ g1.lives = []) ∧
      (let h0 : Head := { h with guard := { inv := true, flag := 1 } }
       Clear { ctlShape 0x00 6 h0 with region := true } (act sgrp) 0 sgrp h0 ∧ sgrp.parts h0.guard = []) := by
  refine ⟨by decide +kernel, by decide +kernel, ⟨_, rfl, by decide +kernel, by decide +kernel, by decide +kernel⟩, by decide +kernel⟩
theorem witness_exit_handler : let h : Head := { hd .b32 0 z z z with guard := { inv := false, flag := 1 } }
    let g : Group := { sgrp with lanes := lane0 :: List.replicate 31 { lane0 with flags := 0 } }
    let s1 := (((act g).countCore 0 0x12 1 0).modGroup 0 fun g1 => g1.modLanes (g.parts h.guard) fun _ ln => { ln.dropTx with live := false }).txSettle 0
    Clear { ctlShape 0x00 6 h with region := true } (act g) 0 g h ∧ g.parts h.guard ≠ [] ∧
      ∃ g1, klookup s1.groups 0 = some g1 ∧ g1.sup = true ∧ g1.service = false ∧ g1.lives ≠ [] := by
  refine ⟨by decide +kernel, by decide +kernel, _, rfl, by decide +kernel, by decide +kernel, by decide +kernel⟩

/-! ### Deposits and caches -/

theorem witness_rwr : let h := hd .b32 3 (v 1) (v 2) (.imm 0)
    Clear (rwrShape h) (act grp) 0 grp h ∧
      ∃ t gt, (act grp).groupOf grp.team (readNum grp h.b).toNat = some t ∧ klookup (act grp).groups t = some gt ∧ gt.ended = false :=
  ⟨by decide +kernel, 0, grp, by decide +kernel, by decide +kernel, by decide +kernel⟩
theorem witness_deposit : let d : Deposit := { src := 0, dst := 0, row := 63, ctr := 3, vals := [(31, 7)] }
    let s : State := { act grp with ops := [(5, .deposit d)], nextOp := 6 }
    klookup s.ops 5 = some (.deposit d) ∧ klookup s.groups d.dst = some grp ∧ depositBlocked s 5 d.src d.dst = false ∧ grp.ended = false ∧
      (let q : Group := { grp with pend := [{ due := 0, item := .row 63, olds := [] }, { due := 9, item := .row 7, olds := [] }] }
       ∀ p ∈ q.pend, p.item = .row d.row → p.due ≤ s.clock) := by
  decide +kernel
theorem witness_await : ∀ h ∈ [hd .b32 0 (v 3) (.imm 0xFFFF) z, hd .b32 0 (v 0) (.imm 0) z], Clear (awaitShape h grp) (act grp) 0 grp h := by
  decide +kernel
/-- A group that waits for arrivals, all of which are there. -/
def awaiting : Group := { grp with ac := [(3, 5)], wait := .await 3 5, held := some { major := 0x64, minor := 1, head := hd .b32 0 (v 3) (.imm 5) z, lanes := [0] } }
theorem witness_await_satisfied : klookup (act awaiting).groups 0 = some awaiting ∧ awaiting.wait = .await 3 5 ∧ 5 ≤ (awaiting.counter 3).toNat ∧
    (act awaiting).groupHalted awaiting = false := by decide +kernel
theorem witness_cache : ∀ p ∈ [(prefShape (hd .b32 0 z (v 2) (.imm 0)), hd .b32 0 z (v 2) (.imm 0)), (cvtaShape (hd .b32 0 (sr 3) (sr 4) z), hd .b32 0 (sr 3) (sr 4) z),
    (isapShape (hd .b32 0 (v 1) (sr 4) z), hd .b32 0 (v 1) (sr 4) z), (cflushShape (hd .b32 1 (sr 3) (v 2) z), hd .b32 1 (sr 3) (v 2) z),
    (cinvShape (hd .b32 1 z z z), hd .b32 1 z z z), (cinvShape (hd .b32 0 z (v 2) z), hd .b32 0 z (v 2) z)],
    Clear p.1 (act grp) 0 grp p.2 ∧ NoTx grp p.2 ∧
      (act grp).cacheWaits grp ((grp.parts p.2.guard).map fun l => (l, readOp grp (opndOf p.1.a) p.2.a l)) = false := by decide +kernel
theorem witness_cflush_complete : let s : State := { act grp with ops := [(5, .cflush 0 3 [64] true)] }
    klookup s.ops 5 = some (.cflush 0 3 [64] true) ∧ klookup s.groups 0 = some grp := by decide +kernel

/-! ### Loads and stores, on the team's scratchpad -/

/-- Four rows to and from the start of the scratchpad (Q of R225); a scalar to and from its second word. -/
theorem witness_ld : let h := hd .b32 1 (v 8) (sr 4) (.imm 0x8000)
    let ask : Ask := { use := .read, scope := scopeOf h.mods, packed := false, noDev := false, cvt := h.mods.getLsbD 4 }
    Clear (ldShape h) (act grp) 0 grp h ∧ NoTx grp h ∧ h.mods.getLsbD 4 = false ∧ grp.sent = none ∧
      AllResident ((grp.parts h.guard).map fun l =>
        (act grp).laneLook grp 1 ask (some l) l (laneAddr (plainCtx (ldShape h) 0 grp h 0) (act grp) h.a (accOff h.b) (accSize h) l) (accSize h)) := by
  decide +kernel
/-- The page at s8 as one of bf16 elements, for the contiguous ld with cvt. -/
def elems : State := { act grp with mem := { tlb := [{ here with pte := 0x103F3 + 10 * 2 ^ 111 }] } }
theorem witness_ld_cvt : let h := hd .f32 18 (v 8) (sr 8) (.imm 0)
    let c := plainCtx (ldShape h) 0 grp h 0
    let ask : Ask := { use := .read, scope := scopeOf h.mods, packed := false, noDev := false, cvt := true }
    h.mods.getLsbD 4 = true ∧ Clear (ldShape h) elems 0 grp h ∧ NoTx grp h ∧ cvtWaits c elems h.a (accOff h.b) = [] ∧
      cvtStride c elems h.a (accOff h.b) = 2 ∧
      AllResident ((grp.parts h.guard).map fun l => elems.cvtLook grp 1 ask l (laneAddr c elems h.a (accOff h.b) 2 l)) := by decide +kernel
/-- Misaligned addresses: s5 holds 3; a page that denies reads. -/
theorem witness_ld_traps :
    (let h := hd .b32 0 (v 8) (sr 5) (.imm 0x8000)
     let c := plainCtx (ldShape h) 0 grp h 0
     let looks := (grp.parts h.guard).map fun l => (act grp).laneLook grp 1 { use := .read, scope := scopeOf h.mods, packed := false, noDev := false, cvt := false }
       (some l) l (laneAddr c (act grp) h.a (accOff h.b) (accSize h) l) (accSize h)
     h.mods.getLsbD 4 = false ∧ Judged (ldShape h) (act grp) 0 grp h looks ∧
       (firstCause (looks.map (poisonLook (ldShape h) false c))).map (·.1) = some cAlign) ∧
    (let h := hd .b32 0 (sr 3) (sr 8) (.imm 0)
     let s : State := { act grp with mem := { tlb := [{ here with pte := 0x103E3 }] } }
     let look := s.laneLook grp 1 { use := .read, scope := scopeOf h.mods, packed := false, noDev := false, cvt := false } none
       (lowest (grp.parts h.guard)) (grp.getS (scalNum h.a) + accOff h.b) (accSize h)
     Judged (lduShape h) s 0 grp h [look] ∧ look.cause.map (·.2) = some cAccess) ∧
    (let h := hd .b32 0 (sr 5) (v 4) (.imm 0x8000)
     let c := plainCtx (stShape h) 0 grp h 0
     let looks := (grp.parts h.guard).map fun l => (act grp).laneLook grp 1 { use := .write, scope := scopeOf h.mods, packed := true, noDev := false, cvt := false }
       (some l) l (laneAddr c (act grp) h.d (accOff h.b) (accSize h) l) (accSize h)
     Judged (stShape h) (act grp) 0 grp h looks ∧ (firstCause (looks.map (poisonLook (stShape h) false c))).map (·.1) = some cAlign) ∧
    (let h := hd .b32 0 (sr 4) (sr 5) (.imm 1)
     let look := (act grp).laneLook grp 1 { use := .write, scope := scopeOf h.mods, packed := true, noDev := false, cvt := false } none
       (lowest (grp.parts h.guard)) (grp.getS (scalNum h.d) + accOff h.b) (accSize h)
     Judged (stuShape h) (act grp) 0 grp h [look] ∧ look.cause.map (·.2) = some cAlign) := by
  refine ⟨?_, ?_, ?_, ?_⟩ <;> decide +kernel
/-- Past the 64 KiB of the scratchpad; a window of an unpaired team; a page that denies reads; one of another tenant's key; a compressed one. -/
theorem witness_lane_causes : let ask : Ask := { use := .read, scope := 0, packed := true, noDev := false, cvt := false }
    let at' (pte : BitVec 128) : State := { act grp with mem := { tlb := [{ here with pte := pte }] } }
    (0x0100000000000002#64).toNat % 4 ≠ 0 ∧ (act grp).target grp none 0x0100000000010000 4 = .bound ∧ (act grp).target grp none (2 ^ 60) 4 = .deny ∧
      (at' 0x103E3).target grp none 0x10000 4 = .virt [(0x10000, 4)] ∧ (at' 0x103E3).peek (.core 0) 1 0x10000 false ask.use = .deny ∧
      (at' (0x103F3 + 7 * 2 ^ 116)).peek (.core 0) 1 0x10000 false ask.use = .key ∧
      (match (at' (0x103F3 + 7 * 2 ^ 108)).peek (.core 0) 1 0x10000 false ask.use with | .ok _ e => pteGeo e == 7 | _ => false) = true := by
  decide +kernel
theorem witness_ldu : let h := hd .b32 1 (sr 3) (sr 4) (.imm 4)
    let ask : Ask := { use := .read, scope := scopeOf h.mods, packed := false, noDev := false, cvt := false }
    Clear (lduShape h) (act grp) 0 grp h ∧ NoTx grp h ∧ grp.sent = none ∧
      AllResident [(act grp).laneLook grp 1 ask none 0 (grp.getS (scalNum h.a) + accOff h.b) (accSize h)] := by decide +kernel
theorem witness_st : let h := hd .b32 1 (sr 4) (v 4) (.imm 0x8000)
    let ask : Ask := { use := .write, scope := scopeOf h.mods, packed := true, noDev := false, cvt := false }
    Clear (stShape h) (act grp) 0 grp h ∧ NoTx grp h ∧
      AllResident ((grp.parts h.guard).map fun l =>
        (act grp).laneLook grp 1 ask (some l) l (laneAddr (plainCtx (stShape h) 0 grp h 0) (act grp) h.d (accOff h.b) (accSize h) l) (accSize h)) := by
  decide +kernel
theorem witness_stu : let h := hd .b32 1 (sr 4) (sr 5) (.imm 4)
    let ask : Ask := { use := .write, scope := scopeOf h.mods, packed := true, noDev := false, cvt := false }
    Clear (stuShape h) (act grp) 0 grp h ∧ NoTx grp h ∧
      AllResident [(act grp).laneLook grp 1 ask none 0 (grp.getS (scalNum h.d) + accOff h.b) (accSize h)] := by decide +kernel
/-- A load whose one lane has its data. -/
def load0 : Load :=
  { gid := 0, lanes := [{ lane := 0, row := 8, va := 0x0100000000000000, chunks := [], fmt := 0, got := [], done := some [1, 2, 3, 4], bad := false }],
    uni := [], size := 4, ty := .b32, part := 0, scal := none, cvt := none, scope := 1, acq := false, gather := [0] }
theorem witness_load_return : let s : State := { act grp with ops := [(5, .load load0)] }
    klookup s.ops 5 = some (.load load0) ∧
      ∃ L1, klookup ((load0.lanes.map (·.lane)).foldl (fun t l => t.performLane 5 l) s).ops 5 = some (.load L1) ∧
        ∀ x ∈ L1.lanes, x.done.isSome = true :=
  ⟨by decide +kernel, load0, by decide +kernel, by decide +kernel⟩

/-! ### Barriers, atomics, fences -/

theorem some_of {α : Type} {o : Option α} (h : o.isSome = true) : ∃ x, o = some x := Option.isSome_iff_exists.1 h

theorem witness_bar : let h := hd .b32 0 (v 15) z (.imm 1)
    Clear (barShape h) (act grp) 0 grp h ∧ NoTx grp h ∧ grp.parts h.guard ≠ [] ∧ barCount (act grp) grp h.b ≤ (act grp).ngroup grp ∧
      ∃ s1, (act grp).releaseAll 0 (grp.parts h.guard) allColours 1 true = some s1 :=
  ⟨by decide +kernel, by decide +kernel, by decide +kernel, by decide +kernel, some_of (by decide +kernel)⟩
theorem witness_bar_release : let t : Team := { team0 with bars := [(15, { leaving := [0] })] }
    let s : State := { act grp with teams := [(0, t)] }
    klookup s.teams 0 = some t ∧ t.halted = false ∧ (t.bar 15).leaving ≠ [] := by decide +kernel
/-- R246: of two groups, the second arrival completes the episode, with both; an arrival after that counts to the next one. -/
theorem test_bar_arrive : let b := (({} : BarState).arrive 3 2).arrive 5 2
    (({} : BarState).arrive 3 2).leaving = [] ∧ b.leaving = [3, 5] ∧ b.arrived = 0 ∧ (b.arrive 3 2).arrived = 1 := by decide +kernel
/-- The scratchpad's first object, for the instructions that name it with s4. -/
theorem witness_objects : ∀ p ∈ [(binitShape (Head.block (hd .b32 0 z (sr 4) z) (.lit 1) lit0 lit0 lit0), Head.block (hd .b32 0 z (sr 4) z) (.lit 1) lit0 lit0 lit0),
    (barrShape (hd .b32 0 (sr 3) (sr 4) (.imm 0)), hd .b32 0 (sr 3) (sr 4) (.imm 0)),
    (bwaitShape (hd .b32 1 (sr 3) (sr 4) (.imm 0)), hd .b32 1 (sr 3) (sr 4) (.imm 0)),
    (bwaitShape (hd .b32 0 (sr 3) (sr 4) (.imm 0)), hd .b32 0 (sr 3) (sr 4) (.imm 0)),
    (btestShape (hd .b32 0 (v 1) (sr 4) (.imm 0)), hd .b32 0 (v 1) (sr 4) (.imm 0))],
    Clear p.1 (act grp) 0 grp p.2 ∧ team0.scrPoison 0 16 = false ∧ OnObject (act grp) 0 grp p.2 p.2.a 0 (act grp) team0 ∧
      (act grp).releaseAll 0 (grp.parts p.2.guard) allColours 1 true = some (act grp) := by decide +kernel
theorem witness_bwait_satisfied : let g : Group := { grp with wait := .bwait 0 false 0 3 }
    klookup (act g).groups 0 = some g ∧ klookup (act g).teams g.team = some team0 ∧ objHolds (team0.obj 0) false 0 = true ∧ team0.halted = false := by
  decide +kernel
theorem witness_phase : let t : Team := { team0 with objs := [4], upd := [4] }
    let s : State := { act grp with teams := [(0, t)] }
    klookup s.teams 0 = some t ∧ 64 / 16 ∈ t.objs ∧ 64 / 16 ∈ t.upd ∧ 64 % 16 = 0 := by decide +kernel
/-- Atomics on the scratchpad: every lane adds to the first word, or its own. -/
theorem witness_atomics :
    (let h := hd .i32 0 (v 8) (sr 4) (v 3)
     let looks := atomLooks (plainCtx (atomShape h) 0 grp h 0) (act grp) (atomShape h) 4
     Clear (atomShape h) (act grp) 0 grp h ∧ grp.parts h.guard ≠ [] ∧ NoTx grp h ∧ AllResident looks ∧
      (act grp).atomReady (plainCtx (atomShape h) 0 grp h 0) looks (atomReach h looks) = some (act grp) ∧
      (match ((act grp).usePieces grp .atomic looks).allAtomics (plainCtx (atomShape h) 0 grp h 0) (atomOp h) 5 4 (atomScope h)
          ((act grp).usePieces grp .atomic looks).nextOp (looks.map fun x =>
            { lane := x.lane, va := x.va, row := rowOf grp h.d x.lane, look := x, b := srcB (atomShape h) grp h x.lane,
              c := (readOp grp (opndOf (atomShape h).d) h.d x.lane).toNat }) with
        | some (_, ls) => ls.all fun x => x.done.isSome
        | none => false) = true) ∧
    (let h := hd .i32 0 (sr 3) (sr 4) (sr 5)
     let looks := [(act grp).laneLook grp 1 (atomAsk h) none 0 (grp.getS (scalNum h.a) + atomOff grp h) 4]
     Clear (atomuShape h) (act grp) 0 grp h ∧ NoTx grp h ∧ AllResident looks ∧
      (act grp).atomReady (plainCtx (atomuShape h) 0 grp h 0) looks (atomReach h looks) = some (act grp)) ∧
    (let h := hd .i32 0 z (sr 4) (v 3)
     let looks := atomLooks (plainCtx (redShape h) 0 grp h 0) (act grp) (redShape h) 4
     Clear (redShape h) (act grp) 0 grp h ∧ NoTx grp h ∧ AllResident looks ∧
      (act grp).atomReady (plainCtx (redShape h) 0 grp h 0) looks (atomReach h looks) = some (act grp)) := by
  refine ⟨?_, ?_, ?_⟩ <;> decide +kernel
/-- Atomics at an address that is no multiple of 4. -/
theorem witness_atomic_traps :
    (let h := hd .i32 0 (v 8) (sr 5) (v 3)
     let looks := atomLooks (plainCtx (atomShape h) 0 grp h 0) (act grp) (atomShape h) 4
     Judged (atomShape h) (act grp) 0 grp h looks ∧ (firstCause looks).map (·.1) = some cAlign) ∧
    (let h := hd .i32 0 (sr 3) (sr 5) (sr 5)
     let looks := [(act grp).laneLook grp 1 (atomAsk h) none 0 (grp.getS (scalNum h.a) + atomOff grp h) 4]
     Judged (atomuShape h) (act grp) 0 grp h looks ∧ (∀ x ∈ looks, x.cause.map (·.2) = some cAlign)) ∧
    (let h := hd .i32 0 z (sr 5) (v 3)
     let looks := atomLooks (plainCtx (redShape h) 0 grp h 0) (act grp) (redShape h) 4
     Judged (redShape h) (act grp) 0 grp h looks ∧ (firstCause looks).map (·.1) = some cAlign) := by
  refine ⟨?_, ?_, ?_⟩ <;> decide +kernel
theorem witness_lines : let near : AtomLine := { revokes := [0, 0, 0, 0, 0] }
    let far : AtomLine := { far := true }
    let s : State := { act grp with mem := { State.reset.mem with atom := [(0, near), (1, far)] }, plat := { hubT := 8192 * hubUnit } }
    let s0 : State := { s with plat := { hubT := 1024 * hubUnit - 1 } }
    klookup s0.mem.atom 0 = some near ∧ near.far = false ∧ 4 < (near.revokes.filter fun t => decide (s0.hubClock < t + 1024)).length ∧
      klookup s.mem.atom 1 = some far ∧ far.far = true ∧ far.since + 8192 ≤ s.hubClock := by decide +kernel
theorem witness_fence : let h := hd .b32 2 z z (.imm 255)
    let f : Fence := { kind := .fence, lanes := [0], mask := 255, loads := [] }
    let g : Group := { grp with fence := some f }
    Clear (fenceShape h) (act grp) 0 grp h ∧ klookup (act g).groups 0 = some g ∧ g.fence = some f ∧ f.kind = .fence ∧
      (act g).fenceAll 0 f.lanes (maskHas f.mask) f.scope = some (act g) := by decide +kernel

/-! ### Transactions -/

/-- A group whose lanes have open transactions. -/
def inTx : Group := { grp with lanes := List.replicate 32 { lane0 with tx := { isOpen := true } }, hasTx := true }
theorem witness_tbeg : let h := hd .b32 0 z z z
    Clear (tbegShape h) (act grp) 0 grp h ∧ klookup (act grp).teams grp.team = some team0 ∧ team0.txok = true ∧ plainLanes grp h ≠ [] ∧
      (act grp).quarterHeld 0 grp = false ∧ (wantsLock grp (plainLanes grp h) = true → (act grp).tx.lock = some 0) ∧
      ∃ s2, ((act grp).doomLanes 0 (openLanes grp h) 5 0).beginTx 0 (plainLanes grp h) = some s2 :=
  ⟨by decide +kernel, by decide +kernel, by decide +kernel, by decide +kernel, by decide +kernel, by decide +kernel, some_of (by decide +kernel)⟩
theorem witness_tbeg_resume : let g : Group := { grp with wait := .tbeg [0, 31] }
    klookup (act g).groups 0 = some g ∧ g.wait = .tbeg [0, 31] ∧ (act g).groupHalted g = false ∧ (act g).quarterHeld 0 g = false ∧
      (wantsLock g [0, 31] = true → (act g).tx.lock = some 0) ∧ ∃ s1, (act g).beginTx 0 [0, 31] = some s1 :=
  ⟨by decide +kernel, by decide +kernel, by decide +kernel, by decide +kernel, by decide +kernel, some_of (by decide +kernel)⟩
theorem witness_lock_grant : let g : Group := { grp with lanes := List.replicate 32 { lane0 with tx := { retry := 8 } }, wait := .lock [0] }
    klookup (act g).groups 0 = some g ∧ g.wait = .lock [0] ∧ (act g).groupHalted g = false ∧ (act g).tx.lock = none ∧ (act g).tx.commits = [] ∧
      ∃ s2, ({ act g with tx := { (act g).tx with lock := some 0 } } : State).beginTx 0 [0] = some s2 :=
  ⟨by decide +kernel, by decide +kernel, by decide +kernel, by decide +kernel, by decide +kernel, some_of (by decide +kernel)⟩
theorem witness_tend : let h := hd .b32 0 (v 1) z z
    (Clear (tendShape h) (act grp) 0 grp h ∧ grp.parts h.guard ≠ [] ∧ openLanes grp h = []) ∧
    (Clear (tendShape h) (act inTx) 0 inTx h ∧ openLanes inTx h ≠ [] ∧ (act inTx).ticketFree (some 0) = true) := by decide +kernel
theorem witness_tend_commit : let c : Commit := { ticket := 0, who := .group 0 [0] [0] 1 5 }
    let s : State := { act grp with tx := { commits := [c] } }
    s.tx.commits = [c] ∧ c.who = .group 0 [0] [0] 1 5 ∧ klookup s.groups 0 = some grp ∧ s.commitWaits grp [0] = false := by decide +kernel
theorem witness_tabort_tstat : Clear (tabortShape (hd .b32 0 z z (.imm 255))) (act inTx) 0 inTx (hd .b32 0 z z (.imm 255)) ∧
    Clear (tstatShape (hd .b32 0 (v 7) z z)) (act inTx) 0 inTx (hd .b32 0 (v 7) z z) := by decide +kernel
/-- A host core, with or without an open transaction. -/
def hostAt (c : HostCore) : State := { act grp with hosts := [(0, c)], cur := .host 0 }
theorem witness_host : (hostAt { x := [(11, 0x100)] }).cur = .host 0 ∧ ((hostAt { x := [(11, 0x100)] }).host 0).waitRd = none ∧
    ((hostAt { x := [(11, 0x100)] }).host 0).txOpen = false ∧ (((hostAt { x := [(11, 0x100)] }).host 0).getX 11).extractLsb' 0 2 = 0 ∧
    (hostAt { x := [(11, 0x100)] }).tx.lock = none ∧ ((hostAt { txOpen := true }).host 0).txOpen = true ∧
    (hostAt { txOpen := true }).ticketFree none = true ∧ (hostAt { txOpen := true }).commitAhead 0 { txOpen := true } = false ∧
    (hostAt {}).unreadable 0 = false ∧
    (let s := hostAt { x := [(11, 0x100)], stq := [{ pa := 0x40, bytes := [1] }] }
     ((s.drainHostAll 0).host 0).stq = []) := by decide +kernel
/-- xspawn where no home is locked and no queue holds a request, whatever the core's page tables say. -/
theorem witness_xspawn : let s1 := (hostAt { x := [(11, 0x100)] }).drainHostAll 0
    ((hostAt { x := [(11, 0x100)] }).host 0).txOpen = false ∧ (s1.host 0).stq = [] ∧
      (((hostAt { x := [(11, 0x100)] }).host 0).getX 11).toNat % 128 = 0 ∧ s1.trapsWait = false ∧
      ∀ pa, Config.hostPage s1.free 0 0x100 = some pa → s1.runWaits (.host 0) pa.toNat 128 true = false ∧ s1.sliceFull pa.toNat = false :=
  ⟨by decide +kernel, by decide +kernel, by decide +kernel, by decide +kernel, fun pa _ => by
    unfold State.runWaits State.sliceFull
    rw [show ((hostAt { x := [(11, 0x100)] }).drainHostAll 0).openHomes = true by decide +kernel,
      show (decide (32 ≤ ((hostAt { x := [(11, 0x100)] }).drainHostAll 0).mem.l2q.length)) = false by decide +kernel]
    exact ⟨rfl, rfl⟩⟩
theorem witness_host_events : let c : Commit := { ticket := 0, who := .host 0 }
    let s : State := { hostAt { txOpen := true, waitRd := some 10 } with tx := { commits := [c] } }
    (s.tx.commits = [c] ∧ c.who = .host 0 ∧ ∀ e ∈ (s.host 0).buf, s.sliceFull e.1 = false) ∧ ((hostAt { txOpen := true }).host 0).txOpen = true ∧ ((hostAt { txOpen := true }).host 0).waitRd = none ∧
      (1 = 3 → 16 < ((hostAt { txOpen := true }).host 0).writes.length) ∧ 1 ∈ [1, 3, 5, 6, 7] := by decide +kernel
/-- spawn of a record of zeros on the page at s8, its release at scope .pkg. -/
theorem witness_spawn : let h := hd .b32 0 (sr 3) (sr 8) z
    let look := (act grp).spawnLook grp 1 0 (grp.getS 8)
    Clear (spawnShape h) (act grp) 0 grp h ∧ NoTx grp h ∧ grp.parts h.guard ≠ [] ∧ AllResident [look] ∧
      (act grp).releaseAll 0 (grp.parts h.guard) allColours 2 true = some (act grp) ∧
      ∃ ch pa, look.chunks = [ch] ∧ ch.loc = .glob pa ∧ isDomain pa = false ∧
        (act grp).runWaits (wlEng (plainCtx (spawnShape h) 0 grp h 0) (act grp)).agent pa 128 true = false ∧ (act grp).sliceFull pa = false ∧
        (act grp).trapsWait = false :=
  ⟨by decide +kernel, by decide +kernel, by decide +kernel, by decide +kernel, by decide +kernel, { loc := .glob 0x10000, n := 128, slot := 0, virt := 0x10000 },
    0x10000, by decide +kernel, rfl, by decide +kernel, by decide +kernel, by decide +kernel, by decide +kernel⟩

/-! ### Engines -/

/-- An issuer of the group, and a card with one unit. -/
def iss0 : Issuer := { gid := 0, team := 0, core := 0, asid := 1, sup := false, fmode := 0, token := 3, lanes := [0] }
def card0 (st : UnitState) (started : Bool) : Card :=
  { iss := iss0, mask := 0xFF, started := started, ty := 0, unord := false, rtag := false, sfmt := 0, dfmt := 0, link := 0, bar := 0,
    units := [{ src := 0x0100000000000000, dst := 0x0100000000000040, slen := 64, dlen := 64, st := st }], status := 0 }
def withOp (o : Op) : State := { act grp with ops := [(5, o)], nextOp := 6 }
theorem witness_cpost : let h := hd .b32 0 (sr 3) (sr 4) z
    Clear (cpostShape h) (act grp) 0 grp h ∧ OnScratch (act grp) 0 grp h (grp.getS (scalNum h.a)) 64 64 0 (act grp) team0 ∧
      (act grp).cardsQueued 0 < 32 ∧ (act grp).hazardFull 0 = false := by decide +kernel
theorem witness_cards : let c := card0 .todo true
    (klookup (withOp (.card c)).ops 5 = some (.card c) ∧ c.units[0]? = some (c.units.getD 0 { src := 0, dst := 0, slen := 0, dlen := 0, st := .todo }) ∧
      c.started = true ∧ c.status = 0 ∧ (withOp (.card c)).engRelease c.iss 5 c.mask = some (withOp (.card c))) ∧
    (klookup (withOp (.card (card0 .written true))).ops 5 = some (.card (card0 .written true)) ∧ (card0 .written true).unfinished = false) ∧
    ((withOp (.card (card0 .todo false))).hazardBlocked 5 = false ∧ (card0 .todo false).started = false) ∧
    (let c : Card := { card0 .again true with status := 4 }
     klookup (withOp (.card c)).ops 5 = some (.card c) ∧ (c.units.getD 0 { src := 0, dst := 0, slen := 0, dlen := 0, st := .todo }).st = .again ∧
       c.started = true ∧ (withOp (.card c)).engRelease c.iss 5 c.mask = some (withOp (.card c))) := by
  refine ⟨?_, ?_, ?_, ?_⟩ <;> decide +kernel
/-- A remote store of v4 to the other package's page at s9. -/
theorem witness_rst : let h := hd .b32 0 (sr 9) (v 4) (.imm 0x20000)
    let s := { act grp with net := { links := [(0, { state := 2 })] } }
    Clear (rstShape h) s 0 grp h ∧ NoTx grp h ∧
      AllResident ((grp.parts h.guard).map fun l =>
        s.rstLook grp 1 l (laneAddr (plainCtx (rstShape h) 0 grp h 0) s h.d (accOff h.b) (accSize h) l) (accSize h)) := by decide +kernel
/-- A remote store to the page of this package at s8, and one misaligned. -/
theorem witness_rst_traps : ∀ p ∈ ([(sr 8, cAccess), (sr 5, cAlign)] : List (Operand × Nat)), let h := hd .b32 0 p.1 (v 4) (.imm 0x20000)
    let c := plainCtx (rstShape h) 0 grp h 0
    let looks := (grp.parts h.guard).map fun l => (act grp).rstLook grp 1 l (laneAddr c (act grp) h.d (accOff h.b) (accSize h) l) (accSize h)
    Judged (rstShape h) (act grp) 0 grp h looks ∧ (firstCause (looks.map (poisonLook (rstShape h) false c))).map (·.1) = some p.2 := by
  decide +kernel
theorem witness_path_lost : (act grp).routes 7 = [] ∧ 7 ≠ (act grp).pkgId := by decide +kernel

/-! ### The tun -/

/-- The handles of the two partitions: block grain in s6, element grain in s7. -/
theorem witness_handles : (act grp).handle 0 (grp.getS 6) = some (0, part0 1 false) ∧ (act grp).handle 0 (grp.getS 7) = some (1, part0 2 true) := by
  decide +kernel
theorem witness_jopen : let h := hd .b32 1 (sr 3) (sr 4) (sr 6)
    Clear (jopenShape h) (act grp) 0 grp h ∧ OnScratch (act grp) 0 grp h (grp.getS (scalNum h.a)) 64 64 0 (act grp) team0 ∧
      team0.scrPoison 0 64 = false ∧ (h.mods.getLsbD 0 = true → (act grp).handle grp.team (grp.getS (scalNum h.b)) = some (0, part0 1 false)) ∧
      ∃ t, (act grp).queueJoin (plainCtx (jopenShape h) 0 grp h 0)
        { iss := (plainCtx (jopenShape h) 0 grp h 0).issuer (act grp) (scalNum h.d), kind := .jopen (h.mods.getLsbD 0) 0 (grp.getS (scalNum h.b)),
          part := if h.mods.getLsbD 0 then 0 else 128, resv := 0 } [] [] = some t :=
  ⟨by decide +kernel, by decide +kernel, by decide +kernel, by decide +kernel, some_of (by decide +kernel)⟩
/-- The queue and the hazard table of the core have room for any join of the group. -/
theorem joins_fit (sh : Shape) (h : Head) (j : JoinOp) (reads writes : List Range) (hj : (act grp).joinsOn ((act grp).joinCore j) < 32) :
    ∃ t, (act grp).queueJoin (plainCtx sh 0 grp h 0) j reads writes = some t := by
  unfold State.queueJoin
  rw [if_neg (by omega)]
  by_cases he : (reads.isEmpty && writes.isEmpty) = true
  · rw [if_pos he]; exact ⟨_, rfl⟩
  · rw [if_neg he, show (act grp).hazardFull (plainCtx sh 0 grp h 0).g.core = false from show (act grp).hazardFull 0 = false by decide]
    exact ⟨_, rfl⟩
theorem no_joins (c : Nat) : (act grp).joinsOn c < 32 := show (0 : Nat) < 32 by decide
theorem witness_joins :
    (let h := hd .b32 0 z (sr 6) z; Clear (jcloseShape h) (act grp) 0 grp h ∧ grp.parts h.guard ≠ [] ∧ NoTx grp h) ∧
    (let h := Head.block (hd .b32 0 (sr 3) (sr 6) (sr 4)) (.lit 1) lit0 lit0 lit0
     Clear (jmulShape h) (act grp) 0 grp h ∧ (part0 1 false).elem = false ∧ (part0 1 false).fused + (part0 1 false).fres + 1 ≤ (part0 1 false).fcap ∧
       isZero h.b = false ∧ OnObject (act grp) 0 grp h h.b 0 (act grp) team0) ∧
    (let h := Head.block (hd .b32 0 (sr 3) (sr 6) z) (.lit 1) lit0 lit0 lit0
     Clear (jmulShape h) (act grp) 0 grp h ∧ isZero h.b = true) ∧
    (let h := Head.block (hd .b32 0 (sr 3) (sr 6) z) (.sub 8 0) (.sub 8 0) (.lit 0) lit0
     Clear (jstrmShape h) (act grp) 0 grp h ∧ h.mods.getLsbD 0 = false ∧ strmA (paramValues grp h).2.2.1 = 0) ∧
    (let h := Head.block (hd .b32 1 (sr 3) (sr 6) z) (.sub 8 0) (.sub 4 0) (.lit 0) lit0
     Clear (jstrmShape h) (act grp) 0 grp h ∧ h.mods.getLsbD 0 = true ∧
       OnScratch (act grp) 0 grp h (paramValues grp h).2.1 32 32 0 (act grp) team0 ∧ team0.scrPoison 0 32 = false) ∧
    (let h := hd .f32 0 (sr 3) (sr 7) (v 8)
     Clear (jaccShape h) (act grp) 0 grp h ∧ (part0 2 true).elem = true ∧ ((h.ty == .i32) = (part0 2 true).int) ∧
       (part0 2 true).fused + (part0 2 true).fres + (grp.parts h.guard).length ≤ (part0 2 true).fcap) ∧
    (let h := hd .f32 1 (v 4) (sr 7) (v 8)
     Clear (jgetShape h) (act grp) 0 grp h ∧ ((h.ty == .i32) = (part0 2 true).int)) ∧
    (let h := Head.block (hd .b32 0 (sr 3) (sr 6) z) (.sub 4 0) lit0 (.sub 8 0) (.lit 1)
     Clear (jdrainShape h) (act grp) 0 grp h ∧ OnScratch (act grp) 0 grp h (paramValues grp h).1 32 32 0 (act grp) team0) ∧
    (let h := hd .b32 0 (sr 3) (sr 6) (sr 4)
     Clear (jstatShape h) (act grp) 0 grp h ∧ OnScratch (act grp) 0 grp h (grp.getS (scalNum h.b)) 64 64 0 (act grp) team0) := by
  refine ⟨?_, ?_, ?_, ?_, ?_, ?_, ?_, ?_, ?_⟩ <;> decide +kernel
/-- Scalars that hold no handle; handles of the wrong grain or type; a firkin without room (32 records and none of them free). -/
def fullTun : Team := { team0 with parts := [(0, { part0 1 false with fused := 32 }), (1, { part0 2 true with fused := 32 })] }
/-- s10 asks for one entry of each list. -/
def jgrp : Group := { grp with scal := grp.scal ++ [(10, 0x100000001)] }
def fullAct : State := { act grp with teams := [(0, fullTun)] }
theorem witness_join_traps :
    (∀ f ∈ [(jcloseShape (hd .b32 0 z (sr 5) z), hd .b32 0 z (sr 5) z),
        (jmulShape (Head.block (hd .b32 0 (sr 3) (sr 5) z) (.lit 1) lit0 lit0 lit0), Head.block (hd .b32 0 (sr 3) (sr 5) z) (.lit 1) lit0 lit0 lit0),
        (jstrmShape (Head.block (hd .b32 0 (sr 3) (sr 5) z) lit0 lit0 lit0 lit0), Head.block (hd .b32 0 (sr 3) (sr 5) z) lit0 lit0 lit0 lit0),
        (jaccShape (hd .f32 0 (sr 3) (sr 5) (v 8)), hd .f32 0 (sr 3) (sr 5) (v 8)), (jgetShape (hd .f32 1 (v 4) (sr 5) (v 8)), hd .f32 1 (v 4) (sr 5) (v 8)),
        (jdrainShape (Head.block (hd .b32 0 (sr 3) (sr 5) z) lit0 lit0 lit0 lit0), Head.block (hd .b32 0 (sr 3) (sr 5) z) lit0 lit0 lit0 lit0),
        (jstatShape (hd .b32 0 (sr 3) (sr 5) (sr 4)), hd .b32 0 (sr 3) (sr 5) (sr 4))],
      Clear f.1 (act grp) 0 grp f.2 ∧ grp.parts f.2.guard ≠ [] ∧ NoTx grp f.2 ∧ (act grp).handle grp.team (grp.getS (scalNum f.2.a)) = none) ∧
    (∀ p ∈ [(fullAct, sr 6, true), (act grp, sr 7, false)], let h := Head.block (hd .b32 0 (sr 3) p.2.1 z) (.lit 1) lit0 lit0 lit0
      Clear (jmulShape h) p.1 0 grp h ∧ isZero h.b = true ∧
        (match p.1.handle 0 (grp.getS (scalNum h.a)) with
         | some (_, q) => if p.2.2 then !q.elem && decide (q.fcap < q.fused + q.fres + 1) else q.elem
         | none => false) = true) ∧
    (∀ p ∈ [({ act jgrp with teams := [(0, fullTun)] }, sr 6, true), (act jgrp, sr 7, false)],
      let h := Head.block (hd .b32 0 (sr 3) p.2.1 z) (.sub 8 0) (.sub 8 0) (.sub 10 0) lit0
      Clear (jstrmShape h) p.1 0 jgrp h ∧ h.mods.getLsbD 0 = false ∧
        (match p.1.handle 0 (jgrp.getS (scalNum h.a)) with
         | some (_, q) =>
           let v2 := (paramValues jgrp h).2.2.1
           let need := if strmOver v2 (strmB false v2 0) then 0 else strmA v2 * strmB false v2 0
           if p.2.2 then !q.elem && decide (0 < need) && decide (q.fcap < q.fused + q.fres + need) else q.elem
         | none => false) = true) ∧
    (∀ p ∈ [(fullAct, sr 7, .f32, true), (act grp, sr 6, .f32, false), (act grp, sr 7, .i32, false)], let h := hd p.2.2.1 0 (sr 3) p.2.1 (v 8)
      Clear (jaccShape h) p.1 0 grp h ∧
        (match p.1.handle 0 (grp.getS (scalNum h.a)) with
         | some (_, q) => let fits := q.elem && ((h.ty == .i32) == q.int)
           if p.2.2.2 then fits && decide (q.fcap < q.fused + q.fres + (grp.parts h.guard).length) else !fits
         | none => false) = true) ∧
    (∀ p ∈ [(sr 6, Ty.f32), (sr 7, .i32)], let h := hd p.2 1 (v 4) p.1 (v 8)
      Clear (jgetShape h) (act grp) 0 grp h ∧
        (match (act grp).handle 0 (grp.getS (scalNum h.a)) with
         | some (_, q) => !q.elem || (h.ty == .i32) != q.int
         | none => false) = true) := by
  refine ⟨?_, ?_, ?_, ?_, ?_⟩ <;> decide +kernel
/-- A join operation at each point of its life. -/
def join0 (k : JoinKind) (st : JoinState) (fin : Option W64) : JoinOp := { iss := iss0, kind := k, part := 0, resv := 0, st := st, fin := fin }
theorem witness_join_events :
    (klookup (withOp (.join (join0 (.jstat 0) .queued none))).ops 5 = some (.join (join0 (.jstat 0) .queued none)) ∧
      (join0 (.jstat 0) .queued none).st = .queued ∧ (join0 (.jstat 0) .queued none).kind ≠ .jclose) ∧
    ((join0 (.jstat 0) .running none).st = .running ∧ (join0 (.jstat 0) .running none).fin = none) ∧
    (let j := join0 (.jmul 0 0 0 0 (some 0) false) .waiting none
     j.st = .waiting ∧ klookup (withOp (.join j)).teams j.iss.team = some team0 ∧ (objPend (team0.obj 0)).toInt ≤ (mulAmount 0).toInt) ∧
    (let j := join0 (.jstat 0) .running (some 1)
     j.fin = some 1 ∧ (withOp (.join j)).writesOut 5 = false) ∧
    (withOp (.join (join0 .jclose .queued none))).joinBehind 5 (join0 .jclose .queued none) = false := by
  refine ⟨?_, ?_, ?_, ?_, ?_⟩ <;> decide +kernel

/-! ### The fetch unit -/

/-- The surface descriptor lies on the page at s8; fch names no flag. -/
theorem witness_fch : let h := Head.block (hd .b32 0 (sr 3) (v 8) (v 4)) (.sub 8 0) (.lit 255) lit0 lit0
    Clear (fchShape h grp) (act grp) 0 grp h ∧ NoTx grp h ∧ grp.parts h.guard ≠ [] ∧ (paramValues grp h).2.1.toNat < 2 ^ 11 ∧
      (act grp).fchAddr grp (paramValues grp h).1 = none ∧
      (match (act grp).target grp none (paramValues grp h).1 32 with
       | .scr off => (act grp).settleScr 0 (grp.parts h.guard) off 32 | _ => some (act grp)) = some (act grp) := by decide +kernel
/-- Descriptor addresses that are misaligned and that lie past the scratchpad. -/
theorem witness_fch_traps : ∀ p ∈ ([(PWord.sub 5 0, cAlign), (.sub 4 0x10000, cScratch)] : List (PWord × Nat)),
    let h := Head.block (hd .b32 0 (sr 3) (v 8) (v 4)) p.1 (.lit 255) lit0 lit0
    Clear (fchShape h grp) (act grp) 0 grp h ∧ NoTx grp h ∧ grp.parts h.guard ≠ [] ∧ (paramValues grp h).2.1.toNat < 2 ^ 11 ∧
      (act grp).fchAddr grp (paramValues grp h).1 = some p.2 := by decide +kernel
theorem fetches_fit (sh : Shape) (h : Head) (f : FetchOp) (reads writes : List Range) :
    ∃ t, (act grp).queueFetch (plainCtx sh 0 grp h 0) f reads writes = some t := by
  unfold State.queueFetch
  have he : ¬ ((act grp).fetchesOn (plainCtx sh 0 grp h 0).g.core ≥ 32 ∨ (act grp).hazardFull (plainCtx sh 0 grp h 0).g.core = true) :=
    show ¬ ((act grp).fetchesOn 0 ≥ 32 ∨ (act grp).hazardFull 0 = true) by decide
  rw [if_neg he]
  exact ⟨_, rfl⟩
theorem witness_dgrow : let h := Head.block (hd .b32 0 (sr 3) (.imm 255) z) (.sub 4 0) (.sub 4 2048) (.sub 4 4096) lit0
    Clear (dgrowShape h) (act grp) 0 grp h ∧ NoTx grp h ∧ grp.parts h.guard ≠ [] := by decide +kernel
/-- An fch whose one lane has been read. -/
def fetch0 : FetchOp :=
  { iss := iss0, kind := .fch 0x10000 [(0, [0, 0, 0, 0])] 8 0 1 .b32, mask := 255, started := true, desc := some 0, res := [(0, 7)] }
theorem witness_fetch_events :
    (klookup (withOp (.fetch { fetch0 with started := false })).ops 5 = some (.fetch { fetch0 with started := false })) ∧
    (fetch0.desc = some 0 ∧ fetch0.kind = .fch 0x10000 [(0, [0, 0, 0, 0])] 8 0 1 .b32 ∧
      klookup ([0].foldl (fun t l => t.stepFetch 5 l) (withOp (.fetch fetch0))).ops 5 = some (.fetch fetch0) ∧
      fetch0.res.length + fetch0.fails.length = [((0 : Nat), [(0 : Int), 0, 0, 0])].length) := by
  refine ⟨?_, ?_⟩ <;> decide +kernel
/-- A dgrow of tiles in the scratchpad. -/
def grow0 : FetchOp :=
  { iss := iss0, kind := .dgrow 0x0100000000000000 0x0100000000000800 0x0100000000001000 0x2, mask := 255, started := true }
theorem witness_dgrow_complete : let s := withOp (.fetch grow0)
    klookup s.ops 5 = some (.fetch grow0) ∧ grow0.fin = none ∧ grow0.started = true ∧ grow0.parked = false ∧
      (0x0100000000000000#64).toNat % 64 = 0 ∧ (0x0100000000000800#64).toNat % 64 = 0 ∧ (0x0100000000001000#64).toNat % 16 = 0 ∧
      s.writesOut 5 = false ∧ growBad 0x2 = false := by decide +kernel
/-- Its reads and writes, in order, meet no failure. -/
def growsThrough (s : State) (e : Eng) (tile grad st v3 : W64) : Bool :=
  match s.engRead e tile 2048 with
  | (s1, .ok w fw) =>
    match s1.engRead e grad 2048 with
    | (s2, .ok gr fg) =>
      match s2.engRead e st 144 with
      | (s3, .ok r _) =>
        (fw ++ fg).all (fun p => p.2 != 7) &&
          match s3.growWrite e tile st (growBytes v3 w gr r) with
          | (s4, .ok _ _) => !s4.writesOut e.op
          | _ => false
      | _ => false
    | _ => false
  | _ => false
theorem witness_dgrow_data :
    growsThrough (withOp (.fetch grow0)) (fetchEng 5 iss0) 0x0100000000000000 0x0100000000000800 0x0100000000001000 0x2 = true := by
  decide +kernel

/-! ### Work-lists -/

/-- A list with one item, as its header gives it. -/
def wl0 (hd : Nat) : Wl :=
  { at' := 0, base := 0x0100000000000000, hd := hd, pushed := 1, popped := 0, hcnt := 0, spilled := 0, skip := 0, fj := 0, nf := 0, q := 0 }
/-- A header of that list: two ring blocks at 4,096, no spill area, a hash set of 16 entries at 64 (R390). -/
structure GoodHeader (hd : Nat) : Prop where
  lt : hd < 256 ^ 64
  ring : wlRing hd = 4096
  blocks : wlBlocks hd = 2
  scap : wlScap hd = 0
  hoff : wlHoff hd = 64
  hlog : wlHlog hd = 4
  list : readWl 0 0x0100000000000000 hd = wl0 hd

/-- Fields below bit 384 do not see PRIV. -/
theorem bitsOf_low (a p hi lo : Nat) (h : hi < 384) : bitsOf (a + p * 2 ^ 384) hi lo = bitsOf a hi lo := by
  unfold bitsOf
  by_cases hl : lo ≤ hi
  · obtain ⟨x, rfl⟩ : ∃ x, hi = lo + x := ⟨hi - lo, by omega⟩
    obtain ⟨y, hy⟩ : ∃ y, 384 = lo + (x + 1 + y) := ⟨383 - lo - x, by omega⟩
    rw [show lo + x + 1 - lo = x + 1 by omega, hy, Nat.pow_add, ← Nat.mul_assoc, Nat.mul_comm p, Nat.mul_assoc,
      Nat.add_mul_div_left _ _ (Nat.two_pow_pos lo), Nat.pow_add 2 (x + 1), Nat.mul_comm p, Nat.mul_assoc, Nat.add_mul_mod_self_left]
  · rw [show hi + 1 - lo = 0 by omega]; simp [Nat.mod_one]
set_option exponentiation.threshold 600 in
theorem bitsOf_high (a : Nat) (p : BitVec 128) (ha : a < 2 ^ 384) : bitsOf (a + p.toNat * 2 ^ 384) 511 384 = p.toNat := by
  unfold bitsOf
  rw [Nat.add_mul_div_right _ _ (Nat.two_pow_pos 384), Nat.div_eq_of_lt ha, Nat.zero_add]
  exact Nat.mod_eq_of_lt p.isLt

set_option exponentiation.threshold 600 in
/-- A header with these fields below PRIV, and with the coding of an untouched ring as PRIV. -/
theorem header_of (a : Nat) (hlt : a < 2 ^ 384) : ∃ hd, hd < 256 ^ 64 ∧ (∀ hi lo : Nat, hi < 384 → bitsOf hd hi lo = bitsOf a hi lo) ∧
    Config.privCode.symm (BitVec.ofNat 128 (bitsOf hd 511 384)) = 0 := by
  refine ⟨a + (Config.privCode 0).toNat * 2 ^ 384, ?_, fun hi lo h => bitsOf_low a _ hi lo h, ?_⟩
  · have hp := (Config.privCode 0).isLt
    rw [show (256 : Nat) ^ 64 = 2 ^ 128 * 2 ^ 384 by decide +kernel]
    have := Nat.mul_le_mul_right (2 ^ 384) (Nat.succ_le_of_lt hp)
    rw [Nat.succ_mul] at this
    exact Nat.lt_of_lt_of_le (by rw [Nat.add_comm]; exact Nat.add_lt_add_left hlt _) this
  · rw [bitsOf_high a _ hlt, show BitVec.ofNat 128 (Config.privCode 0).toNat = Config.privCode 0 by simp, Equiv.symm_apply_apply]
/-- Such a header read. -/
theorem header_list {hd a : Nat} (hb : ∀ hi lo : Nat, hi < 384 → bitsOf hd hi lo = bitsOf a hi lo)
    (hp : Config.privCode.symm (BitVec.ofNat 128 (bitsOf hd 511 384)) = 0) (h1 : bitsOf a 31 0 = 1) (h2 : bitsOf a 63 32 = 0)
    (h3 : bitsOf a 383 352 = 0) (h4 : bitsOf a 184 161 = 0) : readWl 0 0x0100000000000000 hd = wl0 hd := by
  unfold readWl
  rw [hp, hb _ _ (by decide), hb _ _ (by decide), hb _ _ (by decide), hb _ _ (by decide), h1, h2, h3, h4]
  rfl
set_option exponentiation.threshold 600 in
theorem good_header : ∃ hd, GoodHeader hd := by
  obtain ⟨a, ha⟩ : ∃ a, a = 1 + 2 * 2 ^ 185 + 4096 * 2 ^ 256 + 64 * 2 ^ 300 + 4 * 2 ^ 347 := ⟨_, rfl⟩
  obtain ⟨hd, hlt, hb, hp⟩ := header_of a (by rw [ha]; decide +kernel)
  refine ⟨hd, hlt, ?_, ?_, ?_, ?_, ?_, header_list hb hp ?_ ?_ ?_ ?_⟩
  · unfold wlRing; rw [hb _ _ (by decide), ha]; decide +kernel
  · unfold wlBlocks; rw [hb _ _ (by decide), ha]; decide +kernel
  · unfold wlScap; rw [hb _ _ (by decide), ha]; decide +kernel
  · unfold wlHoff; rw [hb _ _ (by decide), ha]; decide +kernel
  · unfold wlHlog; rw [hb _ _ (by decide), ha]; decide +kernel
  all_goals (rw [ha]; decide +kernel)
set_option exponentiation.threshold 600 in
/-- One of a list with a single ring block, which holds no item more, and without a hash set. -/
theorem flat_header : ∃ hd, hd < 256 ^ 64 ∧ wlRing hd = 4096 ∧ wlBlocks hd = 1 ∧ wlScap hd = 0 ∧ wlHlog hd = 0 ∧
    readWl 0 0x0100000000000000 hd = wl0 hd := by
  obtain ⟨a, ha⟩ : ∃ a, a = 1 + 1 * 2 ^ 185 + 4096 * 2 ^ 256 := ⟨_, rfl⟩
  obtain ⟨hd, hlt, hb, hp⟩ := header_of a (by rw [ha]; decide +kernel)
  refine ⟨hd, hlt, ?_, ?_, ?_, ?_, header_list hb hp ?_ ?_ ?_ ?_⟩
  · unfold wlRing; rw [hb _ _ (by decide), ha]; decide +kernel
  · unfold wlBlocks; rw [hb _ _ (by decide), ha]; decide +kernel
  · unfold wlScap; rw [hb _ _ (by decide), ha]; decide +kernel
  · unfold wlHlog; rw [hb _ _ (by decide), ha]; decide +kernel
  all_goals (rw [ha]; decide +kernel)

/-- The header of the tests: one of those. -/
noncomputable def wlHd : Nat := Classical.choose good_header
theorem wlHd_good : GoodHeader wlHd := Classical.choose_spec good_header
/-- Bytes from an address on. -/
def bytesAt : Nat → List Byte → KMap Byte
  | _, [] => []
  | k, b :: r => (k, b) :: bytesAt (k + 1) r
theorem kgetRun_bytesAt (rest : KMap Byte) : ∀ (bs : List Byte) (pre : KMap Byte) (k : Nat), (∀ e ∈ pre, e.1 < k) →
    kgetRun 0 (pre ++ (bytesAt k bs ++ rest)) k bs.length = bs
  | [], _, _, _ => rfl
  | b :: r, pre, k, h => by
    have hk : ∀ (p : KMap Byte), (∀ e ∈ p, e.1 < k) → klookup (p ++ (bytesAt k (b :: r) ++ rest)) k = some b := by
      intro p
      induction p with
      | nil => intro _; simp [bytesAt, klookup]
      | cons e p ih =>
        intro he
        have h1 := he e (by simp)
        have h2 := ih fun x hx => he x (by simp [hx])
        obtain ⟨a, c⟩ := e
        simp only [List.cons_append, klookup]
        rw [if_neg (by simp at h1; omega)]
        exact h2
    have h2 := kgetRun_bytesAt rest r (pre ++ [(k, b)]) (k + 1) (by
      intro e he; rcases List.mem_append.1 he with he | he
      · have := h e he; omega
      · simp at he; subst he; simp)
    have h1 := hk pre h
    simp only [List.length_cons, kgetRun, kget, bytesAt, List.cons_append, List.append_assoc, List.nil_append] at h1 h2 ⊢
    rw [h2, h1]; rfl
/-- A team with the header at the start of its scratchpad, and an empty hash set. -/
noncomputable def wlTeam : Team := { team0 with scratch := bytesAt 0 (leBytes 64 wlHd) ++ bytesAt 64 (List.replicate 64 0xFF) }
/-- A group of which only lane 0 satisfies f1. -/
def one : Group := { grp with lanes := lane0 :: List.replicate 31 { lane0 with flags := 0 } }
noncomputable def wlState : State := { act one with teams := [(0, wlTeam)] }
def onF1 (h : Head) : Head := { h with guard := { inv := false, flag := 1 } }
def listOk : WlRes → Bool
  | .ok _ _ _ => true
  | _ => false
theorem ok_of {r : WlRes} (h : listOk r = true) : ∃ s w xs, r = .ok s w xs := by
  cases r with
  | ok s w xs => exact ⟨s, w, xs, rfl⟩
  | _ => cases h

theorem header_at (hd : Nat) (rest : KMap Byte) (h : hd < 256 ^ 64) :
    leNat (({ team0 with scratch := bytesAt 0 (leBytes 64 hd) ++ rest } : Team).scrBytes 0 64) = hd := by
  have e : ({ team0 with scratch := bytesAt 0 (leBytes 64 hd) ++ rest } : Team).scrBytes 0 64 = leBytes 64 hd := by
    have := kgetRun_bytesAt rest (leBytes 64 hd) [] 0 (by simp)
    rw [leBytes_length] at this
    exact this
  rw [e, leNat_leBytes, Nat.mod_eq_of_lt h]
/-- A list that lane 0 names with s4 can be operated on where its header lies there and its areas are in order. -/
theorem on_list_of {st : State} {tm : Team} {hd : Nat} (sh : Shape) (h : Head) (hp : one.parts h.guard = [0]) (ha : h.a = sr 4)
    (hl : st.listHeld 0 one.team = false) (ho : st.objAddr one 0x0100000000000000 64 64 = (0, none)) (hs : st.settleScr 0 [0] 0 64 = some st)
    (ht : klookup st.teams one.team = some tm) (hz : tm.scrPoison 0 64 = false) (hr : leNat (tm.scrBytes 0 64) = hd)
    (hb : st.spaceBase one.core 1 = 0x0100000000000000) (har : st.wlAreas one 0x0100000000000000 hd = none)
    (hset : (st.settleScr 0 [0] (wlRing hd) (4096 * wlBlocks hd)).bind (fun s => s.settleScr 0 [0] (wlHoff hd) (wlHash hd)) = some st)
    (hw : readWl 0 0x0100000000000000 hd = wl0 hd) : OnWorklist sh st 0 one h (wl0 hd) st := by
  have hv : one.getS (scalNum h.a) = 0x0100000000000000 := by rw [ha]; decide
  refine ⟨0, st, tm, hl, ⟨by rw [hp]; decide, ?_, by rw [hv]; exact ho, by rw [hp]; exact hs, ht⟩, hz, by rw [hr, hb]; exact har, ?_, by
    rw [hr, hb]; exact hw.symm⟩
  · show (one.parts h.guard).filter (fun l => (one.lane l).tx.isOpen) = []
    rw [hp]; decide
  · rw [hr]
    unfold State.settleWl
    rw [show (plainCtx sh 0 one h st.clock).ps = [0] from hp, show (plainCtx sh 0 one h st.clock).gid = 0 from rfl]
    exact hset
/-- The list of s4 can be operated on. -/
theorem on_list (sh : Shape) (h : Head) (hp : one.parts h.guard = [0]) (ha : h.a = sr 4) :
    OnWorklist sh wlState 0 one h (wl0 wlHd) wlState := by
  have k := wlHd_good
  refine on_list_of sh h hp ha (tm := wlTeam) (by decide +kernel) (by decide +kernel) rfl rfl (by decide +kernel)
    (header_at wlHd _ wlHd_good.lt) (by decide +kernel) ?_ rfl k.list
  unfold State.wlAreas
  rw [k.ring, k.blocks, k.hoff, show wlHash wlHd = 64 by unfold wlHash; rw [k.hlog]; decide]
  decide +kernel
/-- The same list with a hash set in which every entry holds 0. -/
noncomputable def fullTeam : Team := { team0 with scratch := bytesAt 0 (leBytes 64 wlHd) ++ bytesAt 64 (List.replicate 64 0) }
noncomputable def fullState : State := { act one with teams := [(0, fullTeam)] }
theorem on_full (sh : Shape) (h : Head) (hp : one.parts h.guard = [0]) (ha : h.a = sr 4) :
    OnWorklist sh fullState 0 one h (wl0 wlHd) fullState := by
  have k := wlHd_good
  refine on_list_of sh h hp ha (tm := fullTeam) (by decide +kernel) (by decide +kernel) rfl rfl (by decide +kernel)
    (header_at wlHd _ wlHd_good.lt) (by decide +kernel) ?_ rfl k.list
  unfold State.wlAreas
  rw [k.ring, k.blocks, k.hoff, show wlHash wlHd = 64 by unfold wlHash; rw [k.hlog]; decide]
  decide +kernel
/-- A list without room and without a hash set. -/
noncomputable def flatHd : Nat := Classical.choose flat_header
noncomputable def flatTeam : Team := { team0 with scratch := bytesAt 0 (leBytes 64 flatHd) ++ [] }
noncomputable def flatState : State := { act one with teams := [(0, flatTeam)] }
theorem on_flat (sh : Shape) (h : Head) (hp : one.parts h.guard = [0]) (ha : h.a = sr 4) :
    OnWorklist sh flatState 0 one h (wl0 flatHd) flatState := by
  obtain ⟨lt, ring, blocks, -, hlog, list⟩ := Classical.choose_spec flat_header
  refine on_list_of sh h hp ha (tm := flatTeam) (by decide +kernel) (by decide +kernel) rfl rfl (by decide +kernel)
    (header_at flatHd _ lt) (by decide +kernel) ?_ rfl list
  unfold State.wlAreas
  rw [show wlRing flatHd = 4096 from ring, show wlBlocks flatHd = 1 from blocks, show wlHash flatHd = 0 by unfold wlHash; exact if_pos hlog]
  decide +kernel
theorem witness_wini : let h := Head.block (hd .b32 0 z (sr 4) z) (.lit (4096 + 2 * 2 ^ 20)) lit0 lit0 lit0
    Clear (winiShape h) (act grp) 0 grp h ∧ (act grp).listHeld 0 grp.team = false ∧
      OnScratch (act grp) 0 grp h (grp.getS (scalNum h.a)) 64 64 0 (act grp) team0 ∧
      winiBad (paramValues grp h).1 0 0 0 = false ∧
      (act grp).wlAreas grp ((act grp).spaceBase 0 1) (winiHeader (paramValues grp h).1 0 0 0) = none ∧
      (act grp).settleWl (plainCtx (winiShape h) 0 grp h 0) (winiHeader (paramValues grp h).1 0 0 0) = some (act grp) := by decide +kernel
theorem wl_room : wlCap (wl0 wlHd).hd = 1024 := by
  show (wlBlocks wlHd + wlScap wlHd - 1) * 1024 = 1024
  rw [wlHd_good.blocks, wlHd_good.scap]
theorem wl_clear {st : State} {sh : Shape} {h : Head} (h1 : illegal sh one h = .ok) (h2 : waitsAtIssue sh one h = false) (h0 : sh.afterTend = false) (h3 : sh.super = false)
    (h4 : indexFails sh one h (one.parts h.guard) = []) (h5 : poisonFails sh one h (one.parts h.guard) = [])
    (hc : st.cur = .group 0 := by rfl) (hg : klookup st.groups 0 = some one := by rfl) : Clear sh st 0 one h :=
  ⟨⟨⟨hc, hg⟩, by decide, h1, (fun x => absurd (h3.symm.trans x) (by decide)),
    by unfold State.issueWaits; rw [h2, h0]; rfl, rfl⟩, h4, h5⟩
/-- One item fits the block that takes the pushes. -/
theorem push_one (s : State) (e : Eng) (va : W64) (w : Wl) (x : W32) (hb : wlBlocks w.hd ≠ 0) (ht : w.tail < 1024) :
    ∃ s1 w1 xs, s.pushItems e va w [x] = .ok s1 w1 xs := by
  simp only [State.pushItems, State.pushItem]
  rw [if_neg hb, if_pos ht]
  exact ⟨_, _, _, rfl⟩
theorem wl_blocks : wlBlocks (wl0 wlHd).hd ≠ 0 := by
  show wlBlocks wlHd ≠ 0
  rw [wlHd_good.blocks]; decide
theorem witness_wpush : let h := onF1 (hd .b32 0 z (sr 4) (v 3))
    Clear (wpushShape h) wlState 0 one h ∧ OnWorklist (wpushShape h) wlState 0 one h (wl0 wlHd) wlState ∧
      (wl0 wlHd).items + (one.parts h.guard).length ≤ wlCap (wl0 wlHd).hd ∧
      wlState.releaseAll 0 (one.parts h.guard) allColours 1 true = some wlState ∧
      ∃ s4 w1 xs, wlState.pushItems (wlEng (plainCtx (wpushShape h) 0 one h 0) wlState) (one.getS (scalNum h.a)) (wl0 wlHd)
        ((one.parts h.guard).map fun l => BitVec.ofNat 32 (srcB (wpushShape h) one h l)) = .ok s4 w1 xs := by
  have hp : one.parts (onF1 (hd .b32 0 z (sr 4) (v 3))).guard = [0] := by decide +kernel
  refine ⟨wl_clear (by decide +kernel) (by decide +kernel) rfl rfl (by decide +kernel) (by decide +kernel), on_list _ _ hp rfl, ?_, ?_, ?_⟩
  · rw [wl_room, hp]; decide +kernel
  · rw [hp]; exact rfl
  · rw [hp]; exact push_one _ _ _ _ _ wl_blocks (by decide +kernel)
theorem witness_wpop : let h := onF1 (hd .b32 0 (v 8) (sr 4) (sr 3))
    Clear (wpopShape h) wlState 0 one h ∧ OnWorklist (wpopShape h) wlState 0 one h (wl0 wlHd) wlState ∧
      ∃ s3 w1 xs, wlState.popItems (wlEng (plainCtx (wpopShape h) 0 one h 0) wlState) (one.getS (scalNum h.a)) (wl0 wlHd)
        (min (one.parts h.guard).length (wl0 wlHd).items) = .ok s3 w1 xs := by
  refine ⟨wl_clear (by decide +kernel) (by decide +kernel) rfl rfl (by decide +kernel) (by decide +kernel), on_list _ _ (by decide +kernel) rfl, ?_⟩
  rw [show min (one.parts (onF1 (hd .b32 0 (v 8) (sr 4) (sr 3))).guard).length (wl0 wlHd).items = 1 by decide +kernel]
  simp only [State.popItems, State.popItem]
  rw [if_neg wl_blocks]
  exact ok_of (by decide +kernel)
/-- No room for the item; a set in which the value finds no place; no set. -/
theorem witness_list_traps :
    (let h := onF1 (hd .b32 0 z (sr 4) (v 3))
     Clear (wpushShape h) flatState 0 one h ∧ OnWorklist (wpushShape h) flatState 0 one h (wl0 flatHd) flatState ∧
       wlCap (wl0 flatHd).hd < (wl0 flatHd).items + (one.parts h.guard).length) ∧
    (let h := onF1 (hd .b32 0 (v 1) (sr 4) (v 3))
     Clear (winsShape h) flatState 0 one h ∧ OnWorklist (winsShape h) flatState 0 one h (wl0 flatHd) flatState ∧ wlHlog (wl0 flatHd).hd = 0) ∧
    (let h := onF1 (hd .b32 0 (v 1) (sr 4) (v 3))
     Clear (winsShape h) fullState 0 one h ∧ OnWorklist (winsShape h) fullState 0 one h (wl0 wlHd) fullState ∧ wlHlog (wl0 wlHd).hd ≠ 0 ∧
       fullState.releaseAll 0 (one.parts h.guard) allColours 1 true = some fullState ∧
       fullState.insertAll one.team (wl0 wlHd).hd ((one.parts h.guard).map fun l => (l, BitVec.ofNat 32 (srcB (winsShape h) one h l))) =
         (fullState, .full, [])) := by
  obtain ⟨-, -, blocks, scap, hlog, -⟩ := Classical.choose_spec flat_header
  refine ⟨⟨wl_clear (by decide +kernel) (by decide +kernel) rfl rfl (by decide +kernel) (by decide +kernel), on_flat _ _ (by decide +kernel) rfl, ?_⟩,
    ⟨wl_clear (by decide +kernel) (by decide +kernel) rfl rfl (by decide +kernel) (by decide +kernel), on_flat _ _ (by decide +kernel) rfl, hlog⟩,
    wl_clear (by decide +kernel) (by decide +kernel) rfl rfl (by decide +kernel) (by decide +kernel), on_full _ _ (by decide +kernel) rfl, ?_, ?_, ?_⟩
  · show (wlBlocks flatHd + wlScap flatHd - 1) * 1024 < _
    rw [show wlBlocks flatHd = 1 from blocks, show wlScap flatHd = 0 from scap]
    decide +kernel
  · show wlHlog wlHd ≠ 0
    rw [wlHd_good.hlog]; decide
  · rw [show one.parts (onF1 (hd .b32 0 (v 1) (sr 4) (v 3))).guard = [0] by decide +kernel]; exact rfl
  · rw [show (one.parts (onF1 (hd .b32 0 (v 1) (sr 4) (v 3))).guard).map
      (fun l => (l, BitVec.ofNat 32 (srcB (winsShape (onF1 (hd .b32 0 (v 1) (sr 4) (v 3)))) one (onF1 (hd .b32 0 (v 1) (sr 4) (v 3))) l))) = [(0, 4)] by
        decide +kernel]
    have h : (fullState.probe one.team 64 16 (hashHome 4 4) 4 16 0) = .full := by decide +kernel
    simp only [State.insertAll]
    rw [if_neg (by decide), show wlHlog (wl0 wlHd).hd = 4 from wlHd_good.hlog, show wlHoff (wl0 wlHd).hd = 64 from wlHd_good.hoff]
    simp only [show (2 : Nat) ^ 4 = 16 from rfl, h]
theorem wl_insert : let h := onF1 (hd .b32 0 (v 1) (sr 4) (v 3))
    ∃ s4, wlState.insertAll 0 wlHd [(0, 4)] = (s4, .dup, [(0, 4)]) ∧
    ∃ s5 w1 xs, s4.pushItems (wlEng (plainCtx (winsShape h) 0 one h 0) s4) (one.getS (scalNum h.a))
      { wl0 wlHd with hcnt := (wl0 wlHd).hcnt + [((0 : Nat), (4 : W32))].length } ([((0 : Nat), (4 : W32))].map Prod.snd) = .ok s5 w1 xs := by
  have h : (wlState.probe 0 64 16 (hashHome 4 4) 4 16 0) = .free (hashHome 4 4) := by decide +kernel
  refine ⟨wlState.setScrWord 0 (64 + 4 * hashHome 4 4) 4, ?_, push_one _ _ _ _ _ wl_blocks (by decide +kernel)⟩
  simp only [State.insertAll]
  rw [if_neg (by decide), wlHd_good.hlog, wlHd_good.hoff]
  simp only [show (2 : Nat) ^ 4 = 16 from rfl, h]
theorem witness_wins : let h := onF1 (hd .b32 0 (v 1) (sr 4) (v 3))
    Clear (winsShape h) wlState 0 one h ∧ OnWorklist (winsShape h) wlState 0 one h (wl0 wlHd) wlState ∧ wlHlog (wl0 wlHd).hd ≠ 0 ∧
      wlState.releaseAll 0 (one.parts h.guard) allColours 1 true = some wlState ∧
      ∃ s4 pr acc, wlState.insertAll 0 (wl0 wlHd).hd ((one.parts h.guard).map fun l => (l, BitVec.ofNat 32 (srcB (winsShape h) one h l))) = (s4, pr, acc) ∧
        pr ≠ .full ∧ pr ≠ .poison ∧ (acc ≠ [] → (wl0 wlHd).hcnt + acc.length < 2 ^ wlHlog (wl0 wlHd).hd) ∧
        (wl0 wlHd).items + acc.length ≤ wlCap (wl0 wlHd).hd ∧
        ∃ s5 w1 xs, s4.pushItems (wlEng (plainCtx (winsShape h) 0 one h 0) s4) (one.getS (scalNum h.a))
          { wl0 wlHd with hcnt := (wl0 wlHd).hcnt + acc.length } (acc.map Prod.snd) = .ok s5 w1 xs := by
  obtain ⟨s4, hi, ho⟩ := wl_insert
  have hp : one.parts (onF1 (hd .b32 0 (v 1) (sr 4) (v 3))).guard = [0] := by decide +kernel
  have hl : (one.parts (onF1 (hd .b32 0 (v 1) (sr 4) (v 3))).guard).map
      (fun l => (l, BitVec.ofNat 32 (srcB (winsShape (onF1 (hd .b32 0 (v 1) (sr 4) (v 3)))) one (onF1 (hd .b32 0 (v 1) (sr 4) (v 3))) l))) = [(0, 4)] := by
    decide +kernel
  refine ⟨wl_clear (by decide +kernel) (by decide +kernel) rfl rfl (by decide +kernel) (by decide +kernel), on_list _ _ hp rfl, ?_, by rw [hp]; exact rfl,
    s4, .dup, [(0, 4)], (congrArg _ hl).trans hi, by decide, by decide, fun _ => ?_, ?_, ho⟩
  · show wlHlog wlHd ≠ 0
    rw [wlHd_good.hlog]; decide
  · show 0 + 1 < 2 ^ wlHlog wlHd
    rw [wlHd_good.hlog]; decide
  · rw [wl_room]; decide +kernel
/-- A ring at no multiple of 4,096 is rejected (R391). -/
theorem witness_wini_bad : let h := Head.block (hd .b32 0 z (sr 4) z) (.lit 1) lit0 lit0 lit0
    Clear (winiShape h) (act grp) 0 grp h ∧ winiBad (paramValues grp h).1 0 0 0 = true := by decide +kernel
theorem witness_wstat : let h := onF1 (hd .b32 3 (sr 3) (sr 4) z)
    Clear (wstatShape h) wlState 0 one h ∧ OnWorklist (wstatShape h) wlState 0 one h (wl0 wlHd) wlState :=
  ⟨wl_clear (by decide +kernel) (by decide +kernel) rfl rfl (by decide +kernel) (by decide +kernel), on_list _ _ (by decide +kernel) rfl⟩
/-- 256 rows from row 0 of a group that declares as many. -/
theorem witness_topk : let g : Group := { grp with nrows := 256, scal := [(5, 256)] }
    let h := hd .i32 7 (v 240) (v 0) (sr 5)
    Clear (topkShape h g) (act g) 0 g h ∧ 1 ≤ topkN g h ∧ topkN g h ≤ 256 ∧ (0#11).toNat + topkN g h ≤ g.nrows := by decide +kernel

/-! ### System instructions -/

theorem witness_system : ∀ g ∈ [grp, sgrp],
    (let h := hd .b32 0 z z (.imm 0x7FFFF); Clear { sysShape 0 h with b := fScalRaw, region := true } (act g) 0 g h ∧ NoTx g h) ∧
    (let h := hd .b32 0 z z (.imm 0); Clear { sysShape 2 h with b := fImm, region := true } (act g) 0 g h) ∧
    (let h := hd .b32 0 z z z; Clear { sysShape 4 h with always := true } (act g) 0 g h) := by
  intro g hg
  simp only [List.mem_cons, List.not_mem_nil, or_false] at hg
  rcases hg with rfl | rfl <;> (refine ⟨?_, ?_, ?_⟩ <;> decide +kernel)
theorem witness_sret : let h := hd .b32 0 z z z
    Clear { sysShape 1 h with always := true, super := true } (act sgrp) 0 sgrp h ∧ sgrp.parts h.guard ≠ [] ∧ sgrp.tpc.extractLsb' 0 2 = 0 ∧
      (let g : Group := { sgrp with tpc := 2 }
       Clear { sysShape 1 h with always := true, super := true } (act g) 0 g h ∧ g.tpc.extractLsb' 0 2 ≠ 0) ∧
      (let g : Group := { sgrp with lanes := List.replicate 32 (lane0.setCnt 1) }
       Clear { sysShape 1 h with always := true, super := true } (act g) 0 g h ∧ g.parts h.guard = []) := by
  refine ⟨?_, ?_, ?_, ?_, ?_⟩ <;> decide +kernel
/-- sigchk: the reset signature's low bits match, those of zero do not, in a region with restarts left and in none. -/
theorem witness_sigchk : let h := hd .b32 0 z z (.imm 0x7FFFF)
    let h0 := hd .b32 0 z z (.imm 0)
    let r : Group := { grp with ractive := true, rentry := 0x10000 }
    (Clear { sysShape 3 h with b := fImm, always := true, inactive := true } (act grp) 0 grp h ∧ grp.sup = false ∧
      grp.checkNest.sig.extractLsb' 0 19 = 0x7FFFF ∧ grp.checkNest.nesterr = false) ∧
    (Clear { sysShape 3 h0 with b := fImm, always := true, inactive := true } (act grp) 0 grp h0 ∧
      ¬ (grp.checkNest.sig.extractLsb' 0 19 = 0 ∧ grp.checkNest.nesterr = false) ∧ grp.checkNest.ractive = false) ∧
    (Clear { sysShape 3 h0 with b := fImm, always := true, inactive := true } (act r) 0 r h0 ∧ r.checkNest.ractive = true ∧
      r.checkNest.rcnt.toNat < r.checkNest.rrlim.toNat ∧ r.checkNest.busy = []) := by
  refine ⟨?_, ?_, ?_⟩ <;> decide +kernel
theorem witness_halt : let h := hd .b32 0 (sr 3) z z
    let g : Group := { sgrp with wait := .halt 3 }
    let s : State := { act g with dies := [(0, { evpend := 1, evmask := 1 })] }
    Clear { sysShape 5 h with d := fScal, always := true, super := true } (act sgrp) 0 sgrp h ∧
      klookup s.groups 0 = some g ∧ g.wait = .halt 3 ∧ s.wakeEvents g.core ≠ 0 ∧ s.groupHalted g = false := by decide +kernel
theorem witness_supervisor : ClearAll sgrp
    [(zgetShape (hd .b32 1 (sr 3) (v 1) z), hd .b32 1 (sr 3) (v 1) z), (zgetShape (hd .b32 0 (sr 3) (v 15) z), hd .b32 0 (sr 3) (v 15) z),
     (zsetShape (hd .b32 1 (v 1) (sr 5) z), hd .b32 1 (v 1) (sr 5) z), (zsetShape (hd .b32 0 (v 15) (sr 5) z), hd .b32 0 (v 15) (sr 5) z),
     (capsShape 0 (hd .b32 1 (sr 3) (.imm 1) z), hd .b32 1 (sr 3) (.imm 1) z)] := by decide +kernel
theorem witness_pmc : ∀ h ∈ [hd .b32 0 (sr 3) (.imm 7) z, hd .b32 1 (sr 3) (.imm 15) z],
    Clear (capsShape 1 h) (act sgrp) 0 sgrp h ∧ (readNum sgrp h.a).toNat < pmcCount h ∧ sgrp.sup = true := by decide +kernel

/-! ### Translations, ownership, memory events -/

theorem witness_translations : ClearAll sgrp
    [(tlbiShape (hd .b32 0 (sr 3) (sr 4) (.imm 7)), hd .b32 0 (sr 3) (sr 4) (.imm 7)), (tlbiShape (hd .b32 2 (sr 3) z z), hd .b32 2 (sr 3) z z),
     ({ major := 0xF4, minor := 1, tyOk := true, modsOk := true, d := fScal, super := true, access := true }, hd .b32 0 (sr 9) z z)] := by decide +kernel
theorem witness_ownset : let h := hd .b32 0 (sr 3) (sr 0) (.imm 1)
    Clear (ownsetShape h) (act sgrp) 0 sgrp h ∧ 1 ≤ (readNum sgrp h.b).toNat ∧ (readNum sgrp h.b).toNat ≤ 512 ∧
      (readNum sgrp h.a).toNat % 2 ^ 21 = 0 ∧
      ∀ k < (readNum sgrp h.b).toNat, (act sgrp).hasRegion ((readNum sgrp h.a).toNat + k * 2 ^ 21) = true := by decide +kernel
theorem witness_tlbi_complete : let s := withOp (.tlbi 0 3 [here])
    klookup s.ops 5 = some (.tlbi 0 3 [here]) ∧ (s.groups.any fun e => s.groupUses 5 [here] e.2) = false ∧
      (s.ops.any fun e => decide (e.1 < 5) && s.opUses e.1 [here] e.2) = false := by decide +kernel
theorem witness_ownset_complete : klookup (withOp (.ownset 0 3 0 512 2 true)).ops 5 = some (.ownset 0 3 0 512 2 true) := by decide +kernel
/-- A root table at 0 whose entry 0 is a leaf of the largest size that the table's level takes. -/
theorem witness_walk : ∃ (s : State) (e : TlbEntry), s.cur = .group 0 ∧ klookup s.groups 0 = some grp ∧ grp.core = 0 ∧ s.asidOf grp = 1 ∧
    (0x4000#64).toNat < 2 ^ 54 ∧ s.find (.core 0) 1 (0x4000#64).toNat = .entry e true ∧
    s.peekWaits (.core 0) 1 (0x4000#64).toNat .read = false :=
  ⟨{ act grp with mem := { bytes := [(9, 0x40), (0x4000, 0x01), (0x4001, 0x80), (0x8000, 0xF3), (0x8001, 0x03)] }, pkg := { ptroot := 1 } },
    _, rfl, rfl, rfl, by decide +kernel, by decide, rfl, by decide +kernel⟩
theorem witness_transfer : let q : QStore := { lanes := [0], loc := .glob 0x10000, bytes := [1], colour := 0, slot := 0, va := 0x10000, age := 0, full := false,
                                                rem := none, rid := none, rel := false }
    let s := act { grp with stores := [q] }
    s.transferFor 0 = some 1 ∧ s.needsTransfer true (0 * 2 ^ 21) = true := by decide +kernel
/-- A request that waits behind a full queue that has lost one entry, and a load of which a queued request names a sector. -/
theorem witness_l2 : let r : L2Req := { slice := sliceOf 0x10000, sector := 0x100, core := 0, op := 5, waiting := true }
    let s : State := { act grp with mem := { l2q := [(3, r)] } }
    let L : Load := { load0 with lanes := [{ lane := 0, row := 8, va := 0x10000, chunks := [{ loc := .glob 0x10000, n := 4, slot := 0 }], fmt := 0,
                                             got := [], done := none, bad := false }], gather := [] }
    let t : State := { withOp (.load L) with mem := { l2q := [(3, { r with waiting := false })] } }
    (klookup s.mem.l2q 3 = some r ∧ r.waiting = true ∧ s.sliceFull (r.sector * 256) = false ∧ s.mem.l2q.any (r.behind 3) = false) ∧
    t.fillFor 0x100 0 = some 0 ∧ klookup t.groups 0 = some grp := by decide +kernel
theorem witness_parity : let p : ParityFault := { array := .l2, unit := 4, src := 0, asid := 1, addr := 0, team := 0, words := List.replicate 64 0,
                                                   parity := 1 :: List.replicate 63 0, column := 0, index := 0 }
    p.words.length = 64 ∧ p.parity.length = 64 ∧ p.index < 64 ∧ wordFails p p.index = true := by decide +kernel
theorem witness_extents : (act grp).extentFits (5 * 2 ^ 48) (2 ^ 21) = true ∧
    (let s : State := { act grp with mem := { extents := [{ base := 5 * 2 ^ 48, size := 2 ^ 21, st := 0 }] } }
     ∃ e ∈ s.mem.extents, e.st = 0) := ⟨by decide +kernel, _, List.mem_singleton.2 rfl, rfl⟩

/-! ### The fabric -/

def packet0 (op : PacketOp) (data : List Byte) : Packet :=
  { op := op, src := 1, dst := 0, addr := 0, len := data.length, data := data, btag := 0, key := 0, group := 3, elt := 0, rid := 0, stat := 0 }
def linkAt (x : Link) : State := { act grp with net := { links := [(0, x)], groups := [(3, { members := [{ pkg := 0, dbase := 0, btag := 0 }], elt := 0, size := 64, pmask := 1 })],
                                                          chunks := [(2, { plane := 0, group := 3, off := 0, len := 4, sums := [0], count := 1, key := 0 })] } }
theorem witness_packet : (act grp).packetHeld (packet0 .write [1, 2, 3, 4]) = false := by decide +kernel
/-- A flit, and the same on the wire: with a good CRC, and with its CRC inverted. -/
def flit0 (b : FlitBody) (seq : BitVec 12 := 0) : Flit := { body := b, seq := seq, av := true, ack := 0xFFF, cred := 0 }
def flitOf (f : Flit) : Flit := flitMeans (bodyBits f.body) (flitLow f)
theorem flit_comes (f : Flit) (h : flitOf f = f) : flitRead (flitRaw f) = some f := (flitRead_raw f).trans (congrArg some h)
theorem witness_flits : let s := linkAt { state := 2 }
    let y (f : Flit) := (s.link 0).heard f
    linkUp (s.link 0) = true ∧ (∃ r, flitRead r = none) ∧
    (let f := flit0 .control
     flitRead (flitRaw f) = some f ∧ f.av = true) ∧ flitRead (flitRaw (flit0 .idle)) = some (flit0 .idle) ∧
    (let f := flit0 (.header (packet0 .readReq [])) 1
     flitRead (flitRaw f) = some f ∧ f.body ≠ .idle ∧ f.body ≠ .control ∧ f.seq ≠ (s.link 0).rxNext) ∧
    (let f := flit0 (.header { packet0 .write [] with len := 256 })
     flitRead (flitRaw f) = some f ∧ f.body ≠ .idle ∧ f.body ≠ .control ∧ f.seq = (s.link 0).rxNext ∧ ((y f).accept f).2 = none) ∧
    (let f := flit0 (.header (packet0 .readReq []))
     flitRead (flitRaw f) = some f ∧ f.seq = (s.link 0).rxNext ∧ ∃ p, ((y f).accept f).2 = some p ∧ s.packetHeld p = false) := by
  refine ⟨by decide +kernel, ⟨_, flitRead_bad 0 0 (~~~flitCrc 0 0) (by bv_omega)⟩, ⟨flit_comes _ (by decide +kernel), rfl⟩,
    flit_comes _ (by decide +kernel), ⟨flit_comes _ (by decide +kernel), ?_, ?_, ?_⟩, ⟨flit_comes _ (by decide +kernel), ?_, ?_, ?_, ?_⟩,
    flit_comes _ (by decide +kernel), by decide +kernel, _, rfl, by decide +kernel⟩ <;> decide +kernel
theorem witness_links : ((linkAt { state := 2 }).link 0).state = 2 ∧ ((linkAt { state := 1, target := 2 }).link 0).target = 2 ∧
    ((linkAt { state := 3 }).link 0).state = 3 ∧ ((linkAt { state := 1 }).link 0).state = 1 ∧ linkUp ((linkAt { state := 2 }).link 0) = true := by
  decide +kernel
theorem witness_switch : let s := linkAt { state := 2 }
    let g : McGroup := { members := [{ pkg := 0, dbase := 0, btag := 0 }], elt := 0, size := 64, pmask := 1 }
    let p := packet0 .contribution [0, 0, 0, 0]
    let c : McChunk := { plane := 0, group := 3, off := 0, len := 4, sums := [0], count := 1, key := 0 }
    let same (c : McChunk) : Bool := c.plane == 0 && c.group == p.group && c.off == p.addr && c.len == p.len && decide (c.count < g.members.length)
    klookup s.net.groups p.group = some g ∧ p.op = .contribution ∧ p.data.length = p.len ∧ g.pmask.getLsbD 0 = true ∧
      (∀ e ∈ s.net.chunks, same e.2 = false) ∧ klookup s.net.chunks 2 = some c ∧ klookup s.net.groups c.group = some g ∧
      g.members.length ≤ c.count ∧ s.deliverHeld g c.off c.len = false ∧ s.deliverHeld g 0 4 = false := by decide +kernel
theorem witness_switch_second : let g : McGroup := { members := [{ pkg := 0, dbase := 0, btag := 0 }, { pkg := 1, dbase := 0, btag := 0 }], elt := 0, size := 64, pmask := 1 }
    let p := packet0 .contribution [0, 0, 0, 0]
    let s := linkAt {}
    let same (c : McChunk) : Bool := c.plane == 0 && c.group == p.group && c.off == p.addr && c.len == p.len && decide (c.count < g.members.length)
    ∃ e, s.net.chunks.find? (fun e => same e.2) = some e := ⟨_, rfl⟩

/-! ### The pool, dispatch and pre-emption -/

def record0 : Record :=
  { entry := 0x10000, arg := 0, locbase := 0, locsize := 0, teams := 1, groups := 1, width := 32, paired := false, cores := false, txok := false,
    rows := 16, scratch := 0, tun := 0, prio := 2, host := false, aff := 1, asid := 1, key := 0, preds := 0, succ := [], fps := [] }
def task0 : Task := { record := record0, recAddr := 0, sub := .mailbox, seq := 1, preds := 0, level := 2, since := 0, order := 1, slots := [.unplaced] }
def pooled (k : Task) : State :=
  { xa := { State.reset.xa with stage := 4 }, pool := { tasks := [(1, k)], nextId := 2, seq := 1 }, clock := 10 ^ 8 }
theorem triple {α β γ : Type} (x : α × β × γ) : ∃ a b c, x = (a, b, c) := ⟨x.1, x.2.1, x.2.2, rfl⟩
theorem witness_doorbell : (pooled task0).pool.mbstat.getLsbD 8 = false ∧ (pooled task0).trapsWait = false ∧
    ∃ s1 code id, (pooled task0).submit .mailbox none 0 (kgetRun 0 (pooled task0).pool.mbrec 0 128) = (s1, code, id) := ⟨by decide, by decide +kernel, triple _⟩
/-- Core 2 is the first whose pair holds no team of ASID 0 (core 0 has a service group). -/
theorem witness_place : klookup (pooled task0).pool.tasks 1 = some task0 ∧ (pooled task0).mayPlace 1 = some [2] ∧
    (∀ i ∈ task0.nextSlots, (pooled task0).badImage (task0.slots.getD i .dead) = false) ∧
    (pooled task0).poolWaits ((pooled task0).dispatchRuns task0) false = false ∧
    (let s0 := (pooled task0).poolReads ((pooled task0).dispatchRuns task0)
     ∀ c ∈ [2], pairOf c ∉ s0.pool.scrubs ∧ klookup s0.pool.pairAsid (pairOf c) = none) :=
  ⟨by decide +kernel, by decide +kernel, by decide +kernel, by decide +kernel, by decide +kernel⟩
theorem witness_scrub : let s : State := { act grp with pool := { scrubs := [3] } }
    3 ∈ s.pool.scrubs ∧ ∀ e ∈ s.teams, pairOf e.2.core = 3 → e.2.asid = 0 := by decide +kernel
theorem witness_ageing : klookup (pooled task0).pool.tasks 1 = some task0 ∧ task0.waits = true ∧ 2 ≤ task0.level ∧
    task0.since + (pooled task0).usClocks ((pooled task0).pkg.pquant.extractLsb' 32 32).toNat ≤ (pooled task0).clock := by decide +kernel
theorem witness_retire : let s := act { grp with lanes := List.replicate 32 { lane0 with live := false } }
    let t : Team := { team0 with faulted := true }
    let f : State := { act grp with teams := [(0, t)] }
    (klookup s.teams 0 = some team0 ∧ team0.faulted = false ∧ team0.discard = false ∧ (∀ e ∈ s.teamGroups 0, e.2.ended = true) ∧
      s.quiet 0 = true ∧ s.teamOps 0 = []) ∧
    (klookup f.teams 0 = some t ∧ t.faulted = true ∧ ((f.haltTeam 0).stopDrains 0).settled 0 = true) := by decide +kernel
theorem witness_host_task : let k : Task := { task0 with record := { record0 with host := true } }
    let s : State := { pooled k with pkg := State.reset.pkg }
    klookup s.pool.tasks 1 = some k ∧ k.record.host = true ∧ k.order ≠ 0 ∧ k.posted = false ∧
      ((s.pkg.htqptr.extractLsb' 0 32 : BitVec 32) - (s.pkg.htqptr.extractLsb' 32 32 : BitVec 32)).toNat < 2 ^ (s.pkg.htq.extractLsb' 0 4).toNat ∧
      s.poolWaits [(0, 16)] true = false := by
  refine ⟨rfl, rfl, by decide, rfl, by decide +kernel, by decide +kernel⟩
theorem witness_htdone : let k : Task := { task0 with record := { record0 with host := true }, posted := true }
    klookup (pooled k).pool.tasks ((1#64).extractLsb' 0 32).toNat = some k ∧ k.record.host = true ∧ k.posted = true := by decide +kernel
/-- Every pair of die 0 but the first holds a team of ASID 2 of level 3, so a task of that die and of another tenant needs a victim. -/
def full : State :=
  { pooled task0 with
    pkg := { imgheap := 0x0010000000000000 }
    teams := (List.range 30).map fun k => (k, { team0 with task := 9, asid := 2, core := 2 * k, prio := 3 }) }
theorem witness_victim : klookup full.pool.tasks 1 = some task0 ∧ task0.waits = true ∧ full.placesFor 1 task0 = none ∧ full.barred 1 task0 = false ∧
    full.contained task0.record.asid = false ∧ full.heapSize ≠ 0 ∧ (∀ i ∈ task0.nextSlots, full.badImage (task0.slots.getD i .dead) = false) ∧
    (match full.enoughVictims task0 [] (full.victims task0.level) with | some gone => (full.askTeams gone).isSome | none => false) = true := by
  decide +kernel
theorem witness_preempt : let s : State := { act grp with pkg := { imgheap := 0x0010000000000000 } }
    let v : W64 := 0x8000000000000001
    let t : Team := { team0 with asked := some (0, 2 ^ 20), halted := true }
    let h : State := { act grp with teams := [(0, t)] }
    (v.getLsbD 63 = true ∧ s.heapSize ≠ 0 ∧
      (({ s with pkg := { s.pkg with prmt := (v &&& 0x1FFFF) ||| (s.pkg.prmt &&& 0x4000000000000000) } } : State).askTeams
        (s.teamsWhere fun t => v.getLsbD 16 || t.asid == (v.extractLsb' 0 16).toNat)).isSome = true) ∧
    (klookup h.teams 0 = some t ∧ t.asked.isSome = true ∧ t.asked = some (0, 2 ^ 20) ∧ t.halted = true ∧ t.faulted = false ∧ t.discard = false ∧
      (h.stopDrains 0).settled 0 = true ∧ (h.stopDrains 0).poolWaits [(0, ((h.stopDrains 0).imageOf 0 t 0 (2 ^ 20)).len)] true = false) ∧
    s.pkg.ckctl.getLsbD 2 = false ∧ (0x1001#64).extractLsb' 0 2 = 1 ∧ (0x1002#64).extractLsb' 0 2 = 2 := by
  refine ⟨?_, ?_, ?_, ?_, ?_⟩ <;> decide +kernel

/-! ### Keys, the alarm, the package -/

theorem witness_keys : let s : State := { xa := { State.reset.xa with karg := 0x100010001 } }
    let busy (k : KOp) : State := { s with xa := { s.xa with kbusy := some (k, s.xa.karg) } }
    (s.xa.kbusy = none ∧ kargSlot s.xa.karg ≠ 0 ∧ s.xa.erased = false ∧ (0x5000#64).extractLsb' 52 12 = 0) ∧
    (busy .clear).xa.kbusy = some (.clear, s.xa.karg) ∧ (busy .plain).xa.kbusy = some (.plain, s.xa.karg) ∧
    (busy (.load 0x5000)).xa.kbusy = some (.load 0x5000, s.xa.karg) ∧ ((busy (.load 0x5000)).flushSlot (kargSlot s.xa.karg)).xa.erased = false := by
  decide +kernel
theorem witness_alarm : let e : XEvent := { source := 4, asid := some 1, clock := 0 }
    let s : State := { xa := { State.reset.xa with queue := [(1, e)] } }
    let w : State := { xa := { State.reset.xa with queue := [(2, e)] } }
    let l : State := { logs := [(0, { pend := [(15, [{ asid := 1, src := 0, value := 0 }])] })] }
    State.reset.plat.debugLock = true ∧ s.xa.queue = (1, e) :: [] ∧ s.xa.erased = false ∧ e.asid ≠ some 0 ∧ w.xa.queue = (2, e) :: [] ∧
      (kget {} l.logs 0).pend ≠ [] := by decide +kernel
theorem witness_platform : let s : State := { xa := { State.reset.xa with stage := 3 } }
    State.reset.xa.stage < 3 ∧ State.reset.xa.held = false ∧ s.xa.held = false ∧ s.xa.stage = 3 ∧ 1300 ≤ State.reset.plat.mhz ∧
      ({ mhz := 1700 } : Platform).mhz < 1800 := by decide +kernel
/-- A host core's load of 8 bytes outside a transaction and in one. -/
theorem witness_host_access : let a : HostAccess := { agent := .host 2, kind := .load, pa := 0x1000, size := 8, value := 0, rd := 5 }
    let b : HostAccess := { a with agent := .pcie }
    let s : State := {}
    let o : State := { hosts := [(2, { txOpen := true })] }
    let q : State := { hosts := [(2, { stq := [{ pa := 0x2000, bytes := [1] }] })] }
    let rel : HostAccess := { a with rl := true }
    (hostAccessOk a = true ∧ s.hostMac a = false ∧ (s.host 2).waitRd = none ∧ s.hostHeld (.host 2) a = false ∧ (s.host 2).txOpen = false ∧
      s.hostDrains a 2 = false) ∧
    (hostAccessOk rel = true ∧ q.hostDrains rel 2 = true ∧ ((q.drainHostAll 2).host 2).stq = [] ∧ (q.drainHostAll 2).hostHeld (.host 2) rel = false ∧
      (q.drainHostAll 2).hostMac rel = false) ∧
    (o.hostMac a = false ∧ (o.host 2).waitRd = none ∧ o.hostHeld (.host 2) a = false ∧ (o.host 2).txOpen = true ∧
      isDevReg a.pa = false ∧ o.lockExcludes (.host 2) a.pa false = false) ∧
    (hostAccessOk b = true ∧ s.hostMac b = false ∧ (∀ n < 48, b.agent ≠ .host n) ∧ s.hostHeld .outside b = false) := by decide +kernel

/-! ### A step -/

/-- 02_code.md R27 to R29: `iadd.i32 v1, v2, v3` as the group's code at 0x10000, in L2 and in a region of the devices. -/
def coded : State :=
  { act grp with
    sched := [.quarter 0 0]
    mem := { tlb := [here, there], regions := [(0, { owner := 0 })], l2 := [(0x100, { dirty := false, slot := 0 })]
             bytes := [(0x10000, 3), (0x10002, 0x40), (0x10005, 4), (0x10008, 0xA0), (0x1000B, 0x10)] } }
/-- The words at the pc are held, in a state whose L2 holds the sector at 0x10000. -/
theorem code_held (s : State) (h : ∀ k < 7, let va := grp.pc.toNat + 4 * k
    s.codeLook grp va = .word (0x10000 + 4 * k) 0 ∧ s.codeOlds grp (0x10000 + 4 * k) = [] ∧
      (s.tlbHit (.core grp.core) (s.asidOf grp) va = some here ∧ needsMark here.pte .fetch = false) ∧
      (s.mem.tlb.any fun x => x.l1 && x.unit == grp.core && x.covers (s.asidOf grp) va) = true ∧
      isDomain (0x10000 + 4 * k) = false ∧ isDevReg (0x10000 + 4 * k) = false ∧
      klookup s.mem.l2 (sectorOf (0x10000 + 4 * k)) = some { dirty := false, slot := 0 } ∧
      klookup s.mem.atom ((0x10000 + 4 * k) / 256) = none ∧ s.needsTransfer true (0x10000 + 4 * k) = false ∧
      s.codeWaits 0 grp (0x10000 + 4 * k) = false) :
    ∀ k < 7, CodeHeld s 0 grp (grp.pc.toNat + 4 * k) (0x10000 + 4 * k) 0 := by
  intro k hk
  obtain ⟨h1, h2, h3, h4, h5, h6, h7, h8, h9, h10⟩ := h k hk
  exact ⟨h1, h2, ⟨_, h3⟩, h4, h5, h6, ⟨_, h7, rfl⟩, (fun a ha => by rw [h8] at ha; cases ha), h9, h10⟩
/-- 04_rows.md R131: movw with its parameter block as the group's code. -/
def coded7 : State :=
  { coded with mem := { coded.mem with bytes := bytesAt 0x10000 (wordOf 0x60100100 0xC000140000000000 ++ leBytes 16 (5 + 512 * 2 ^ 32)) } }
theorem witness_fetch : klookup coded.groups 0 = some grp ∧ grp.far = [] ∧ grp.fetched = [] ∧
    (∀ k < 3, CodeHeld coded 0 grp (grp.pc.toNat + 4 * k) (0x10000 + 4 * k) 0) ∧
    (BitVec.ofNat 32 (leNat (coded.homeBytes 0x10004 4)) : W32).getLsbD 31 = false ∧
    klookup coded7.groups 0 = some grp ∧ (∀ k < 7, CodeHeld coded7 0 grp (grp.pc.toNat + 4 * k) (0x10000 + 4 * k) 0) ∧
    (BitVec.ofNat 32 (leNat (coded7.homeBytes 0x10004 4)) : W32).getLsbD 31 = true :=
  ⟨rfl, rfl, rfl, fun k hk => code_held coded (by decide +kernel) k (by omega), by decide +kernel, rfl, code_held coded7 (by decide +kernel),
    by decide +kernel⟩
/-- The group's turn runs that iadd. -/
theorem witness_step : coded.nextTurn.1 = .quarter 0 0 ∧ coded.nextTurn.2.stopped = false ∧ coded.nextTurn.2.pick 0 0 = some (0, 0, grp) ∧
    (match ((coded.nextTurn.2.advanceTo 0).actAs (.group 0)).fetchGroup 0 grp with
     | .ok _ ws => decodeBytes (wordBytes ws) == some (.iadd (abc .i32), [])
     | _ => false) = true := by
  refine ⟨rfl, rfl, by decide +kernel, by decide +kernel⟩
/-- A host core's turn with xtbeg at its pc, and the turn of an event. -/
theorem witness_step_others : let s : State := { hosts := [(2, { running := true, pc := 0x1000 })], sched := [.host 2],
                                                 mem := { bytes := [(0x1000, 0x0B), (0x1001, 0x85), (0x1002, 0x05)] } }
    let e : State := { sched := [.event (.hostEventRequest 0)] }
    let r : State := { sched := [.event .coldReset], plat := { tripped := true } }
    (s.nextTurn.1 = .host 2 ∧ s.nextTurn.2.stopped = false ∧ (s.nextTurn.2.host 2).running = true ∧ (s.nextTurn.2.host 2).waitRd = none ∧
      (let s1 := (s.nextTurn.2.advanceTo (s.nextTurn.2.clock + 1)).actAs (.host 2)
       s1.look (sectorOf 0x1000) 0 ≠ .mac ∧
        (match s1.hostFetch 2 with | some (_, w) => decodeHost w == some (.xtbeg 10 11) | none => false) = true)) ∧
    (e.nextTurn.1 = .event (.hostEventRequest 0) ∧ isEvent (.hostEventRequest 0) = true ∧ e.nextTurn.2.plat.tripped = false ∧
      e.nextTurn.2.xa.held = false ∧ e.nextTurn.2.agentUp (.hostEventRequest 0) = true) ∧
    (r.nextTurn.1 = .event .coldReset ∧ isEvent .coldReset = true ∧ afterTrip .coldReset = true ∧
      whileHeld .coldReset = true ∧ r.nextTurn.2.agentUp .coldReset = true) := by
  refine ⟨?_, ?_, ?_⟩ <;> decide +kernel
/-- The group's page without X, with a key slot of another tenant, with a failed MAC, poisoned, and not mapped. -/
def codeAt (m : Mem) : State :=
  { coded with mem := m, xa := { State.reset.xa with slots := kput (kput State.reset.xa.slots 7 { kind := 1, owner := 2 }) 8 { kind := 2, owner := 1, shared := true, key := 1 } } }
/-- The group of `s` takes its turn at clock 0, no walk of its fetch waits, and `p` holds of what it fetches. -/
def fetches (s : State) (p : State → Bool) : Bool :=
  let s1 := (s.nextTurn.2.advanceTo 0).actAs (.group 0)
  s.nextTurn.1 == .quarter 0 0 && !s.nextTurn.2.stopped && s.nextTurn.2.pick 0 0 == some (0, 0, grp) && klookup s.nextTurn.2.groups 0 == some grp &&
    ((List.range 3).all fun k => !s1.peekWaits (.core 0) (s1.asidOf grp) (grp.pc.toNat + 4 * k) .fetch) && p s1
def isMac : CodeLook → Bool
  | .mac _ _ => true
  | _ => false
theorem witness_fetch_traps : NoneDue grp ∧ grp.fetched = [] ∧ grp.ractive = false ∧
    fetches (codeAt { tlb := [{ here with pte := 0x103B3 }] }) (fun s => s.codeLook grp grp.pc.toNat == .deny) = true ∧
    fetches (codeAt { tlb := [{ here with pte := 0x103F3 + 7 * 2 ^ 116 }] }) (fun s => s.codeLook grp grp.pc.toNat == .key) = true ∧
    fetches (codeAt { tlb := [{ here with pte := 0x103F3 + 8 * 2 ^ 116 }] }) (fun s => isMac (s.codeLook grp grp.pc.toNat)) = true ∧
    fetches (codeAt { tlb := [here], poison := [0x100] }) (fun s => s.codeLook grp grp.pc.toNat == .poison) = true ∧
    fetches (codeAt {}) (fun s => (List.range 3).all fun k => (s.codeLook grp (grp.pc.toNat + 4 * k)).isMiss) = true := by
  decide +kernel
/-- Whether a step or an instruction answers a next state. -/
def goesOn : Host.Outcome State Fault Refusal → Bool
  | .next _ => true
  | _ => false
theorem next_of {o : Host.Outcome State Fault Refusal} (h : goesOn o = true) : ∃ t, o = .next t := by
  cases o with | next t => exact ⟨t, rfl⟩ | _ => cases h
theorem witness_trip : let s : State := { act grp with plat := { tripped := true } }
    s.plat.tripped = true ∧ (∃ t, step s = .next t) ∧ ∃ t, step { s with sched := [.event .coldReset] } = .next t :=
  ⟨rfl, next_of (by decide +kernel), next_of (by decide +kernel)⟩

/-! ### Traps, illegal words, waits, frames -/

theorem witness_trap_entry : let tr : Trap := { cause := 3, lanes := [(0, 0x20000), (5, 0x20000)], tpc := 0x10000 }
    let off : State := { act grp with teams := [(0, { team0 with trapsOn := false })] }
    (∀ g ∈ [grp, sgrp, { sgrp with service := true }], klookup (act g).groups 0 = some g ∧
      (∀ l < 32, (tr.lanes.lookup l).isSome = true → (g.lane l).tx.isOpen = false) ∧ tr.cause ≠ cPriv) ∧
    (sgrp.sup = true ∧ sgrp.service = false ∧ klookup (act sgrp).teams sgrp.team = some team0) ∧ grp.sup = false ∧
      klookup off.teams grp.team = some { team0 with trapsOn := false } ∧ klookup (act grp).teams grp.team = some team0 ∧ team0.trapsOn = true ∧
      (0 ∈ grp.eligibles ∧ 0 < grp.lanes.length ∧ tr.lanes.lookup 0 = some 0x20000) ∧ (1 ∈ grp.eligibles ∧ tr.lanes.lookup 1 = none) := by
  decide +kernel
theorem witness_illegal : let h : Head := { abc .i32 with guard := { inv := true, flag := 0 } }
    deviceParts (.iadd h) = some (0x10, 0, h) ∧ h.guard.wf = false ∧ (abc (.reserved 0)).ty.wf = false ∧ Acting (act grp) 0 grp ∧ NoneDue grp := by
  decide +kernel
theorem witness_priv : ∀ p ∈ ([({ sysShape 1 (hd .b32 0 z z z) with always := true, super := true }, hd .b32 0 z z z),
    (zgetShape (hd .b32 1 (sr 3) (v 1) z), hd .b32 1 (sr 3) (v 1) z), (zsetShape (hd .b32 1 (v 1) (sr 5) z), hd .b32 1 (v 1) (sr 5) z),
    ({ sysShape 5 (hd .b32 0 (sr 3) z z) with d := fScal, always := true, super := true }, hd .b32 0 (sr 3) z z),
    (tlbiShape (hd .b32 0 (sr 3) (sr 4) (.imm 7)), hd .b32 0 (sr 3) (sr 4) (.imm 7)),
    ({ major := 0xF4, minor := 1, tyOk := true, modsOk := true, d := fScal, super := true, access := true }, hd .b32 0 (sr 9) z z),
    (ownsetShape (hd .b32 0 (sr 3) (sr 0) (.imm 1)), hd .b32 0 (sr 3) (sr 0) (.imm 1))] : List (Shape × Head)),
    Acting (act grp) 0 grp ∧ NoneDue grp ∧ illegal p.1 grp p.2 = .ok ∧ grp.sup = false := by decide +kernel
/-- ownset in user mode with its count in a scalar: of 3, and of 0, which is illegal. -/
theorem witness_priv_count : ∀ p ∈ ([(hd .b32 0 (sr 3) (sr 4) (sr 5), false), (hd .b32 0 (sr 3) (sr 4) (sr 1), true)] : List (Head × Bool)),
    illegal (ownsetShape p.1) grp p.1 = .ok ∧ (ownsetShape p.1).judged ≠ [] ∧ waitsAtIssue (ownsetShape p.1) grp p.1 = false ∧
      judgedEarly (ownsetShape p.1) (earlyPends grp (act grp).clock (itemsRead (ownsetShape p.1) grp p.1)) = false ∧ grp.parts p.1.guard ≠ [] ∧
      countBad (readNum (readCtx (ownsetShape p.1) 0 grp p.1 (act grp) []).g p.1.b) = p.2 := by decide +kernel
/-- The guard's flag is early. -/
theorem witness_wait_guard : let h := onF1 (abc .i32)
    let e : Group := { grp with gctl := 1, pend := [{ due := 4, item := .flag 1, olds := [] }] }
    Acting (act e) 0 e ∧ NoneDue e ∧ illegal (satShape 0 h (tyInt h.ty)) e h = .ok ∧ busyHit (satShape 0 h (tyInt h.ty)) e h = false ∧
      guardEarly h (earlyPends e (act e).clock (itemsRead (satShape 0 h (tyInt h.ty)) e h ++ itemsWritten (satShape 0 h (tyInt h.ty)) e h)) = true ∧
      e.gctl.getLsbD 0 = true ∧ e.parts h.guard ≠ [] := by decide +kernel
/-- v1 is the destination of a load that is out; v2's result of an earlier instruction is due at clock 4, with GCTL.CHK set. -/
theorem witness_wait : let h := abc .i32
    let b : Group := { grp with busy := [{ item := .row 1, op := 5 }] }
    let e : Group := { grp with gctl := 1, pend := [{ due := 4, item := .row 2, olds := [] }] }
    (Acting (act b) 0 b ∧ NoneDue b ∧ illegal (satShape 0 h (tyInt h.ty)) b h = .ok ∧ busyHit (satShape 0 h (tyInt h.ty)) b h = true) ∧
    (Acting (act e) 0 e ∧ illegal (satShape 0 h (tyInt h.ty)) e h = .ok ∧ busyHit (satShape 0 h (tyInt h.ty)) e h = false ∧
      earlyPends e (act e).clock (itemsRead (satShape 0 h (tyInt h.ty)) e h ++ itemsWritten (satShape 0 h (tyInt h.ty)) e h) ≠ [] ∧
      e.gctl.getLsbD 0 = true ∧ e.parts h.guard ≠ []) := by decide +kernel
/-- An index past its window, and a poisoned source: outside a restart region, in one that has restarts left, and in one that has none; and a
region that awaits a result. -/
theorem witness_operand_traps :
    (let h := hd .i32 0 (v 1) (.ind 0 false 40 0) (v 3)
     let g : Group := { grp with ix := [(0, { base := 0, bound := 4, step := 0 })] }
     Ready (satShape 0 h true) (act g) 0 g h ∧ indexFails (satShape 0 h true) g h (g.parts h.guard) ≠ []) ∧
    (let h := abc .i32
     let bad : Group := { grp with lanes := lane0 :: List.replicate 31 { lane0 with poison := [2] } }
     ∀ e ∈ ([(false, 0, []), (true, 0, []), (true, 0, [{ item := .row 60, op := 5 }]), (true, 255, [])] : List (Bool × Nat × List Busy)),
       let g : Group := { bad with ractive := e.1, rentry := 0x10000, rcnt := BitVec.ofNat _ e.2.1, busy := e.2.2 }
       Ready (satShape 0 h true) (act g) 0 g h ∧ indexFails (satShape 0 h true) g h (g.parts h.guard) = [] ∧
         poisonFails (satShape 0 h true) g h (g.parts h.guard) ≠ [] ∧ (e.2.1 = 0 → g.rcnt.toNat < g.rrlim.toNat) ∧
         (e.2.1 ≠ 0 → g.rrlim.toNat ≤ g.rcnt.toNat)) := by
  refine ⟨?_, ?_⟩ <;> decide +kernel
theorem witness_words : Clear (satShape 0 (abc .n32) true) (act grp) 0 grp (abc .n32) ∧ Clear (intShape 0x10 6 (abc .i32) true) (act grp) 0 grp (abc .i32) ∧
    Clear (logShape 8 (abc .n32)) (act grp) 0 grp (abc .n32) ∧ Clear (icmpShape (abc .n32)) (act grp) 0 grp (abc .n32) ∧ 0 < (1#11).toNat := by decide +kernel
theorem witness_frames : ((.iadd : Head → Instr) ∈ registerForms ∧ (act grp).cur = .group 0 ∧ ∃ t, exec (.iadd (abc .i32)) (act grp) = .next t) ∧
    Clear (satShape 0 (abc .i32) (tyInt .i32)) (act grp) 0 grp (abc .i32) ∧ Clear (logShape 0 (abc .b32)) (act grp) 0 grp (abc .b32) ∧
    (abc .i32).d = .row 1 0 0 ∧ (abc .i32).a = .row 2 0 0 ∧ (abc .i32).b = .row 3 0 0 ∧ Clear (icmpShape (abc .i32)) (act grp) 0 grp (abc .i32) :=
  ⟨⟨.head _, rfl, next_of (by decide +kernel)⟩, by decide +kernel, by decide +kernel, rfl, rfl, rfl, by decide +kernel⟩
/-- A queued byte store, and what stands around it as it goes to its home. -/
def store0 (loc : Loc) (full : Bool := false) : QStore :=
  { lanes := [0], loc := loc, bytes := [7], colour := 0, slot := 0, va := 0x10000, age := 0, full := full, rem := none, rid := none, rel := false }
def storing (q : QStore) : State := { act { grp with stores := [q] } with mem := coded.mem, sched := [.drain 0 0] }
/-- `Draining` of those. -/
theorem storing_drains (q : QStore) (h1 : q.rid = none) (h2 : (storing q).nextTurn.2.storeHeld 0 { grp with stores := [q] } true 0 q = false) :
    Draining (storing q) (storing q).nextTurn.2 0 0 { grp with stores := [q] } q := ⟨rfl, rfl, rfl, rfl, h1, h2⟩
/-- Over the only link there is, a packet goes out. -/
theorem goes_out {s : State} {pk : Packet} {k : OutKind} (hr : s.routes pk.dst = [0]) (hf : s.freeRid.isSome = true) :
    (s.request pk k none).isSome = true := by
  obtain ⟨r, h⟩ := some_of hf
  unfold State.request State.pickLink State.requestOn
  simp [hr, Nat.mod_one, h]
/-- To memory of the devices: a byte, a whole sector, an address without storage; to a register; to the scratchpad, with an object there; and to
another package, which no link reaches and which one does. -/
theorem witness_drain :
    (∀ full ∈ [false, true], let q := store0 (.glob 0x10000) full
     let s0 := (storing q).nextTurn.2
     Draining (storing q) s0 0 0 { grp with stores := [q] } q ∧ HomeTakes s0 0 { grp with stores := [q] } q 0x10000 ∧ isDevReg 0x10000 = false ∧
       s0.hasStorage 0x10000 = true ∧ sectorOf 0x10000 * 256 = 0x10000 ∧ q.full = full ∧ 0x10000 % 256 + q.bytes.length ≤ 256 ∧
       s0.needsTransfer true 0x10000 = false ∧ RoomInL2 s0 (sectorOf 0x10000) ∧
       klookup s0.mem.l2 (sectorOf 0x10000) = some { dirty := false, slot := 0 }) ∧
    (let q := store0 (.glob (7 * 2 ^ 48))
     let s0 := (storing q).nextTurn.2
     Draining (storing q) s0 0 0 { grp with stores := [q] } q ∧ HomeTakes s0 0 { grp with stores := [q] } q (7 * 2 ^ 48) ∧
       isDevReg (7 * 2 ^ 48) = false ∧ s0.hasStorage (7 * 2 ^ 48) = false ∧ s0.needsTransfer true (7 * 2 ^ 48) = false) ∧
    (let q := store0 (.glob (6 * 2 ^ 48))
     Draining (storing q) (storing q).nextTurn.2 0 0 { grp with stores := [q] } q ∧
       HomeTakes (storing q).nextTurn.2 0 { grp with stores := [q] } q (6 * 2 ^ 48) ∧ isDevReg (6 * 2 ^ 48) = true) ∧
    (let q := store0 (.scr 0)
     let s : State := { storing q with teams := [(0, { team0 with objs := [0, 4] })] }
     s.nextTurn = (.drain 0 0, s.nextTurn.2) ∧ s.nextTurn.2.stopped = false ∧ s.nextTurn.2.storeHeld 0 { grp with stores := [q] } true 0 q = false ∧
       klookup s.nextTurn.2.teams 0 = some { team0 with objs := [0, 4] }) ∧
    (let q := store0 (.glob (2 ^ 51))
     Draining (storing q) (storing q).nextTurn.2 0 0 { grp with stores := [q] } q ∧ isDomain (2 ^ 51) = true ∧
       (storing q).nextTurn.2.routes (domainPkg (2 ^ 51)) = [] ∧
       (let s : State := { storing q with net := { links := [(0, { state := 2 })] } }
        s.nextTurn.2.routes (domainPkg (2 ^ 51)) ≠ [] ∧ s.nextTurn.2.storeHeld 0 { grp with stores := [q] } true 0 q = false ∧
          ((s.nextTurn.2.actAs .idle).request (storePacket q (2 ^ 51)) (.store 0) none).isSome = true)) := by
  refine ⟨?_, ?_, ?_, ?_, ?_, ?_, ?_, ?_, ?_, goes_out ?_ ?_⟩ <;> decide +kernel
theorem witness_pieces : let lk := (act grp).laneLook grp 1 { use := .write, scope := 5, packed := true, noDev := false, cvt := false } none 0 0x10010 16
    lk.chunks ≠ [] ∧ ∀ p ∈ lk.pieces, p.2 ∣ 256 ∧ p.1 % p.2 = 0 := by decide +kernel
theorem witness_encoding : (deviceParts (.iadd (abc .i32))).isSome = true ∧ Sys2Proof.pairOk (.iadd (abc .i32)) = true ∧
    encode (.iadd (abc .i32)) = some [3, 0, 64, 0, 0, 4, 0, 0, 160, 0, 0, 16] ∧ hostBits (.xtbeg 10 11) = some 0x0005850B ∧
    deviceOf 0x10 10 = none := by decide +kernel
theorem witness_canonical : MemoryCanonical (act grp) ∧ MemoryCanonical coded ∧ ∃ t, step coded = .next t :=
  ⟨show Memory.wf _ = true by decide, show Memory.wf _ = true by decide +kernel, next_of (by decide +kernel)⟩

/-! ## Effects: worked examples of the manual, and small cases worked by hand from a rule -/

/-- Group 0 after an instruction that completes. -/
def after (o : Host.Outcome State Fault Refusal) : Group :=
  match o with
  | .next s => (klookup s.groups 0).getD grp
  | _ => grp
/-- A group whose lanes all hold these rows. -/
def rowsOf (rows : KMap W32) : Group := { grp with lanes := List.replicate 32 { rows := rows } }

/-- 06_pipes.md, R188: a sum wraps; the difference of 0 and 1 too. -/
theorem test_add_wraps : let g := rowsOf [(2, 0xFFFFFFFF), (3, 2)]
    ((after (exec (.iadd (abc .i32)) (act g))).lane 7).row 1 = 1 ∧
    ((after (exec (.isub (hd .i32 0 (v 1) (v 0) (v 3))) (act g))).lane 7).row 1 = 0xFFFFFFFE := by decide +kernel
/-- R188: imulh of −1 and 2 is −1 (signed), 1 (unsigned). -/
theorem test_mulh : let g := rowsOf [(2, 0xFFFFFFFF), (3, 2)]
    ((after (exec (.imulh (abc .i32)) (act g))).lane 0).row 1 = 0xFFFFFFFF ∧
    ((after (exec (.imulh (abc .n32)) (act g))).lane 0).row 1 = 1 := by decide +kernel
/-- R194: a shift by 32 leaves zero, an arithmetic one the sign. -/
theorem test_shifts : let g := rowsOf [(2, 0x80000001), (3, 32)]
    ((after (exec (.shl (abc .b32)) (act g))).lane 0).row 1 = 0 ∧ ((after (exec (.sar (abc .b32)) (act g))).lane 0).row 1 = 0xFFFFFFFF := by
  decide +kernel
/-- 04_rows.md: `movw.n64 s5, <5, 512, 0, 0>` writes 0x100_0000_0005. -/
theorem test_movw : (after (exec (.movw (Head.block (hd .n64 0 (sr 5) z z) (.lit 5) (.lit 512) lit0 lit0)) (act grp))).getS 5 = 0x10000000005 := by
  decide +kernel
/-- 04_rows.md, A worked window: two issues of iadd through ix3, of which the second traps with nothing written. -/
def window : Group :=
  { grp with width := 16, nrows := 96, ix := [(3, { base := 64, bound := 16, step := 4 })]
             lanes := (List.range 16).map fun l => { live := decide (l < 4), offs := if l = 0 then [] else [(3, BitVec.ofNat 12 (4 * l))]
                                                     rows := (List.range 16).filterMap fun k => if 100 * l + k = 0 then none else some (64 + k, BitVec.ofNat 32 (100 * l + k)) } }
def windowAdd : Head := hd .i32 0 (.ind 3 false 1 0) (.ind 3 true 0 0) (.ind 3 false 2 0)
def windowOnce : State := match exec (.iadd windowAdd) (act window) with | .next s => { s with clock := 100 } | _ => act grp
theorem test_window_first : let g := (klookup windowOnce.groups 0).getD grp
    (g.lane 0).row 65 = 2 ∧ (g.lane 1).row 69 = 210 ∧ (g.lane 2).row 73 = 418 ∧ (g.lane 3).row 77 = 626 ∧
    (g.lane 0).off 3 = 4 ∧ (g.lane 1).off 3 = 8 ∧ (g.lane 2).off 3 = 12 ∧ (g.lane 3).off 3 = 16 := by decide +kernel
theorem test_window_second : let g := after (exec (.iadd windowAdd) windowOnce)
    g.sup = true ∧ (g.lane 3).tcause.toNat = cIndex ∧ (g.lane 3).tval = 0x130050 ∧ (g.lane 3).off 3 = 16 ∧ (g.lane 0).parked = true ∧
      (g.lane 0).off 3 = 4 ∧ (g.lane 1).row 73 = 109 := by decide +kernel
/-- 05_numbers.md: pecks under scale 0x5E: 0.375, −0.75, −0; NaN under 0x7F. -/
theorem test_pecks : let e := fenv 0
    peckTo fmtF32 e 0x5E 0b0011 = 0x3EC00000 ∧ peckTo fmtF32 e 0x5E 0b1101 = 0xBF400000 ∧ peckTo fmtF32 e 0x5E 0b1000 = 0x80000000 ∧
      peckTo fmtF32 e 0x7F 0b0011 = 0x7FC00000 := by decide +kernel
/-- 06_pipes.md, A worked peck: qscale, qpack and qunpack of lane 0. -/
def pecks : Group := rowsOf [(8, 0x3E99999A), (9, 0xBF8CCCCD), (10, 0x40000000), (11, 0x40A00000), (12, 0x40E00000), (13, 0x3E000000), (14, 0xBEC00000),
  (15, 0x3FC00000), (20, 0x61), (21, 0x28064290)]
theorem test_qscale : ((after (exec (.qscale (hd .q4 4 (v 20) (v 8) z)) (act { pecks with lanes := pecks.lanes.map fun x => x.setRow 20 0x99999900 }))).lane 0).row 20 =
    0x99999961 := by decide +kernel
theorem test_qpack : ((after (exec (.qpack (hd .q4 0 (v 21) (v 8) (v 20))) (act pecks))).lane 0).row 21 = 0x28064290 := by decide +kernel
theorem test_qunpack : let ln := (after (exec (.qunpack (hd .f32 0 (v 24) (v 21) (v 20))) (act pecks))).lane 0
    (List.range 8).map (fun k => ln.row (24 + k)) = [0, 0xBF800000, 0x40000000, 0x40800000, 0x41000000, 0, 0x80000000, 0x40000000] := by decide +kernel
/-- 05_numbers.md R176: gred.f32.add of 2^24, 1, 1, −2^24 in a width-16 group. -/
theorem test_gred : let g : Group := { grp with width := 16, lanes := ([0x4B800000, 0x3F800000, 0x3F800000, 0xCB800000] : List W32).map (fun w => { rows := [(1, w)] }) ++ List.replicate 12 { live := false } }
    (after (exec (.gred (hd .f32 0 (sr 3) (v 1) z)) (act g))).getS 3 = 0x3F800000 := by decide +kernel
/-- 17_programs_rows.md: block 23 of run 2 lies at offset 0x4400 × 23 of Q1 and is served by slice 30; in run 1, block 33 at 0x1000 × 33 by slice 28. -/
theorem test_slice : sliceOf (2 ^ 48 + 0x4400 * 23) = 30 ∧ sliceOf (2 ^ 48 + 0x1000 * 33) = 16 + 12 := by decide
/-- FIPS 197, 5.1.1 and appendix B: the substitution of 0x53, and the columns of the first round mixed. -/
theorem test_aes : aesSub 0x53 = 0xED ∧ aesUnsub 0xED = 0x53 ∧
    aesMix [2, 3, 1, 1] [0xD4, 0xBF, 0x5D, 0x30, 0xE0, 0xB4, 0x52, 0xAE, 0xB8, 0x41, 0x11, 0xF1, 0x1E, 0x27, 0x98, 0xE5] =
      [0x04, 0x66, 0x81, 0xE5, 0xE0, 0xCB, 0x19, 0x9A, 0x48, 0xF8, 0xD3, 0x7A, 0x28, 0x06, 0x26, 0x4C] := by decide +kernel
/-- 11_tun.md R353, A worked probe sequence: the home slots of keys (0, 0), (8, 0), (16, 0), (3, 0x1_0000), (15, 0) and (7, 0) in 8 slots, two probes each. -/
theorem test_probes : [(0, 0), (8, 0), (1, 0), (16, 0), (3, 0x10000), (15, 0), (7, 0)].map (fun (k : Nat × Nat) =>
      ({ part0 1 false with probe := 2 } : Partition).places (BitVec.ofNat 64 (k.1 * 2 ^ 32 + k.2)) |>.take 2) =
    [[(0, 0), (1, 1)], [(0, 0), (1, 1)], [(1, 0), (2, 1)], [(0, 0), (1, 1)], [(3, 0), (4, 1)], [(7, 0), (0, 1)], [(7, 0), (0, 1)]] := by decide +kernel

end Sys2Proof.Tests
end

section
/-!
SUPPORT. The state after cold reset (01_package.md R22). A table with nothing listed answers the reset value of its kind, and key slot 0
is the only entry that reset lists.
-/

namespace Sys2Proof.Machine

@[simp] theorem State.reset_regionEntry (pa : Nat) : State.reset.regionEntry pa = {} := kget_nil _ _

@[simp] theorem State.reset_die (d : Nat) : State.reset.die d = {} := kget_nil _ d

@[simp] theorem State.reset_link (k : Nat) : State.reset.link k = {} := kget_nil _ k

@[simp] theorem State.reset_slot_zero : State.reset.slot 0 = { kind := 1, shared := true } := rfl

/-- Reset puts slot 0 alone into a table in which nothing is listed. -/
theorem State.reset_slot_of_ne {k : Nat} (h : k ≠ 0) : State.reset.slot k = {} :=
  calc State.reset.slot k
    _ = kget {} (kput [] 0 { kind := 1, shared := true }) k := rfl
    _ = kget {} [] k := by rw [kget_kput, if_neg h]
    _ = {} := kget_nil _ k

/-- Settles O58: the regions, the dies and the links read their kind's reset value in an empty table, the key slots split on slot 0, and
what remains is a field that `State.reset` holds itself. -/
theorem resetValues : Obligations.ResetValues := by
  have hregion (pa : Nat) : (State.reset.regionEntry pa).owner = 1 ∧ (State.reset.regionEntry pa).ver = 0 := by simp
  have hslot (k : Nat) (hk : k ≠ 0) : (State.reset.slot k).kind = 0 := by rw [State.reset_slot_of_ne hk]
  refine ⟨rfl, rfl, rfl, rfl, rfl, rfl, rfl, hregion, ?_, ?_, hslot, fun d => ?_, fun k => ?_, rfl, rfl, rfl, rfl, rfl, rfl, rfl, rfl⟩
  case refine_1 | refine_2 => rw [State.reset_slot_zero]
  case refine_3 => simp only [State.reset_die, and_self]
  case refine_4 => simp only [State.reset_link, and_self]

end Sys2Proof.Machine
end

section
/-!
SUPPORT. The opcode map (02_code.md R57, R58, R61): what it lists, and what an instruction that an encoding rule forbids does at issue.
-/

namespace Sys2Proof

open Machine

/-- The opcode map by rows: a major code, and the first and last minor code it lists there (R57, R61). -/
def opcodeRows : List (Nat × Nat × Nat) :=
  [(0x00, 1, 6), (0x01, 0, 6), (0x10, 0, 9), (0x11, 0, 8), (0x12, 0, 6), (0x30, 0, 8), (0x31, 0, 7), (0x50, 0, 1), (0x51, 0, 2),
   (0x52, 0, 2), (0x60, 0, 2), (0x61, 0, 1), (0x62, 0, 3), (0x63, 0, 7), (0x64, 0, 1), (0x70, 0, 4), (0x71, 0, 1), (0x72, 0, 1),
   (0x80, 0, 4), (0x88, 0, 3), (0x90, 0, 3), (0x98, 0, 2), (0xA0, 0, 7), (0xB0, 0, 5), (0xB1, 0, 1), (0xF0, 0, 5), (0xF1, 0, 1),
   (0xF4, 0, 2), (0xF8, 0, 1)]

/-- The map lists nothing at a major code without a row. -/
theorem deviceOf_of_major_unlisted {major : Nat} (h : ∀ r ∈ opcodeRows, major ≠ r.1) (minor : Nat) : deviceOf major minor = none := by
  simp only [opcodeRows, List.forall_mem_cons] at h
  -- A match at a variable unfolds only without `smartUnfolding`: it tests the major code, against 0 first, and no test succeeds.
  set_option smartUnfolding false in change dite (major = 0) _ _ = none
  simp only [h, ↓reduceDIte]

/-- No row reaches a minor code of ten or more. -/
theorem deviceOf_row_add_ten {r : Nat × Nat × Nat} (hr : r ∈ opcodeRows) (n : Nat) : deviceOf r.1 (n + 10) = none := by
  fin_cases hr <;> rfl

theorem opcodeRows_last_lt_ten : ∀ r ∈ opcodeRows, r.2.2 < 10 := by decide

/-- The minor codes below ten, row by row. -/
theorem deviceOf_row_below_ten :
    ∀ r ∈ opcodeRows, ∀ minor < 10, (deviceOf r.1 minor).isSome = true ↔ r.2.1 ≤ minor ∧ minor ≤ r.2.2 := by decide

/-- At the major code of a row the map assigns exactly the row's range. -/
theorem deviceOf_row_isSome_iff {r : Nat × Nat × Nat} (hr : r ∈ opcodeRows) (minor : Nat) :
    (deviceOf r.1 minor).isSome = true ↔ r.2.1 ≤ minor ∧ minor ≤ r.2.2 := by
  rcases Nat.lt_or_ge minor 10 with hlt | hge
  · exact deviceOf_row_below_ten r hr minor hlt
  · obtain ⟨n, rfl⟩ := Nat.exists_eq_add_of_le' hge
    have hlast := opcodeRows_last_lt_ten r hr
    rw [deviceOf_row_add_ten hr, Option.isSome_none]
    constructor
    · exact nofun
    · omega

/-- The map assigns exactly the pairs of its rows (R57). -/
theorem deviceOf_isSome_iff (major minor : Nat) : (deviceOf major minor).isSome = true ↔
    ∃ r ∈ opcodeRows, major = r.1 ∧ r.2.1 ≤ minor ∧ minor ≤ r.2.2 := by
  constructor
  · intro hsome
    by_cases hmajor : ∃ r ∈ opcodeRows, major = r.1
    · obtain ⟨r, hr, rfl⟩ := hmajor
      exact ⟨r, hr, rfl, (deviceOf_row_isSome_iff hr minor).1 hsome⟩
    · rw [deviceOf_of_major_unlisted (fun r hr he => hmajor ⟨r, hr, he⟩)] at hsome
      cases hsome
  · rintro ⟨r, hr, rfl, hrange⟩
    exact (deviceOf_row_isSome_iff hr minor).2 hrange

/-- A word with an unassigned pair decodes to the instruction of that pair. -/
theorem decodeDevice_of_none {w : BitVec 96} (ps : Option Params)
    (h : deviceOf (w.extractLsb' 88 8).toNat (w.extractLsb' 84 4).toNat = none) :
    decodeDevice w ps = .unassignedOpcode (w.extractLsb' 88 8) (w.extractLsb' 84 4) (Head.ofBits w ps) := by
  rw [decodeDevice, h]

/-- Where no trap of another instruction is due, no pending cause is consumed (R457). -/
theorem dropPending_of_noneDue {g : Group} (hd : NoneDue g) (s : State) (gid : Nat) : dropPending s gid g = s := by
  obtain ⟨hdmr, hrf, hlate, -⟩ := hd
  rcases hrf with hrf | hrf <;> simp [dropPending, hdmr, hrf, hlate]

/-- Where no trap of another instruction is due, a broken encoding rule comes first (R58, R60). -/
theorem effectOf_bad {sh : Shape} {g : Group} {h : Head} {tv : Option W64} (hd : NoneDue g) (hill : illegal sh g h = .bad tv)
    (gid : Nat) (s : State) (body : Ctx → State → Effect) :
    effectOf sh gid g h s body = (plainCtx sh gid g h s.clock, .trap cIllegal (sameVal g.wordLanes (tv.getD g.pc))) := by
  obtain ⟨hdmr, hrf, hlate, hpoison⟩ := hd
  rcases hrf with hrf | hrf <;> simp [effectOf, hdmr, hrf, hlate, hpoison, hill, sameVal]

/-- An instruction that breaks an encoding rule raises ILLEGAL_OP in the lanes of its word (R58). -/
theorem issue_bad {sh : Group → Shape} {h : Head} {body : Ctx → State → Effect} {s : State} {gid : Nat} {g : Group} {tv : Option W64}
    (ha : Acting s gid g) (hd : NoneDue g) (hill : illegal (sh g) g h = .bad tv) :
    issue sh h body s = .next (trapAt s gid g cIllegal (sameVal g.wordLanes (tv.getD g.pc))) := by
  obtain ⟨hcur, hg⟩ := ha
  simp only [issue, hcur, hg, effectOf_bad hd hill, dropPending_of_noneDue hd, settle, plainCtx_gid]

/-- A type that the instruction does not take breaks R58, without a value of its own as TVAL, whatever the fields hold. -/
theorem illegal_of_not_tyOk {sh : Shape} (hty : sh.tyOk = false) (g : Group) (h : Head) : illegal sh g h = .bad none := by
  unfold illegal
  cases !(h.guard.inv && h.guard.flag == 0) && !(sh.always && h.guard.flag != 0) with
  | false => rfl
  | true => rw [hty]; rfl

/-- What an unassigned pair means. -/
theorem exec_unassignedOpcode_eq (major : BitVec 8) (minor : BitVec 4) (h : Head) (s : State) :
    exec (.unassignedOpcode major minor h) s = execUnassignedOpcode major minor h s := rfl

/-- An unassigned pair takes no type, so it raises ILLEGAL_OP with its own address as TVAL (R57). -/
theorem exec_unassignedOpcode (major : BitVec 8) (minor : BitVec 4) (h : Head) {s : State} {gid : Nat} {g : Group}
    (ha : Acting s gid g) (hd : NoneDue g) :
    exec (.unassignedOpcode major minor h) s = .next (trapAt s gid g cIllegal (sameVal g.wordLanes g.pc)) := by
  rw [exec_unassignedOpcode_eq, execUnassignedOpcode, issue_bad ha hd (illegal_of_not_tyOk rfl g h), Option.getD_none]

/-- Settles O56: the map is its rows, an unlisted pair decodes to `unassignedOpcode`, and that instruction breaks an encoding rule. -/
theorem unassignedOpcodes : Obligations.UnassignedOpcodes :=
  ⟨fun major minor => deviceOf_isSome_iff major.toNat minor.toNat, fun _ ps => decodeDevice_of_none ps,
    fun major minor h _ _ _ => exec_unassignedOpcode major minor h⟩

end Sys2Proof
end

section
/-!
SUPPORT. Traps (15_traps.md R458, R460, R461): the register part of sret lane by lane, what a reported trap, a team fault and a double trap
each change and leave as it was, and the two statements about them.
-/

namespace Sys2Proof

open Machine

/-! ### The return from a trap -/

/-- sret in one lane (R458): a live lane takes its saved counter and generator back and is unparked. -/
def returnLane (ln : Lane) : Lane :=
  if ln.live then { ln with cnt := ln.tnest, dup := ln.tnest, sr := ln.tsrst, parked := false } else ln

theorem leaveTrap_lanes (g : Group) : g.leaveTrap.lanes = g.lanes.map returnLane := rfl

/-- A lane outside the list reads as one that is not live, which sret leaves alone. -/
theorem lane_leaveTrap (g : Group) (l : Nat) : g.leaveTrap.lane l = returnLane (g.lane l) := by
  rw [Group.lane, leaveTrap_lanes]
  exact List.getD_map g.lanes { live := false } returnLane

@[simp] theorem length_leaveTrap_lanes (g : Group) : g.leaveTrap.lanes.length = g.lanes.length := List.length_map _

theorem returnTrap_of_misaligned {g : Group} (hpc : g.tpc.extractLsb' 0 2 ≠ 0) (s : State) (gid : Nat) :
    s.returnTrap gid g = s.doubleTrap gid g (s.asidOf g) := if_pos hpc

theorem returnTrap_of_aligned {g : Group} (hpc : g.tpc.extractLsb' 0 2 = 0) (s : State) (gid : Nat) :
    s.returnTrap gid g = s.setGroup gid g.leaveTrap := if_neg (not_not_intro hpc)

theorem modGroup_setGroup (s : State) (gid : Nat) (g : Group) (f : Group → Group) :
    (s.setGroup gid g).modGroup gid f = s.setGroup gid (f g) := by
  simp only [State.modGroup, State.setGroup, kmap_kput_self]

/-- sret with a participating lane returns from the trap, and the group issues again after its stall count (R53). -/
theorem exec_sret {h : Head} {s : State} {gid : Nat} {g : Group}
    (hc : Clear { sysShape 1 h with always := true, super := true } s gid g h) (hp : g.parts h.guard ≠ []) :
    exec (.sret h) s = .next ((s.returnTrap gid g).modGroup gid fun g1 => { g1 with readyAt := s.clock + max (stallCount h.stall) 1 }) :=
  issue_stop (sh := fun _ => _) hc (if_neg (mt List.isEmpty_iff.1 hp))

/-- Settles O46: sret is the return from a trap, which is a double trap at a misaligned TPC and else sret's register part, lane by lane. -/
theorem trapReturn : Obligations.TrapReturn := by
  intro h s gid g sh hc hp
  rw [exec_sret hc hp]
  constructor
  · intro hpc
    rw [returnTrap_of_misaligned hpc]
  · intro hpc
    rw [returnTrap_of_aligned hpc, modGroup_setGroup]
    exact ⟨_, rfl, rfl, length_leaveTrap_lanes g, fun l _ => lane_leaveTrap g l⟩

/-! ### The reports of a channel -/

/-- The reports that wait on a channel of a log (R476). -/
def pendingReports (s : State) (unit chan : Nat) : List Report := kget [] (kget {} s.logs unit).pend chan

theorem pendingReports_report_self (s : State) (unit chan asid src value : Nat) :
    pendingReports (s.report unit chan asid src value) unit chan =
      pendingReports s unit chan ++ [{ asid := asid, src := src, value := value }] := by
  simp [pendingReports, State.report, kget_kput]

/-- A report leaves the other channels of every log as they were. -/
theorem pendingReports_report_of_ne (s : State) {chan c : Nat} (hc : c ≠ chan) (unit asid src value u : Nat) :
    pendingReports (s.report unit chan asid src value) u c = pendingReports s u c := by
  by_cases hu : u = unit <;> simp [pendingReports, State.report, kget_kput, hu, hc]

/-! ### Team faults and double traps -/

@[simp] theorem teamFault_groups (s : State) (t : Nat) : (s.teamFault t).groups = s.groups := by
  unfold State.teamFault; split <;> rfl

/-- The faulted team is marked and halted (R461). -/
theorem klookup_teamFault_teams {s : State} {t : Nat} {tm : Team} (ht : klookup s.teams t = some tm) :
    klookup (s.teamFault t).teams t = some { tm with faulted := true, halted := true } := by
  simp [State.teamFault, ht]

/-- A team fault reports on channel 12 alone (R461). -/
theorem pendingReports_teamFault (s : State) {c : Nat} (hc : c ≠ 12) (t u : Nat) :
    pendingReports (s.teamFault t) u c = pendingReports s u c := by
  unfold State.teamFault
  split
  · rfl
  · exact pendingReports_report_of_ne _ hc ..

/-- The double trap of a service group stops it and raises interrupt source 41 (R460). -/
theorem doubleTrap_of_service {g : Group} (hs : g.service = true) (s : State) (gid asid : Nat) : s.doubleTrap gid g asid =
    let s1 := s.report (dieOf g.core) 13 asid g.core (g.pc.toNat % 2 ^ 52)
    { s1.modGroup gid (fun g => { g with wait := .stopped }) with pool := { s1.pool with irq41 := true } } := if_pos hs

/-- The double trap of a team's group faults the team (R460). -/
theorem doubleTrap_of_team {g : Group} (hs : g.service = false) (s : State) (gid asid : Nat) : s.doubleTrap gid g asid =
    (s.report (dieOf g.core) 13 asid g.core (g.pc.toNat % 2 ^ 52)).teamFault g.team := if_neg (by simp [hs])

/-- A double trap enters channel 13 in the die's log, whichever kind of group takes it (R460). -/
theorem pendingReports_doubleTrap (s : State) (gid : Nat) (g : Group) (asid : Nat) :
    pendingReports (s.doubleTrap gid g asid) (dieOf g.core) 13 =
      pendingReports s (dieOf g.core) 13 ++ [{ asid := asid, src := g.core, value := g.pc.toNat % 2 ^ 52 }] := by
  cases hs : g.service with
  | true =>
    rw [doubleTrap_of_service hs]
    exact pendingReports_report_self ..
  | false => rw [doubleTrap_of_team hs, pendingReports_teamFault _ (by decide), pendingReports_report_self]

/-! ### The state a trap is taken from -/

/-- A trap dooms transactions and leaves the rest of each lane (R329). -/
theorem lane_doomTrapped (tr : Trap) (g : Group) (l : Nat) :
    (doomTrapped tr g).lane l = { g.lane l with tx := ((doomTrapped tr g).lane l).tx } := by
  simp only [doomTrapped, Group.lane, List.getD, List.getElem?_mapIdx]
  cases g.lanes[l]? with
  | none => rfl
  | some ln =>
    simp only [Option.map_some, Option.getD_some]
    split <;> rfl

theorem notePriv_eq (s : State) (asid : Nat) : s.notePriv asid = { s with xa := (s.notePriv asid).xa } := by
  simp only [State.notePriv]; split <;> rfl

/-- Before a trap is taken only the acting group and what Xaush holds have changed (R329, R492). -/
theorem trapFrom_eq (s : State) (gid : Nat) (g : Group) (tr : Trap) :
    trapFrom s gid g tr = { s.setGroup gid (doomTrapped tr g) with xa := (trapFrom s gid g tr).xa } := by
  simp only [trapFrom]
  split
  · exact notePriv_eq ..
  · rfl

section
variable (s : State) (gid : Nat) (g : Group) (tr : Trap)

@[simp] theorem trapFrom_groups : (trapFrom s gid g tr).groups = kput s.groups gid (doomTrapped tr g) := by rw [trapFrom_eq]; rfl
@[simp] theorem trapFrom_teams : (trapFrom s gid g tr).teams = s.teams := by rw [trapFrom_eq]; rfl
@[simp] theorem trapFrom_logs : (trapFrom s gid g tr).logs = s.logs := by rw [trapFrom_eq]; rfl

end

/-- Every trap of a group in supervisor mode is a double trap (R460). -/
theorem takeTrap_of_sup {s : State} {gid : Nat} {g : Group} (hg : klookup s.groups gid = some g) (hs : g.sup = true) (tr : Trap) :
    s.takeTrap gid tr = (trapFrom s gid g tr).doubleTrap gid (doomTrapped tr g) (s.asidOf g) := by
  simp only [State.takeTrap, hg]
  exact if_pos hs

/-- The supervisor registers of a double trap are those of the first trap (R460). -/
theorem doomTrapped_keeps (tr : Trap) (g : Group) : let g0 := doomTrapped tr g
    g0.tpc = g.tpc ∧ g0.tmask = g.tmask ∧ g0.pc = g.pc ∧
      ∀ l, (g0.lane l).tnest = (g.lane l).tnest ∧ (g0.lane l).tcause = (g.lane l).tcause ∧ (g0.lane l).tval = (g.lane l).tval :=
  ⟨rfl, rfl, rfl, fun l => by rw [lane_doomTrapped]; exact ⟨rfl, rfl, rfl⟩⟩

/-- Settles O47: a trap in supervisor mode is a double trap, which reports on channel 13 and then stops the service group or faults the team. -/
theorem doubleTrap : Obligations.DoubleTrap := by
  intro s gid g tr hg hsup g0 t
  have ht : t = (trapFrom s gid g tr).doubleTrap gid g0 (s.asidOf g) := takeTrap_of_sup hg hsup tr
  have hpend : pendingReports (trapFrom s gid g tr) (dieOf g.core) 13 = pendingReports s (dieOf g.core) 13 := by
    rw [pendingReports, trapFrom_logs, pendingReports]
  have hlog : pendingReports t (dieOf g.core) 13 = pendingReports s (dieOf g.core) 13 ++
      [{ asid := s.asidOf g, src := g.core, value := g.pc.toNat % 2 ^ 52 }] := by
    rw [ht, ← hpend]
    exact pendingReports_doubleTrap ..
  refine ⟨doomTrapped_keeps tr g, ⟨_, rfl, rfl, hlog⟩, fun hs => ?_, fun hs => ?_⟩
  · rw [ht, doubleTrap_of_service (g := g0) hs]
    exact ⟨by simp [g0], rfl, trapFrom_teams ..⟩
  · rw [ht, doubleTrap_of_team (g := g0) hs]
    exact ⟨by simp [g0], fun tm htm => klookup_teamFault_teams (by rw [State.report_teams, trapFrom_teams]; exact htm)⟩

end Sys2Proof
end

section
/-!
SUPPORT. Encodings (02_code.md R27 to R29, R39, R51, R61; 10_transactions.md R346): every field, word and byte list that is read back is the one that
was written, and the statement about them.
-/

namespace Sys2Proof

open BitVec

/-! ### Bits and fields of a word -/

theorem ofBool_getLsbD {n : Nat} (x : BitVec n) (i : Nat) : ofBool (x.getLsbD i) = x.extractLsb' i 1 :=
  eq_of_getLsbD_eq fun j hj => by simp [Nat.lt_one_iff.1 hj]

theorem ofBool_beq_one (b : Bool) : (ofBool b == 1#1) = b := by cases b <;> rfl

/-- A bit of a word is its field of length 1. -/
theorem getLsbD_eq_extract {n : Nat} (x : BitVec n) (i : Nat) : x.getLsbD i = (x.extractLsb' i 1 == 1#1) := by
  rw [← ofBool_getLsbD, ofBool_beq_one]

/-- Two fields that lie side by side are one. -/
theorem append_extract {w : Nat} (x : BitVec w) (j m i n : Nat) (h : j = i + n) :
    x.extractLsb' j m ++ x.extractLsb' i n = x.extractLsb' i (m + n) :=
  extractLsb'_append_extractLsb'_eq_extractLsb' h

@[simp] theorem Ty.ofCode_code (t : Ty) : Ty.ofCode t.code = t := by
  cases t with
  | reserved k => revert k; decide
  | _ => rfl

@[simp] theorem Ty.code_ofCode (c : BitVec 5) : (Ty.ofCode c).code = c := by revert c; decide

/-! ### Operands and parameter words -/

theorem kind_cases : ∀ k : BitVec 2, k = 0#2 ∨ k = 1#2 ∨ k = 2#2 ∨ k = 3#2 := by decide

/-- An operand field, kind by kind (R39). -/
theorem Operand.ofBits_of_kind {f : BitVec 21} {k : BitVec 2} (hk : f.extractLsb' 19 2 = k) : Operand.ofBits f =
    if k = 0#2 then .row (f.extractLsb' 0 11) (f.extractLsb' 11 2) (f.extractLsb' 13 6)
    else if k = 1#2 then .ind (f.extractLsb' 0 4) (f.getLsbD 4) (f.extractLsb' 5 12) (f.extractLsb' 17 2)
    else if k = 2#2 then .scal (f.extractLsb' 0 6) (f.extractLsb' 6 13) else .imm (f.extractLsb' 0 19) := by
  rw [Operand.ofBits, hk]
  obtain rfl | rfl | rfl | rfl := kind_cases k <;> rfl

/-- The kind that the bits of an operand carry (R39). -/
def Operand.kind : Operand → BitVec 2
  | .row .. => 0#2
  | .ind .. => 1#2
  | .scal .. => 2#2
  | .imm .. => 3#2

theorem Operand.kind_bits (o : Operand) : o.bits.extractLsb' 19 2 = o.kind := by
  cases o <;> simp (disch := decide) only [bits, kind, extractLsb'_append_eq_of_le, extractLsb'_eq_self, Nat.reduceSub]

@[simp] theorem Operand.ofBits_bits (o : Operand) : Operand.ofBits o.bits = o := by
  rw [ofBits_of_kind o.kind_bits]
  cases o <;>
    simp (disch := decide) only [kind, if_pos, if_neg, bits, getLsbD_eq_extract, extractLsb'_append_eq_of_le, extractLsb'_append_eq_of_add_le,
      extractLsb'_eq_self, Nat.reduceSub, ofBool_beq_one]

@[simp] theorem Operand.bits_ofBits (f : BitVec 21) : (Operand.ofBits f).bits = f := by
  obtain ⟨k, hk⟩ : ∃ k, f.extractLsb' 19 2 = k := ⟨_, rfl⟩
  rw [ofBits_of_kind hk]
  obtain rfl | rfl | rfl | rfl := kind_cases k <;> simp (disch := decide) only [if_neg, if_pos] <;>
    simp (disch := decide) only [bits, ← hk, ofBool_getLsbD, append_extract] <;> exact extractLsb'_eq_self

@[simp] theorem PWord.ofBits_bits (p : PWord) : PWord.ofBits p.bits = p := by
  cases p <;>
    simp (disch := decide) only [ofBits, bits, getLsbD_eq_extract, extractLsb'_append_eq_of_le, extractLsb'_append_eq_of_add_le,
      extractLsb'_eq_self, Nat.reduceSub] <;> rfl

@[simp] theorem PWord.bits_ofBits (w : W32) : (PWord.ofBits w).bits = w := by
  have hsplit : (ofBool (w.getLsbD 31) ++ w.extractLsb' 0 31 : BitVec 32) = w := by
    simp (disch := decide) only [ofBool_getLsbD, append_extract]
    exact extractLsb'_eq_self
  unfold ofBits
  split
  case isTrue h =>
    rw [h] at hsplit
    simp (disch := decide) only [bits, BitVec.append_assoc, append_extract]
    exact hsplit
  case isFalse h =>
    rw [Bool.eq_false_iff.2 h] at hsplit
    exact hsplit

/-! ### Words -/

/-- The fields of a word are read back, and its opcode (R27). -/
theorem Head.ofBits_bits (major : BitVec 8) (minor : BitVec 4) (h : Head) : Head.ofBits (h.bits major minor) h.params = h := by
  simp (disch := decide) only [ofBits, bits, getLsbD_eq_extract, extractLsb'_append_eq_of_le, extractLsb'_append_eq_of_add_le,
    extractLsb'_eq_self, Nat.reduceSub, ofBool_beq_one, Ty.ofCode_code, Operand.ofBits_bits]

theorem Head.major_bits (major : BitVec 8) (minor : BitVec 4) (h : Head) : (h.bits major minor).extractLsb' 88 8 = major := by
  simp (disch := decide) only [bits, extractLsb'_append_eq_of_le, extractLsb'_eq_self, Nat.reduceSub]

theorem Head.minor_bits (major : BitVec 8) (minor : BitVec 4) (h : Head) : (h.bits major minor).extractLsb' 84 4 = minor := by
  simp (disch := decide) only [bits, extractLsb'_append_eq_of_le, extractLsb'_append_eq_of_add_le, extractLsb'_eq_self, Nat.reduceSub]

/-- Bit 63 says whether a parameter block follows (R28). -/
theorem Head.block_bits (major : BitVec 8) (minor : BitVec 4) (h : Head) : (h.bits major minor).getLsbD 63 = h.params.isSome := by
  simp (disch := decide) only [bits, getLsbD_eq_extract, extractLsb'_append_eq_of_le, extractLsb'_append_eq_of_add_le, extractLsb'_eq_self,
    Nat.reduceSub, ofBool_beq_one]

/-- A word is its opcode and its fields (R27). -/
theorem Head.bits_ofBits (w : BitVec 96) {ps : Option Params} (hps : ps.isSome = w.getLsbD 63) :
    (Head.ofBits w ps).bits (w.extractLsb' 88 8) (w.extractLsb' 84 4) = w := by
  simp (disch := decide) only [bits, ofBits, hps, Ty.code_ofCode, Operand.bits_ofBits, ofBool_getLsbD, append_extract]
  exact extractLsb'_eq_self

/-! ### Bytes -/

/-- A number of n bytes written as bytes, whatever follows. -/
theorem ofNat_leNat_leBytes {k n : Nat} (hk : k = 8 * n) (x : BitVec k) : BitVec.ofNat k (leNat (leBytes n x.toNat)) = x := by
  subst hk
  have hlt : x.toNat < 256 ^ n := by
    have := x.isLt
    rwa [Nat.pow_mul] at this
  rw [leNat_leBytes, Nat.mod_eq_of_lt hlt, BitVec.ofNat_toNat, BitVec.setWidth_eq]

/-- Bytes read as a number and written again. -/
theorem leBytes_leNat : ∀ bs : List Byte, leBytes bs.length (leNat bs) = bs
  | [] => rfl
  | b :: bs => by
    have hb : BitVec.ofNat 8 (b.toNat + 256 * leNat bs) = b :=
      eq_of_toNat_eq (by rw [toNat_ofNat]; have := b.isLt; omega)
    have hbs : (b.toNat + 256 * leNat bs) / 256 = leNat bs := by have := b.isLt; omega
    rw [leNat, List.length_cons, leBytes, hb, hbs, leBytes_leNat bs]

theorem leBytes_toNat_ofNat_leNat {k n : Nat} (hk : k = 8 * n) {bs : List Byte} (hn : bs.length = n) :
    leBytes n (BitVec.ofNat k (leNat bs)).toNat = bs := by
  subst hk hn
  have hlt : leNat bs < 2 ^ (8 * bs.length) := by rw [Nat.pow_mul]; exact leNat_lt bs
  rw [toNat_ofNat, Nat.mod_eq_of_lt hlt, leBytes_leNat]

theorem Params.length_bytes (p : Params) : p.bytes.length = 16 := by simp [Params.bytes]

/-- A parameter block is read back (R28, R51). -/
theorem paramsOf_bytes (p : Params) : paramsOf p.bytes = p := by
  have htake : ∀ w : W32, (leBytes 4 w.toNat).take 4 = leBytes 4 w.toNat := fun w => List.take_of_length_le (by rw [leBytes_length])
  simp [paramsOf, Params.bytes, List.drop_append, List.drop_eq_nil_of_le, ofNat_leNat_leBytes, htake]

theorem bytes_paramsOf {bs : List Byte} (h : bs.length = 16) : (paramsOf bs).bytes = bs := by
  have hword : ∀ k, k ≤ 12 → leBytes 4 (BitVec.ofNat 32 (leNat ((bs.drop k).take 4))).toNat = (bs.drop k).take 4 := fun k hk =>
    leBytes_toNat_ofNat_leNat rfl (by rw [List.length_take, List.length_drop]; omega)
  calc (paramsOf bs).bytes = bs.take 4 ++ (bs.drop 4).take 4 ++ (bs.drop 8).take 4 ++ (bs.drop 12).take 4 := by
        simp only [paramsOf, Params.bytes, PWord.bits_ofBits]
        rw [hword 4 (by decide), hword 8 (by decide), hword 12 (by decide), 
          show leBytes 4 (BitVec.ofNat 32 (leNat (bs.take 4))).toNat = bs.take 4 from hword 0 (by decide)]
    _ = bs.take 16 := by rw [← List.take_add, ← List.take_add, ← List.take_add]
    _ = bs := List.take_of_length_le h.le

/-! ### Device instructions -/

/-- What the map assigns to a pair is encoded with that pair, row by row of the map (R61). -/
theorem deviceParts_of_row {r : Nat × Nat × Nat} (hr : r ∈ opcodeRows) {minor : Nat} (hlo : r.2.1 ≤ minor) (hhi : minor ≤ r.2.2) :
    (deviceOf r.1 minor).elim True fun f => ∀ hd, deviceParts (f hd) = some (BitVec.ofNat 8 r.1, BitVec.ofNat 4 minor, hd) := by
  fin_cases hr <;> dsimp only at hlo hhi <;> interval_cases minor <;> exact fun _ => rfl

/-- What the map assigns to a pair is encoded with that pair (R61). -/
theorem deviceParts_deviceOf {major minor : Nat} {f : Head → Instr} (h : deviceOf major minor = some f) (hd : Head) :
    deviceParts (f hd) = some (BitVec.ofNat 8 major, BitVec.ofNat 4 minor, hd) := by
  obtain ⟨r, hr, rfl, hlo, hhi⟩ := (deviceOf_isSome_iff major minor).1 (h ▸ rfl)
  have hrow := deviceParts_of_row hr hlo hhi
  rw [h] at hrow
  exact hrow hd

/-- What a word decodes to is encoded with the opcode and fields of the word (R27, R61). -/
theorem deviceParts_decodeDevice (w : BitVec 96) (ps : Option Params) :
    deviceParts (decodeDevice w ps) = some (w.extractLsb' 88 8, w.extractLsb' 84 4, Head.ofBits w ps) := by
  unfold decodeDevice
  split
  case h_1 f hf => rw [deviceParts_deviceOf hf, BitVec.ofNat_toNat, BitVec.ofNat_toNat, BitVec.setWidth_eq, BitVec.setWidth_eq]
  case h_2 => rfl

/-- The opcode map gives every device instruction back (R61). -/
theorem opcode_statement (i : Instr) : Laws.Opcode.Statement i := by
  cases i
  case unassignedOpcode major minor h => exact Laws.Opcode.unassignedOpcode major minor h
  all_goals
    intro _ _ _ hp _
    cases hp
  all_goals rfl

/-- The bits of a device instruction decode to it (R27, R61). -/
theorem decodeDevice_bits {i : Instr} {major : BitVec 8} {minor : BitVec 4} {h : Head} (hp : deviceParts i = some (major, minor, h))
    (hok : pairOk i = true) : decodeDevice (h.bits major minor) h.params = i := by
  rw [decodeDevice, Head.major_bits, Head.minor_bits, Head.ofBits_bits]
  exact opcode_statement i major minor h hp hok

/-- The bytes of a parameter block that may be there. -/
def blockBytes (ps : Option Params) : List Byte := match ps with | some p => p.bytes | none => []

theorem encodeDevice_eq (major : BitVec 8) (minor : BitVec 4) (h : Head) :
    encodeDevice major minor h = leBytes 12 (h.bits major minor).toNat ++ blockBytes h.params := rfl

/-- Bytes that begin with a word and, where its bit 63 asks for one, a parameter block, decode to them (R28, R29). -/
theorem decodeBytes_append {w : BitVec 96} {ps : Option Params} (hps : w.getLsbD 63 = ps.isSome) (rest : List Byte) :
    decodeBytes (leBytes 12 w.toNat ++ blockBytes ps ++ rest) = some (decodeDevice w ps, rest) := by
  have htake : (leBytes 12 w.toNat ++ blockBytes ps ++ rest).take 12 = leBytes 12 w.toNat := by
    rw [List.append_assoc, List.take_left' (leBytes_length ..)]
  have hdrop : (leBytes 12 w.toNat ++ blockBytes ps ++ rest).drop 12 = blockBytes ps ++ rest := by
    rw [List.append_assoc, List.drop_left' (leBytes_length ..)]
  have hword : BitVec.ofNat 96 (leNat (leBytes 12 w.toNat)) = w := ofNat_leNat_leBytes (n := 12) (by decide) w
  have hlen : (leBytes 12 w.toNat ++ blockBytes ps ++ rest).length = 12 + (blockBytes ps).length + rest.length := by
    rw [List.length_append, List.length_append, leBytes_length]
  cases ps with
  | none =>
    have h12 : ¬ 12 + (blockBytes none).length + rest.length < 12 := by omega
    simp only [decodeBytes, hlen, h12, htake, hword, hps, hdrop, if_false, Option.isSome_none, Bool.false_eq_true]
    rfl
  | some p =>
    have h12 : ¬ 12 + (blockBytes (some p)).length + rest.length < 12 := by omega
    have h28 : ¬ 12 + (blockBytes (some p)).length + rest.length < 28 := by rw [blockBytes, p.length_bytes]; omega
    have hblock : (blockBytes (some p) ++ rest).take 16 = p.bytes := List.take_left' p.length_bytes
    have hrest : (leBytes 12 w.toNat ++ blockBytes (some p) ++ rest).drop 28 = rest :=
      List.drop_left' (by rw [List.length_append, leBytes_length, blockBytes, p.length_bytes])
    simp only [decodeBytes, hlen, h12, h28, htake, hword, hps, hdrop, hblock, hrest, if_false, Option.isSome_some, if_true, paramsOf_bytes]

/-- What decodes is a word and, where its bit 63 asks for one, a parameter block (R28, R29). -/
theorem decodeBytes_eq_some {bs rest : List Byte} {i : Instr} (h : decodeBytes bs = some (i, rest)) :
    ∃ (w : BitVec 96) (ps : Option Params), w.getLsbD 63 = ps.isSome ∧ i = decodeDevice w ps ∧
      bs = leBytes 12 w.toNat ++ blockBytes ps ++ rest := by
  unfold decodeBytes at h
  dsimp only at h
  split at h
  · cases h
  · next hlen =>
    have hword : leBytes 12 (BitVec.ofNat 96 (leNat (bs.take 12))).toNat = bs.take 12 :=
      leBytes_toNat_ofNat_leNat rfl (by rw [List.length_take]; omega)
    split at h
    · next hbit =>
      split at h
      · cases h
      · next hblock =>
        cases h
        refine ⟨_, _, hbit, rfl, ?_⟩
        have hbytes : blockBytes (some (paramsOf ((bs.drop 12).take 16))) = (bs.drop 12).take 16 :=
          bytes_paramsOf (by rw [List.length_take, List.length_drop]; omega)
        rw [hword, hbytes, ← List.take_add, List.take_append_drop]
    · next hbit =>
      cases h
      refine ⟨_, none, Bool.eq_false_iff.2 hbit, rfl, ?_⟩
      rw [hword, blockBytes, List.append_nil, List.take_append_drop]

/-- An encoded device instruction decodes to itself, whatever follows (R27 to R29, R61). -/
theorem decodeBytes_encode {i : Instr} {bs : List Byte} (hdev : (deviceParts i).isSome = true) (hok : pairOk i = true)
    (he : encode i = some bs) (rest : List Byte) : decodeBytes (bs ++ rest) = some (i, rest) := by
  obtain ⟨⟨major, minor, h⟩, hp⟩ := Option.isSome_iff_exists.1 hdev
  rw [encode, hp, Option.some.injEq] at he
  rw [← he, encodeDevice_eq, decodeBytes_append (Head.block_bits ..), decodeDevice_bits hp hok]

/-- A decoded instruction is encoded by the bytes that were read (R27 to R29, R61). -/
theorem encode_of_decodeBytes {i : Instr} {bs rest : List Byte} (h : decodeBytes bs = some (i, rest)) :
    ∃ b, encode i = some b ∧ bs = b ++ rest := by
  obtain ⟨w, ps, hps, rfl, rfl⟩ := decodeBytes_eq_some h
  refine ⟨_, ?_, rfl⟩
  rw [encode, deviceParts_decodeDevice]
  dsimp only
  rw [encodeDevice_eq, Head.bits_ofBits w hps.symm]
  rfl

/-! ### Host instructions -/

/-- The bits of a host instruction decode to it (R346). -/
theorem decodeHost_of_hostBits {i : Instr} {w : W32} (h : hostBits i = some w) : decodeHost w = some i := by
  cases i <;> cases h <;>
    simp (disch := decide) only [decodeHost, extractLsb'_append_eq_of_le, extractLsb'_append_eq_of_add_le, extractLsb'_eq_self, Nat.reduceSub] <;>
    rfl

/-- A word of custom-0 that decodes to a host instruction holds its bits (R346). -/
theorem hostBits_of_decodeHost {i : Instr} {w : W32} (h : decodeHost w = some i) : hostBits i = some w := by
  have hthree : (w.extractLsb' 15 17 ++ w.extractLsb' 12 3 ++ w.extractLsb' 7 5 ++ w.extractLsb' 0 7 : BitVec 32) = w := by
    simp (disch := decide) only [append_extract]
    exact extractLsb'_eq_self
  have htwo : (w.extractLsb' 20 12 ++ w.extractLsb' 15 5 ++ w.extractLsb' 12 3 ++ w.extractLsb' 7 5 ++ w.extractLsb' 0 7 : BitVec 32) = w := by
    simp (disch := decide) only [append_extract]
    exact extractLsb'_eq_self
  have hcode : (w.extractLsb' 28 4 ++ w.extractLsb' 20 8 ++ w.extractLsb' 15 5 ++ w.extractLsb' 12 3 ++ w.extractLsb' 7 5 ++ w.extractLsb' 0 7
      : BitVec 32) = w := by
    simp (disch := decide) only [append_extract]
    exact extractLsb'_eq_self
  have hfn : ∀ {k : BitVec 3}, (w.extractLsb' 12 3).toNat = k.toNat → w.extractLsb' 12 3 = k := eq_of_toNat_eq
  unfold decodeHost at h
  split at h
  case isFalse => cases h
  case isTrue hop =>
    rw [hop] at hthree htwo hcode
    split at h
    case h_1 hk =>
      rw [hfn (k := 0) hk] at htwo
      split at h <;> cases h
      next hz => rw [hz] at htwo; exact congrArg some htwo
    case h_2 hk =>
      rw [hfn (k := 1) hk] at hthree
      split at h <;> cases h
      next hz => rw [hz] at hthree; exact congrArg some hthree
    case h_3 hk =>
      rw [hfn (k := 2) hk] at hcode
      split at h <;> cases h
      next hz =>
        obtain ⟨h28, h15, h7⟩ := hz
        rw [h28, h15, h7] at hcode
        exact congrArg some hcode
    case h_4 hk =>
      rw [hfn (k := 3) hk] at hthree
      split at h <;> cases h
      next hz => rw [hz] at hthree; exact congrArg some hthree
    case h_5 hk =>
      rw [hfn (k := 4) hk] at htwo
      split at h <;> cases h
      next hz => rw [hz] at htwo; exact congrArg some htwo
    case h_6 => cases h

/-- Settles O55: words and bytes are read back field by field, the opcode map and the encoder's opcodes agree, and so do the host words. -/
theorem encodingsRoundTrip : Obligations.EncodingsRoundTrip :=
  ⟨fun _ _ rest hdev hok he => decodeBytes_encode hdev hok he rest, fun _ _ _ => encode_of_decodeBytes,
    fun _ _ => ⟨decodeHost_of_hostBits, hostBits_of_decodeHost⟩⟩

end Sys2Proof
end

section
/-!
SUPPORT. The computing instructions (06_pipes.md): each issues the one shared effect, `compute` or `test`, on its own shape and function; the others write a result
of each participating lane beside a flag or the generator.
-/

namespace Sys2Proof

open Machine

/-- Settles O1: each of them issues `compute` on the function of the manual. -/
theorem integerAndLogicResults : Obligations.IntegerAndLogicResults := by
  intro h
  refine ⟨?_, ?_, ?_, ?_, ?_, ?_, ?_, ?_, ?_, ?_, ?_, ?_, ?_, ?_, ?_, ?_, ?_, ?_⟩ <;> exact computes_of fun _ => rfl

/-- Settles O3: each of them issues `compute`, or `test` for the compares, on the function of the manual and the group's FMODE. -/
theorem floatResults : Obligations.FloatResults := by
  intro h
  refine ⟨?_, ?_, ?_, ?_, ?_, ?_, ?_, tests_of fun _ => rfl, tests_of fun _ => rfl, ?_, ?_, ?_, ?_, ?_, ?_, ?_, ?_⟩ <;>
    exact computes_of fun _ => rfl

/-- An effect of the lanes that participate. -/
theorem ite_whereLanes {g : Group} {h : Head} {s t : State} {e : Effect} (he : (g.parts h.guard).isEmpty = false → e = .done t) :
    (if (g.parts h.guard).isEmpty then .done s else e) = Effect.done (whereLanes g h s t) := by
  cases hp : (g.parts h.guard).isEmpty with
  | true => rw [whereLanes_of_empty hp]; rfl
  | false => rw [whereLanes_of_nonempty (by simp [hp])]; exact he hp

/-- An effect in uniform form, or lane by lane. -/
theorem ite_onGroup {b : Bool} {c : Ctx} {s : State} {f k : Group → Group} :
    (if b then c.onGroup s f else c.onGroup s k) = .done (s.modGroup c.gid fun g => if b then f g else k g) := by
  cases b <;> rfl

/-- iaddc writes its sum and its carry-out (R189). -/
theorem completes_iaddc (h : Head) : Completes (.iaddc h) (fun _ => iaddcShape h) h (fun _ _ _ => True) fun s gid g =>
    let sh := iaddcShape h
    let k := modFlag h
    let cin (l : Nat) : Nat := if k != 0 && (g.lane l).flag k then 1 else 0
    let sum (src l : Nat) : Nat := srcA sh g h src + srcB sh g h src + cin l
    let m := lowest (g.parts h.guard)
    whereLanes g h s (s.modGroup gid fun g1 =>
      if isUniform sh h then
        (g1.setS (scalNum h.d) (scalWrite h.ty (BitVec.ofNat 64 (sum 0 m % 2 ^ tyWidth h.ty)))).setFlags (g.parts h.guard) k fun _ =>
          carryOut (tyWidth h.ty) (srcA sh g h 0) (srcB sh g h 0) (cin m)
      else
        (inLanes sh g h (fun l => sum l l % 2 ^ tyWidth h.ty) g1).setFlags (g.parts h.guard) k fun l =>
          carryOut (tyWidth h.ty) (srcA sh g h l) (srcB sh g h l) (cin l)) := by
  refine completes_of (fun _ => rfl) fun s gid g _ => ?_
  exact ite_whereLanes fun _ => ite_onGroup

/-- Settles O2: `compute` and `test` on the functions of the manual, and iaddc's sum with its carry. -/
theorem bitAndCompareResults : Obligations.BitAndCompareResults := by
  intro h
  refine ⟨?_, ?_, ?_, ?_, ?_, ?_, tests_of fun _ => rfl, completes_iaddc h⟩ <;> exact computes_of fun _ => rfl

end Sys2Proof
end

section
/-!
SUPPORT. Conversions, pecks, dot products, moves, special and index registers and the cross-lane instructions (06_pipes.md R206 to R213; 04_rows.md R130
to R147): each writes through D what its statement says, in the lanes that participate.
-/

namespace Sys2Proof

open Machine

/-! ### Sources and poison -/

theorem ofNat_srcA_width (n : Nat) (sh : Shape) (g : Group) (h : Head) (l : Nat) :
    BitVec.ofNat n (srcA sh g h l) = (readOp g (opndOf sh.a) h.a l).setWidth n := BitVec.ofNat_toNat ..

theorem ofNat_srcB_width (n : Nat) (sh : Shape) (g : Group) (h : Head) (l : Nat) :
    BitVec.ofNat n (srcB sh g h l) = (readOp g (opndOf sh.b) h.b l).setWidth n := BitVec.ofNat_toNat ..

/-- Lanes whose source rows hold no poison raise none (R139, R474). -/
theorem crossPoison_nil {c : Ctx} {src : Nat → List (Nat × Nat)} (hc : ∀ l ∈ c.ps, ∀ e ∈ src l, (c.g.lane e.1).poison.contains e.2 = false) :
    crossPoison c src = [] := by
  unfold crossPoison
  split
  · rfl
  · rw [List.filterMap_eq_nil_iff]
    intro l hl
    rw [List.findSome?_eq_none_iff]
    intro e he
    rw [hc l hl e he]
    rfl

/-- An effect of an instruction whose source lanes hold no poison. -/
theorem orPoison_crossPoison {c : Ctx} {src : Nat → List (Nat × Nat)} {e : Effect}
    (hc : ∀ l ∈ c.ps, ∀ e ∈ src l, (c.g.lane e.1).poison.contains e.2 = false) : orPoison (crossPoison c src) e = e := by
  rw [crossPoison_nil hc]
  rfl

/-! ### Conversions, pecks, dot products -/

/-- A conversion writes its elements and steps its generators (R206, R207). -/
theorem convert_done (minor : Nat) (h : Head) (sr : Bool) (s : State) (gid : Nat) (g : Group) (t : Nat) :
    let sh := cvtShape minor h
    let v (l src : Nat) : Nat × W32 :=
      cvtElems (Ty.ofCode h.mods) h.ty (fenv g.fmode) sr (tyElem h.ty).2 (srcA sh g h src) (g.lane l).sr
    let m := lowest (g.parts h.guard)
    convert minor h sr (plainCtx sh gid g h t) s = .done (whereLanes g h s (s.modGroup gid fun g1 =>
      if isUniform sh h then (g1.setS (scalNum h.d) (scalWrite h.ty (BitVec.ofNat 64 (v m 0).1))).modLane m fun ln => { ln with sr := (v m 0).2 }
      else (inLanes sh g h (fun l => (v l l).1) g1).modLanes (g.parts h.guard) fun l ln => { ln with sr := (v l l).2 })) :=
  ite_whereLanes fun _ => ite_onGroup

/-- Settles O4: conversions and dot products write their results, the pecks as many rows as the statement says. -/
theorem conversionResults : Obligations.ConversionResults := by
  intro h
  refine ⟨?_, ?_, ?_, ?_, ?_, computes_of fun _ => rfl, computes_of fun _ => rfl⟩
  case refine_1 =>
    intro p hp
    simp only [List.mem_cons, List.not_mem_nil, or_false] at hp
    obtain rfl | rfl := hp
    · exact completes_of (fun _ => rfl) fun s gid g _ => convert_done 0 h _ s gid g _
    · exact completes_of (fun _ => rfl) fun s gid g _ => convert_done 1 h true s gid g _
  case refine_2 =>
    refine completes_of (fun _ => rfl) fun s gid g _ => ?_
    simp only [ofNat_srcB_width]
    rfl
  case refine_3 =>
    refine completes_of (fun _ => rfl) fun s gid g _ => ?_
    simp only [ofNat_srcB_width, beq_iff_eq]
    rfl
  case refine_4 =>
    exact completes_of (fun _ => rfl) fun s gid g hp => orPoison_crossPoison hp
  case refine_5 => exact completes_of (fun _ => rfl) fun s gid g _ => rfl

/-! ### Moves, special and index registers -/

theorem completes_sel (h : Head) : Completes (.sel h) (fun _ => selShape h) h (fun _ _ _ => True) fun s gid g =>
    let sh := selShape h
    let pick (l src : Nat) : Nat := if (g.lane l).flag (modFlag h) != h.mods.getLsbD 3 then srcA sh g h src else srcB sh g h src
    whereLanes g h s (s.modGroup gid fun g1 =>
      if isUniform sh h then g1.setS (scalNum h.d) (scalWrite h.ty (BitVec.ofNat 64 (pick (lowest (g.parts h.guard)) 0)))
      else inLanes sh g h (fun l => pick l l) g1) := by
  refine completes_of (fun _ => rfl) fun s gid g _ => ite_whereLanes fun _ => ?_
  simp only [inLanes, apply_ite (BitVec.ofNat 64), ofNat_srcA, ofNat_srcB]
  exact ite_onGroup

theorem completes_sget (h : Head) : Completes (.sget h) (fun _ => sgetShape h) h (fun _ _ _ => True) fun s gid g =>
    let v (l : Nat) : W64 := (specialValue s gid g l (clsNum h.a)).getD 0
    whereLanes g h s (s.modGroup gid fun g1 =>
      if isScal h.d then g1.setS (scalNum h.d) (v 0) else inLanes (sgetShape h) g h (fun l => (v l).toNat) g1) := by
  refine completes_of (fun _ => rfl) fun s gid g _ => ite_whereLanes fun _ => ?_
  simp only [inLanes_toNat]
  exact ite_onGroup

/-- The registers that sset writes (R134). -/
theorem setSpecial_eq (g : Group) (n : Nat) (v : W64) : setSpecial g n v =
    if n = 16 then { g with fmode := v.setWidth 32 &&& 0x3F } else if n = 17 then { g with gctl := v &&& 1 }
    else if n = 19 then { g with txcfg := v &&& 0xFF } else g := by
  unfold setSpecial
  split
  · rfl
  · rfl
  · rfl
  · next h16 h17 h19 => rw [if_neg h16, if_neg h17, if_neg h19]

theorem completes_sset (h : Head) : Completes (.sset h) (fun _ => ssetShape h) h (fun _ _ _ => True) fun s gid g =>
    let a (l : Nat) : W64 := BitVec.ofNat 64 (srcA (ssetShape h) g h l)
    whereLanes g h s (s.modGroup gid fun g1 =>
      if clsNum h.d = 21 then g1.modLanes (g.parts h.guard) fun l ln => { ln with sr := (a l).setWidth 32 }
      else if clsNum h.d = 16 then { g1 with fmode := (a 0).setWidth 32 &&& 0x3F }
      else if clsNum h.d = 17 then { g1 with gctl := a 0 &&& 1 }
      else if clsNum h.d = 19 then { g1 with txcfg := a 0 &&& 0xFF }
      else g1) := by
  refine completes_of (fun _ => rfl) fun s gid g _ => ite_whereLanes fun _ => ?_
  simp only [ofNat_srcA, ← setSpecial_eq]
  split <;> rfl

theorem completes_xset (h : Head) : Completes (.xset h) (fun _ => xsetShape h) h
    (fun _ _ g => (paramValues g h).1.toNat ≤ 2047 ∧ (paramValues g h).2.1.toNat ≤ 4095 ∧
      (paramValues g h).1.toNat + (paramValues g h).2.1.toNat ≤ g.nrows) fun s gid g =>
    whereLanes g h s (s.modGroup gid fun g1 =>
      let g2 := g1.setIndex (clsNum h.d)
        { base := BitVec.ofNat 11 (paramValues g h).1.toNat, bound := BitVec.ofNat 12 (paramValues g h).2.1.toNat,
          step := (paramValues g h).2.2.1.setWidth 8 }
      if h.mods.getLsbD 0 then g2
      else g2.modLanes (g.parts h.guard) fun l ln => ln.setOff (clsNum h.d) (BitVec.ofNat 12 (srcA (xsetShape h) g h l))) := by
  refine completes_of (fun _ => rfl) fun s gid g hp => ite_whereLanes fun _ => ?_
  obtain ⟨hbase, hbound, hsum⟩ := hp
  simp only [ofNat_srcA_width]
  exact if_neg (not_or_intro (Nat.not_lt.2 hbase) (not_or_intro (Nat.not_lt.2 hbound) (Nat.not_lt.2 hsum)))

theorem completes_xld (h : Head) : Completes (.xld h) (fun _ => xldShape h) h
    (fun _ _ g => (readNum g h.b).extractLsb' 31 33 = 0 ∧
      ((readNum g h.b).extractLsb' 0 11).toNat + ((readNum g h.b).extractLsb' 11 12).toNat ≤ g.nrows) fun s gid g =>
    whereLanes g h s (s.modGroup gid fun g1 =>
      (g1.setIndex (clsNum h.d)
        { base := (readNum g h.b).extractLsb' 0 11, bound := (readNum g h.b).extractLsb' 11 12,
          step := (readNum g h.b).extractLsb' 23 8 }).modLanes (g.parts h.guard) fun l ln =>
            ln.setOff (clsNum h.d) (BitVec.ofNat 12 (srcA (xldShape h) g h l))) := by
  refine completes_of (fun _ => rfl) fun s gid g hp => ite_whereLanes fun _ => ?_
  obtain ⟨hzero, hsum⟩ := hp
  simp only [ofNat_srcA_width]
  exact if_neg (not_or_intro (not_not_intro hzero) (Nat.not_lt.2 hsum))

theorem completes_xst (h : Head) : Completes (.xst h) (fun _ => xstShape h) h (fun _ _ _ => True) fun s gid g =>
    whereLanes g h s (s.modGroup gid fun g1 =>
      if isScal h.d then g1.setS (scalNum h.d) (ixuOf (g.index (clsNum h.a)))
      else inLanes (xstShape h) g h (fun l => ((g.lane l).off (clsNum h.a)).toNat) g1) := by
  refine completes_of (fun _ => rfl) fun s gid g _ => ite_whereLanes fun _ => ?_
  simp only [inLanes, BitVec.ofNat_toNat]
  exact ite_onGroup

theorem completes_xadd (h : Head) : Completes (.xadd h) (fun _ => xaddShape h) h (fun _ _ _ => True) fun s gid g =>
    s.modGroup gid fun g1 => g1.modLanes (g.parts h.guard) fun l ln =>
      ln.setOff (clsNum h.d) (ln.off (clsNum h.d) + BitVec.ofNat 12 (srcA (xaddShape h) g h l)) := by
  refine completes_of (fun _ => rfl) fun s gid g _ => ?_
  simp only [ofNat_srcA_width]
  rfl

/-- Settles O5: mov and movw compute; the others write their register in the lanes that participate, xset and xld inside their window. -/
theorem moveAndIndexResults : Obligations.MoveAndIndexResults := fun h =>
  ⟨computes_of fun _ => rfl, computes_of fun _ => rfl, completes_sel h, completes_sget h, completes_sset h, completes_xset h, completes_xld h,
    completes_xst h, completes_xadd h⟩

/-! ### Cross-lane instructions -/

theorem completes_shfl (h : Head) :
    let src (g : Group) (l : Nat) : Nat :=
      shflSrc (h.mods.toNat % 8) (segLen g.width (h.mods.toNat / 8)) l (srcB (shflShape h g) g h l)
    Completes (.shfl h) (shflShape h) h
      (fun s gid g => ∀ l ∈ g.parts h.guard, ∀ e ∈ rowsA (plainCtx (shflShape h g) gid g h s.clock) (shflShape h g) (src g l),
        (g.lane e.1).poison.contains e.2 = false) fun s gid g =>
      s.modGroup gid (inLanes (shflShape h g) g h fun l => srcA (shflShape h g) g h (src g l)) := by
  refine completes_of (fun _ => rfl) fun s gid g hp => (orPoison_crossPoison ?_).trans ?_
  · exact hp
  · unfold inLanes
    simp only [ofNat_srcA]
    rfl

/-- The element of the two rows that a lane of shflx reads (R141). -/
def shflxSrc (w r k : Nat) : Option (Nat × Nat) := if k < w then some (k, r) else if k < 2 * w then some (k - w, r + 1) else none

theorem completes_shflx (h : Head) : Completes (.shflx h) (fun _ => shflxShape h) h
    (fun _ _ g => ∀ l ∈ g.parts h.guard,
      let k := srcB (shflxShape h) g h l
      let r := rowOf g h.a 0
      (k < g.width → (g.lane k).poison.contains r = false) ∧
      (g.width ≤ k → k < 2 * g.width → (g.lane (k - g.width)).poison.contains (r + 1) = false)) fun s gid g =>
    let sh := shflxShape h
    let r := rowOf g h.a 0
    s.modGroup gid (inLanes sh g h fun l =>
      let k := srcB sh g h l
      if k < g.width then ((g.lane k).row r).toNat
      else if k < 2 * g.width then ((g.lane (k - g.width)).row (r + 1)).toNat else 0) := by
  have hvalue : ∀ (g : Group) (r k : Nat),
      (match shflxSrc g.width r k with | some (m, q) => ((g.lane m).row q).setWidth 64 | none => 0) =
        BitVec.ofNat 64 (if k < g.width then ((g.lane k).row r).toNat
          else if k < 2 * g.width then ((g.lane (k - g.width)).row (r + 1)).toNat else 0) := by
    intro g r k
    unfold shflxSrc
    split_ifs
    · exact (BitVec.ofNat_toNat ..).symm
    · exact (BitVec.ofNat_toNat ..).symm
    · rfl
  refine completes_of (fun _ => rfl) fun s gid g hp => (orPoison_crossPoison ?_).trans ?_
  · intro l hl e he
    obtain ⟨hlow, hhigh⟩ := hp l hl
    change e ∈ (shflxSrc g.width (rowOf g h.a 0) (srcB (shflxShape h) g h l)).toList at he
    unfold shflxSrc at he
    split_ifs at he with h1 h2
    · obtain rfl := List.mem_singleton.1 he
      exact hlow h1
    · obtain rfl := List.mem_singleton.1 he
      exact hhigh (Nat.not_lt.1 h1) h2
    · cases he
  · unfold inLanes
    simp only [← hvalue]
    rfl

theorem completes_bcast (h : Head) : Completes (.bcast h) (fun _ => bcastShape h) h
    (fun s gid g => g.parts h.guard ≠ [] → ∀ e ∈ rowsA (plainCtx (bcastShape h) gid g h s.clock) (bcastShape h) ((readNum g h.b).toNat % g.width),
      (g.lane e.1).poison.contains e.2 = false) fun s gid g =>
    let sh := bcastShape h
    let v := srcA sh g h ((readNum g h.b).toNat % g.width)
    whereLanes g h s (s.modGroup gid fun g1 =>
      if isScal h.d then g1.setS (scalNum h.d) (scalWrite h.ty (BitVec.ofNat 64 v)) else inLanes sh g h (fun _ => v) g1) := by
  refine completes_of (fun _ => rfl) fun s gid g hp => ite_whereLanes fun he => (orPoison_crossPoison ?_).trans ?_
  · exact fun _ _ => hp (by simpa using he)
  · simp only [inLanes, ofNat_srcA]
    cases isScal h.d <;> rfl

theorem completes_firstc (h : Head) : Completes (.firstc h) (fun _ => firstShape h) h
    (fun _ _ g => h.mods.getLsbD 0 = false → g.parts h.guard ≠ [] →
      poisonFail { firstShape h with cross := false } g h (lowest (g.parts h.guard)) = none) fun s gid g =>
    let m := lowest (g.parts h.guard)
    whereLanes g h s (s.modGroup gid fun g1 =>
      g1.setS (scalNum h.d) (scalWrite h.ty (BitVec.ofNat 64 (if h.mods.getLsbD 0 then m else srcA (firstShape h) g h m)))) := by
  refine completes_of (fun _ => rfl) fun s gid g hp => ?_
  simp only [plainCtx_ps, plainCtx_g]
  cases hps : g.parts h.guard with
  | nil =>
    rw [whereLanes_of_empty (by rw [hps]; rfl)]
  | cons m ls =>
    rw [whereLanes_of_nonempty (by rw [hps]; exact Bool.false_ne_true)]
    cases hm : h.mods.getLsbD 0 with
    | true => rfl
    | false =>
      have hpoison : poisonFails { firstShape h with cross := false } g h [m] = [] := by
        have hnone := hp hm (by rw [hps]; exact List.cons_ne_nil _ _)
        rw [hps] at hnone
        have hnone' : poisonFail { firstShape h with cross := false } g h m = none := hnone
        simp [poisonFails, hnone']
      simp only [hpoison, lowest, List.headD_cons, Bool.false_eq_true, if_false, ofNat_srcA]
      rfl

/-- Settles O6: each cross-lane form is its meaning in the plain context. The forms that read another lane complete where no row read there
is poisoned, because `orPoison` then has no lane to trap. -/
theorem crossLaneResults : Obligations.CrossLaneResults := by
  intro h
  refine ⟨completes_shfl h, completes_shflx h, completes_bcast h, ?_, completes_firstc h, ?_, ?_, ?_⟩
  case refine_1 => exact completes_of (fun _ => rfl) fun s gid g _ => ite_whereLanes fun _ => ite_onGroup
  case refine_2 =>
    refine completes_of (fun _ => rfl) fun s gid g _ => ?_
    cases redTree (plainCtx (gredShape h) gid g h s.clock) (gredShape h) h.mods.toNat fun _ => true <;> rfl
  case refine_3 => exact completes_of (fun _ => rfl) fun s gid g _ => rfl
  case refine_4 => exact completes_of (fun _ => rfl) fun s gid g _ => rfl

end Sys2Proof
end

section
/-!
SUPPORT. The statements about fixed words and about the reset state.
-/

namespace Sys2Proof

open Machine

/-- Settles O57: the decoder evaluated on the bytes. -/
theorem decodedWords : Obligations.DecodedWords := by
  unfold Obligations.DecodedWords
  decide +kernel

/-- Settles O59: memory after reset holds no byte. -/
theorem resetMemoryCanonical : Obligations.ResetMemoryCanonical := by
  unfold Obligations.ResetMemoryCanonical MemoryCanonical
  decide +kernel

end Sys2Proof
end

section
/-!
SUPPORT. The control instructions (03_lanes.md): the effect of each in the plain context, branch by branch.
-/

namespace Sys2Proof

open Machine

/-! ## Branches -/

theorem goTo_aligned {s : State} {target : W64} (ht : target.extractLsb' 0 2 = 0) (ls : List Nat) : goTo s target ls = .jump s target :=
  if_neg fun hne => hne ht

theorem goTo_misaligned {s : State} {target : W64} (ht : target.extractLsb' 0 2 ≠ 0) (ls : List Nat) :
    goTo s target ls = .trap cAlign (sameVal ls target) := if_pos ht

theorem parts_isEmpty_false {g : Group} {h : Head} (hne : g.parts h.guard ≠ []) : (g.parts h.guard).isEmpty = false := by
  simpa using hne

/-- A transfer to an aligned target, for the lanes that participate. -/
theorem issue_branch {sh : Group → Shape} {h : Head} {body : Ctx → State → Effect} {s : State} {gid : Nat} {g : Group} {pc : W64}
    (hc : Clear (sh g) s gid g h) (hb : body (plainCtx (sh g) gid g h s.clock) s = if (g.parts h.guard).isEmpty then .done s else .jump s pc) :
    issue sh h body s = .next (ranTo (sh g) s gid g h (if (g.parts h.guard).isEmpty then g.pc + headLen h else pc) s) := by
  cases he : (g.parts h.guard).isEmpty with
  | true => exact issue_done hc (by simpa only [he, if_true] using hb)
  | false => exact issue_jump hc (by simpa only [he, Bool.false_eq_true, if_false] using hb)

theorem callBody_of_empty {h : Head} {s : State} {gid : Nat} {g : Group} {sh : Shape} {e : Effect} (he : g.parts h.guard = []) :
    (if (plainCtx sh gid g h s.clock).ps.isEmpty then .done s else e) = Effect.done s := by
  rw [plainCtx_ps, he]; rfl

theorem callBody_of_nonempty {h : Head} {s : State} {gid : Nat} {g : Group} {sh : Shape} {e : Effect} (he : g.parts h.guard ≠ []) :
    (if (plainCtx sh gid g h s.clock).ps.isEmpty then .done s else e) = e := by
  rw [plainCtx_ps, parts_isEmpty_false he]; rfl

/-- Settles O7: where lanes participate each goes to its target through `goTo`, which traps at a misaligned one. -/
theorem branchResults : Obligations.BranchResults := by
  intro h s gid g
  refine ⟨fun hc => issue_done hc rfl, fun hc => issue_branch hc rfl, fun hc ht => issue_branch hc ?_, fun hc hp ht => issue_trap hc ?_,
    ?_, ?_, ?_, ?_⟩
  case refine_1 => exact congrArg (fun e => if (g.parts h.guard).isEmpty then Effect.done s else e) (goTo_aligned ht _)
  case refine_2 => exact (callBody_of_nonempty hp).trans (goTo_misaligned ht _)
  case refine_3 =>
    intro sh target hc ht
    by_cases hp : g.parts h.guard = []
    · rw [if_pos (by rw [hp]; rfl)]
      exact issue_done hc (callBody_of_empty hp)
    · rw [if_neg (by simpa using hp)]
      exact issue_jump hc ((callBody_of_nonempty hp).trans (goTo_aligned ht _))
  case refine_4 => exact fun hc hp ht => issue_trap hc ((callBody_of_nonempty hp).trans (goTo_misaligned ht _))
  case refine_5 =>
    intro sh hc ht
    cases hb : g.actives.isEmpty || !(g.parts h.guard).isEmpty with
    | true => exact issue_jump hc ((if_pos hb).trans (goTo_aligned ht _))
    | false => exact issue_done hc (if_neg (ne_true_of_eq_false hb))
  case refine_6 =>
    intro sh hc hp ht
    refine issue_trap hc ((if_pos ?_).trans (goTo_misaligned ht _))
    rcases hp with hp | hp <;> simp [hp]

/-! ## Structured control -/

theorem structured_of_none {c : Ctx} {f : Nat → Lane → Nat} (hn : nestOver c.g f = []) (e : Effect) : structured c f e = e := by
  simp only [structured, hn]

theorem structured_of_some {c : Ctx} {f : Nat → Lane → Nat} (hn : nestOver c.g f ≠ []) (e : Effect) :
    structured c f e = .trap cNest (nestOver c.g f) := by
  unfold structured
  cases ho : nestOver c.g f with
  | nil => exact absurd ho hn
  | cons t ts => rfl

/-- New counters of the eligible lanes, and the transfer where they leave none active (R98, R99). -/
theorem issue_jumpIfNone {sh : Group → Shape} {h : Head} {body : Ctx → State → Effect} {s : State} {gid : Nat} {g : Group}
    (f : Nat → Lane → Nat) (hc : Clear (sh g) s gid g h)
    (hb : body (plainCtx (sh g) gid g h s.clock) s = jumpIfNone (plainCtx (sh g) gid g h s.clock) s f) :
    issue sh h body s = .next (ranTo (sh g) s gid g h (if (g.setCnts f).actives.isEmpty then branchTarget g h.b else g.pc + headLen h)
      (s.modGroup gid fun g1 => g1.setCnts f)) := by
  cases ha : (g.setCnts f).actives.isEmpty with
  | true => exact issue_jump hc (hb.trans (if_pos ha))
  | false => exact issue_done hc (hb.trans (if_neg (ne_true_of_eq_false ha)))

/-- No eligible lane leaves the loop exactly where each has a counter above 1 (R102). -/
theorem stayers_isEmpty_iff (g : Group) :
    (g.lanesWhere fun ln => ln.eligible && decide (ln.cnt ≤ 1)).isEmpty = true ↔ ∀ l ∈ g.eligibles, 1 < (g.lane l).cnt := by
  simp only [List.isEmpty_iff, Group.eligibles, Group.lanesWhere, List.filter_eq_nil_iff, List.mem_filter, Bool.and_eq_true, decide_eq_true_eq,
    not_and, not_le, and_imp]

/-- Settles O8: the counters are written through `setCnts`, after `structured` where they can overflow. -/
theorem structuredResults : Obligations.StructuredResults := by
  intro h s gid g
  refine ⟨fun hc hn => issue_jumpIfNone _ hc (structured_of_none hn _), fun hc hn => issue_trap hc (structured_of_some hn _),
    fun hc => issue_jumpIfNone _ hc rfl, fun hc => issue_done hc rfl, fun hc hn => issue_done hc (structured_of_none hn _),
    fun hc hn => issue_trap hc (structured_of_some hn _), ?_, fun hc => issue_done hc rfl, fun hc => issue_done hc rfl⟩
  intro sh hc
  by_cases ha : ∀ l ∈ g.eligibles, 1 < (g.lane l).cnt
  · rw [if_pos ha]
    exact issue_done hc (if_pos ((stayers_isEmpty_iff g).2 ha))
  · rw [if_neg ha]
    exact issue_jump hc (if_neg fun he => ha ((stayers_isEmpty_iff g).1 he))

/-! ## exit -/

/-- The state that exit leaves for its group, whether or not it returns from a handler. -/
def exited (h : Head) (s : State) (gid : Nat) (g : Group) : State :=
  ((s.countCore g.core 0x12 (s.asidOf g) ((openLanes g h).filter fun l => !(g.lane l).tx.closing).length).modGroup gid fun g1 =>
    g1.modLanes (g.parts h.guard) fun _ ln => { ln.dropTx with live := false }).txSettle gid

/-- The end of the group transaction changes `hasTx` alone in its group (R327). -/
theorem lookup_txSettle {s : State} {gid : Nat} {g g1 : Group} (hg : klookup s.groups gid = some g)
    (h1 : klookup (s.txSettle gid).groups gid = some g1) : g1.sup = g.sup ∧ g1.service = g.service := by
  have hs : (s.txSettle gid).groups = s.groups ∨ (s.txSettle gid).groups = (s.modGroup gid fun g => { g with hasTx := false }).groups := by
    simp only [State.txSettle, hg]
    split <;> split
    exacts [.inl rfl, .inl rfl, .inr rfl, .inr rfl]
  rcases hs with hs | hs
  · rw [hs, hg] at h1; cases h1; exact ⟨rfl, rfl⟩
  · rw [hs, State.modGroup_of s hg, State.setGroup_groups, klookup_kput_self] at h1; cases h1; exact ⟨rfl, rfl⟩

theorem lookup_exited {h : Head} {s : State} {gid : Nat} {g g1 : Group} (hg : klookup s.groups gid = some g)
    (h1 : klookup (exited h s gid g).groups gid = some g1) : g1.sup = g.sup ∧ g1.service = g.service := by
  have hm : klookup (((s.countCore g.core 0x12 (s.asidOf g) ((openLanes g h).filter fun l => !(g.lane l).tx.closing).length).modGroup gid
      fun g1 => g1.modLanes (g.parts h.guard) fun _ ln => { ln.dropTx with live := false }).groups) gid =
      some (g.modLanes (g.parts h.guard) fun _ ln => { ln.dropTx with live := false }) := by
    rw [State.modGroup_of _ (by exact hg), State.setGroup_groups, klookup_kput_self]
  obtain ⟨hsup, hsrv⟩ := lookup_txSettle hm h1
  exact ⟨hsup, hsrv⟩

/-- What exit does with the state that its lanes leave. -/
def exitEffect (h : Head) (gid t : Nat) (s1 : State) : Effect :=
  match klookup s1.groups gid with
  | some g1 =>
    if g1.sup && !g1.service && !g1.lives.isEmpty then
      .stop ((s1.returnTrap gid g1).modGroup gid fun g => { g with ractive := false, readyAt := t + max (stallCount h.stall) 1 })
    else .done s1
  | none => .done s1

theorem exitBody_eq {h : Head} {s : State} {gid : Nat} {g : Group} {sh : Shape} (hp : g.parts h.guard ≠ []) :
    (if (plainCtx sh gid g h s.clock).ps.isEmpty then .done s
      else exitEffect h gid s.clock (((s.countCore g.core 0x12 (s.asidOf g)
        ((g.parts h.guard).filter fun l => (g.lane l).tx.isOpen && !(g.lane l).tx.closing).length).modGroup gid fun g1 =>
          g1.modLanes (g.parts h.guard) fun _ ln => { ln.dropTx with live := false }).txSettle gid)) =
      exitEffect h gid s.clock (exited h s gid g) := by
  rw [callBody_of_nonempty hp, exited, openLanes, List.filter_filter]
  simp only [Bool.and_comm]

theorem exitEffect_user {h : Head} {gid t : Nat} {s1 : State} (hn : ∀ g1, klookup s1.groups gid = some g1 → g1.sup = false ∨ g1.service = true) :
    exitEffect h gid t s1 = .done s1 := by
  unfold exitEffect
  cases hl : klookup s1.groups gid with
  | none => rfl
  | some g1 => rcases hn g1 hl with hs | hs <;> simp [hs]

theorem exitEffect_handler {h : Head} {gid t : Nat} {s1 : State} {g1 : Group} (hl : klookup s1.groups gid = some g1) (hs : g1.sup = true)
    (hv : g1.service = false) :
    exitEffect h gid t s1 = if g1.lives = [] then .done s1
      else .stop ((s1.returnTrap gid g1).modGroup gid fun g => { g with ractive := false, readyAt := t + max (stallCount h.stall) 1 }) := by
  unfold exitEffect
  by_cases he : g1.lives = [] <;> simp [hl, hs, hv, he]

/-- Settles O9: the retiring lanes leave `exited`, and only a handler with lanes left returns. -/
theorem exitResult : Obligations.ExitResult := by
  intro h s gid g sh drops s1 hc
  refine ⟨fun hp => issue_done hc (callBody_of_empty hp), fun hp hu => issue_done hc ((exitBody_eq hp).trans (exitEffect_user fun g1 hl => ?_)),
    fun g1 hp hl hs hv => ?_⟩
  case refine_1 =>
    obtain ⟨hsup, hsrv⟩ := lookup_exited hc.1.1.2 hl
    rw [hsup, hsrv]; exact hu
  case refine_2 =>
    have he := (exitBody_eq (sh := sh) hp).trans (exitEffect_handler (h := h) (t := s.clock) hl hs hv)
    by_cases hn : g1.lives = []
    · rw [if_pos hn] at he ⊢
      exact issue_done hc he
    · rw [if_neg hn] at he ⊢
      exact issue_stop hc he

end Sys2Proof
end

section
/-!
SUPPORT. Remote deposit, await (04_rows.md R148 to R151), and the address and cache instructions (07_local.md R234 to R239).
-/

namespace Sys2Proof

open Machine

/-! ## Deposits -/

theorem completes_rwr (h : Head) : Completes (.rwr h) (fun _ => rwrShape h) h
    (fun s _ g => ∃ t gt, s.groupOf g.team (readNum g h.b).toNat = some t ∧ klookup s.groups t = some gt ∧ gt.ended = false) fun s gid g =>
    whereLanes g h s (s.addOp (.deposit
      { src := gid, dst := (s.groupOf g.team (readNum g h.b).toNat).getD 0, row := rowOf g h.d 0, ctr := h.mods.toNat,
        vals := (g.parts h.guard).map fun l => (l, BitVec.ofNat 32 (srcA (rwrShape h) g h l)) })) := by
  refine completes_of (fun _ => rfl) fun s gid g hp => ite_whereLanes fun _ => ?_
  obtain ⟨t, gt, ht, hgt, hend⟩ := hp
  simp only [plainCtx_g, ht, hgt, hend, Option.getD_some, Bool.false_eq_true, if_false]
  rfl

/-- No fixed-latency result for the row is still due (R150). -/
abbrev RowQuiet (g : Group) (t row : Nat) : Prop := ∀ p ∈ g.pend, p.item = .row row → p.due ≤ t

/-- One lane's value in its row (R148). -/
abbrev putLane (row : Nat) (g : Group) (e : Nat × W32) : Group := g.modLane e.1 fun ln => (ln.setRow row e.2).setPoison row false

theorem depositLane_of_quiet {g : Group} {t row : Nat} (hq : RowQuiet g t row) (n : Nat) (e : Nat × W32) :
    g.depositLane n t row e.1 e.2 = putLane row g e := by
  have hrace : (g.pend.any fun p => p.item == .row row && decide (t < p.due) && (p.olds.lookup e.1).isSome) = false := by
    rw [List.any_eq_false]
    intro p hp hc
    simp only [Bool.and_eq_true, beq_iff_eq, decide_eq_true_eq] at hc
    exact absurd (hq p hp hc.1.1) (by omega)
  have hpend : g.pend.map (settlePend t row e.1 none) = g.pend := by
    refine (List.map_congr_left fun p hp => ?_).trans (List.map_id _)
    refine if_neg fun hc => ?_
    have hdue := hq p hp hc.1
    omega
  simp only [Group.depositLane, hrace, Bool.false_and, Bool.false_eq_true, if_false]
  exact congrArg (fun q => { putLane row g e with pend := q }) hpend

theorem depositLanes_of_quiet {t row n : Nat} (vs : KMap W32) : ∀ {g : Group}, RowQuiet g t row →
    vs.foldl (fun g e => g.depositLane n t row e.1 e.2) g = vs.foldl (putLane row) g := by
  induction vs with
  | nil => intro g _; rfl
  | cons e vs ih =>
    intro g hq
    rw [List.foldl_cons, List.foldl_cons, depositLane_of_quiet hq]
    exact ih (g := putLane row g e) hq

theorem putLane_live (row : Nat) (g : Group) (e : Nat × W32) : (putLane row g e).lanes.map (·.live) = g.lanes.map (·.live) := by
  rw [show (putLane row g e).lanes = g.lanes.modify e.1 fun ln => (ln.setRow row e.2).setPoison row false from rfl]
  apply List.ext_getElem?
  intro i
  rw [List.getElem?_map, List.getElem?_map, List.getElem?_modify]
  cases g.lanes[i]? with
  | none => rfl
  | some ln => split <;> rfl

theorem ended_eq_of_live {g g1 : Group} (hl : g1.lanes.map (·.live) = g.lanes.map (·.live)) : g1.ended = g.ended := by
  have h1 : ∀ x : Group, x.ended = !((x.lanes.map (·.live)).any id) := fun x => by simp [Group.ended, List.any_map]
  rw [h1, h1, hl]

theorem ended_putLanes (row : Nat) (vs : KMap W32) : ∀ g : Group, (vs.foldl (putLane row) g).ended = g.ended := by
  induction vs with
  | nil => exact fun _ => rfl
  | cons e vs ih => exact fun g => (ih _).trans (ended_eq_of_live (putLane_live row g e))

theorem exec_remoteDepositArrive {s : State} {k : Nat} {d : Deposit} {g : Group} (hk : klookup s.ops k = some (.deposit d))
    (hg : klookup s.groups d.dst = some g) (hb : depositBlocked s k d.src d.dst = false) (hend : g.ended = false)
    (hq : RowQuiet g s.clock d.row) :
    exec (.remoteDepositArrive k) s = .next (((s.delOp k).setGroup d.dst (d.vals.foldl (putLane d.row) g)).setGroup d.dst
      ((d.vals.foldl (putLane d.row) g).setCounter d.ctr ((d.vals.foldl (putLane d.row) g).counter d.ctr + 1))) := by
  have hland : (s.delOp k).landLanes d d.vals = (s.delOp k).setGroup d.dst (d.vals.foldl (putLane d.row) g) := by
    have hg' : klookup (s.delOp k).groups d.dst = some g := hg
    simp only [State.landLanes, hg', hend, Bool.false_eq_true, if_false]
    exact congrArg ((s.delOp k).setGroup d.dst) (depositLanes_of_quiet d.vals hq)
  have hrun : exec (.remoteDepositArrive k) s = .next (if depositBlocked s k d.src d.dst then s else s.deliver k d) := by
    show execRemoteDepositArrive k s = _
    simp only [execRemoteDepositArrive, hk]
  rw [hrun, hb, if_neg Bool.false_ne_true, State.deliver, hland, State.modGroup_of (g := d.vals.foldl (putLane d.row) g) _ (by simp), ended_putLanes, hend]
  rfl

/-! ## await -/

theorem exec_awaitc {h : Head} {s : State} {gid : Nat} {g : Group} (hc : Clear (awaitShape h g) s gid g h) :
    exec (.awaitc h) s = .next
      (if (g.parts h.guard).isEmpty || (readRaw g h.a).toNat % 65536 == 0 then ran (awaitShape h g) s gid g h s
       else if (readRaw g h.a).toNat % 65536 ≤ (g.counter (clsNum h.d)).toNat then
         ran (awaitShape h g) s gid g h
           (s.modGroup gid fun g1 => g1.setCounter (clsNum h.d) (g1.counter (clsNum h.d) - BitVec.ofNat 16 ((readRaw g h.a).toNat % 65536)))
       else waits (awaitShape h g) gid g h (.await (clsNum h.d) ((readRaw g h.a).toNat % 65536)) s) := by
  by_cases hn : ((g.parts h.guard).isEmpty || (readRaw g h.a).toNat % 65536 == 0) = true
  · rw [if_pos hn]
    exact issue_done hc (if_pos hn)
  · rw [if_neg hn]
    by_cases hle : (readRaw g h.a).toNat % 65536 ≤ (g.counter (clsNum h.d)).toNat
    · rw [if_pos hle]
      exact issue_done hc ((if_neg hn).trans (if_pos hle))
    · rw [if_neg hle]
      exact issue_block hc ((if_neg hn).trans (if_neg hle))

theorem exec_awaitSatisfied {s : State} {gid k n : Nat} {g : Group} (hg : klookup s.groups gid = some g) (hw : g.wait = .await k n)
    (hn : n ≤ (g.counter k).toNat) (hh : s.groupHalted g = false) :
    exec (.awaitSatisfied gid) s = .next (s.setGroup gid ((g.setCounter k (g.counter k - BitVec.ofNat 16 n)).completeHeld s.clock)) := by
  show execAwaitSatisfied gid s = _
  simp only [execAwaitSatisfied, hg, hw, hh, decide_eq_true hn, Bool.not_false, Bool.and_self, if_true]

/-- Settles O10: a deposit lands lane by lane (`exec_remoteDepositArrive`), and await subtracts at issue or at its event. -/
theorem depositAndAwaitResults : Obligations.DepositAndAwaitResults :=
  ⟨completes_rwr, fun _ _ _ _ => exec_remoteDepositArrive, fun _ _ _ _ => exec_awaitc, fun _ _ _ _ _ => exec_awaitSatisfied⟩

/-! ## Prefetch, address conversion and cache maintenance -/

/-- Where no participating lane reads poison, none is left out for it. -/
theorem filter_unpoisoned {sh : Shape} {g : Group} {h : Head} {ls : List Nat} (hp : poisonFails sh g h ls = []) :
    (ls.filter fun l => (poisonFails sh g h [l]).isEmpty) = ls := by
  rw [List.filter_eq_self]
  intro l hl
  have hl' := (List.filterMap_eq_nil_iff.1 hp) l hl
  simp only [poisonFails, List.filterMap_cons, hl', List.filterMap_nil, List.isEmpty_nil]

theorem completes_pref (h : Head) (s : State) (gid : Nat) (g : Group) (hc : Clear (prefShape h) s gid g h) (hn : NoTx g h) :
    exec (.pref h) s = .next (ran (prefShape h) s gid g h ((g.parts h.guard).foldl (fun t l =>
      let c := plainCtx (prefShape h) gid g h s.clock
      let va := laneAddr c t h.a (accOff h.b) 4 l
      let lk := t.laneLook g (s.asidOf g) { use := .read, scope := 5, packed := false, noDev := true, cvt := false } (some l) l va 4
      match lk.cause, lk.chunks with
      | none, [ch] =>
        match ch.loc with
        | .glob pa => if isDomain pa then t else t.prefetch gid g.core (s.asidOf g) pa ch.slot (h.mods.getLsbD 0)
        | .scr _ => t
      | _, _ => t) s)) := by
  refine issue_done hc ?_
  have hls := filter_unpoisoned hc.2.2
  simp only [plain_eq hn]
  rw [plainCtx_g, hls]
  rfl

theorem completes_cvta (h : Head) : Completes (.cvta h) (fun _ => cvtaShape h) h (fun _ _ _ => True) fun s gid g =>
    let v (l : Nat) : W64 := s.convertAddr g.core (h.mods.extractLsb' 0 2).toNat (h.mods.getLsbD 2) (readOp g (opndOf (cvtaShape h).a) h.a l)
    whereLanes g h s (s.modGroup gid fun g1 =>
      if isScal h.d then g1.setS (scalNum h.d) (v (lowest (g.parts h.guard))) else inLanes (cvtaShape h) g h (fun l => (v l).toNat) g1) := by
  refine completes_of (fun _ => rfl) fun s gid g _ => ite_whereLanes fun _ => ?_
  simp only [inLanes_toNat]
  exact ite_onGroup

theorem completes_isap (h : Head) : Completes (.isap h) (fun _ => isapShape h) h (fun _ _ _ => True) fun s gid g =>
    let v (l : Nat) : Bool := spaceNum (s.spaceOf g.core (readOp g (opndOf (isapShape h).a) h.a l)).1 == h.mods.toNat
    whereLanes g h s (s.modGroup gid fun g1 =>
      if isScal h.d then g1.setS (scalNum h.d) (if (g.parts h.guard).all v then 1 else 0)
      else g1.setFlags (g.parts h.guard) (clsNum h.d) v) :=
  completes_of (fun _ => rfl) fun _ _ _ _ => ite_whereLanes fun _ => ite_onGroup

theorem completes_cflush (h : Head) : Completes (.cflush h) (fun _ => cflushShape h) h (fun s _ g => NoTx g h ∧
      s.cacheWaits g ((g.parts h.guard).map fun l => (l, readOp g (opndOf (cflushShape h).a) h.a l)) = false) fun s gid g =>
    whereLanes g h s ((s.cacheWalks g ((g.parts h.guard).map fun l => (l, readOp g (opndOf (cflushShape h).a) h.a l))).postToken gid
      (.cflush gid (scalNum h.d)
      (((g.parts h.guard).filterMap fun l => (s.cacheAddr g l (readOp g (opndOf (cflushShape h).a) h.a l)).map l2LineOf).dedup)
      (h.mods.getLsbD 0)) h.d) := by
  refine completes_of (fun _ => rfl) fun s gid g hp => ?_
  obtain ⟨hn, hw⟩ := hp
  rw [outsideTx_eq hn]
  refine ite_whereLanes fun _ => (if_neg (ne_true_of_eq_false hw)).trans ?_
  rw [List.filterMap_map]
  rfl

theorem exec_cflushComplete {s : State} {op gid dst : Nat} {lines : List Nat} {inv : Bool} {g : Group}
    (hop : klookup s.ops op = some (.cflush gid dst lines inv)) (hg : klookup s.groups gid = some g) :
    exec (.cflushComplete op) s =
      .next (((lines.foldl (fun t x => t.flushLine g.core (t.asidOf g) x inv) s).writeToken gid op dst 1).delOp op) := by
  show execCflushComplete op s = _
  simp only [execCflushComplete, hop, hg]

theorem completes_cinv (h : Head) : Completes (.cinv h) (fun _ => cinvShape h) h (fun s _ g => NoTx g h ∧ (h.mods = 0 →
      s.cacheWaits g ((g.parts h.guard).map fun l => (l, readOp g (opndOf (cinvShape h).a) h.a l)) = false)) fun s _ g =>
    whereLanes g h s
      (if h.mods = 0 then (g.parts h.guard).foldl (fun t l =>
          match t.cachePa g l (readOp g (opndOf (cinvShape h).a) h.a l) with
          | some pa => t.dropL1 fun k line => k == g.core && line == pa / 256
          | none => t) (s.cacheWalks g ((g.parts h.guard).map fun l => (l, readOp g (opndOf (cinvShape h).a) h.a l)))
       else if h.mods = 1 then s.dropL1 fun k _ => k == g.core
       else { s with mem := { s.mem with fcache := s.mem.fcache.filter fun x => x.core != g.core } }) := by
  refine completes_of (fun _ => rfl) fun s gid g hp => ?_
  obtain ⟨hn, hw⟩ := hp
  rw [outsideTx_eq hn]
  refine ite_whereLanes fun _ => ?_
  by_cases h0 : h.mods = 0
  · rw [if_pos h0, if_pos h0]
    refine (if_neg (ne_true_of_eq_false (hw h0))).trans ?_
    rw [List.foldl_map]
    rfl
  · rw [if_neg h0, if_neg h0]
    by_cases h1 : h.mods = 1
    · rw [if_pos h1, if_pos h1]
      rfl
    · rw [if_neg h1, if_neg h1]
      rfl

/-- Settles O11: each form in the plain context; the lanes whose walk would wait are excluded by hypothesis. -/
theorem cacheAndAddressResults : Obligations.CacheAndAddressResults :=
  ⟨fun h s gid g hc hn => completes_pref h s gid g hc hn, completes_cvta, completes_isap, completes_cflush,
    fun _ _ _ _ _ _ _ => exec_cflushComplete, completes_cinv⟩

end Sys2Proof
end

section
/-!
SUPPORT. LOAD_DATA_RETURN makes a replay that had to wait before it performs any lane: the statement about it leaves that replay out.
-/

namespace Sys2Proof

open Machine

/-- A load whose one lane is performed, and whose replay is still to be made. -/
def replayedLoad : Load :=
  { gid := 0
    lanes := [{ lane := 0, row := 1, va := 0, chunks := [], fmt := 0, got := [], done := some (leBytes 4 7), bad := false }]
    uni := [], size := 4, ty := .b32, part := 0, scal := none, cvt := none, scope := 5, acq := false, gather := []
    again := true }

/-- Its group waits for it. -/
def replayedGroup : Group :=
  { team := 0, grpid := 0, width := 1, nrows := 8, core := 0, quarter := 0, slot := 0, half := 0, service := false, sup := false, pc := 0
    lanes := [{ live := true }]
    wait := .load 0 }

def replayedState : State := { groups := [(0, replayedGroup)], ops := [(0, .load replayedLoad)], nextOp := 1 }

/-- What a state says of the wait of group 0. -/
def waitOf : Host.Outcome State Fault Refusal → Option Wait
  | .next t => (klookup t.groups 0).map (·.wait)
  | _ => none

/-- LOAD_DATA_RETURN ends the wait, by the replay. -/
theorem waitOf_replayed : waitOf (exec (.loadDataReturn 0) replayedState) = some .none := by decide +kernel

/-- The statement's result leaves the group waiting. -/
theorem waitOf_finished : waitOf (.next (((replayedLoad.lanes.map (·.lane)).foldl (fun t l => t.performLane 0 l) replayedState).finishLoad 0
    replayedLoad)) = some (.load 0) := by decide +kernel

theorem lookup_replayed : klookup ((replayedLoad.lanes.map (·.lane)).foldl (fun t l => t.performLane 0 l) replayedState).ops 0 =
    some (.load replayedLoad) := by decide +kernel

/-- Refutes O12: its clause on LOAD_DATA_RETURN asks every lane to be performed and nothing of `again`. A load that is to be replayed is first
issued again (R507), which ends its group's wait, although no lane of it is parked any more; the clause's result leaves the group waiting. -/
theorem not_loadResults : ¬ Obligations.LoadResults := by
  unfold Obligations.LoadResults
  intro hall
  obtain ⟨-, -, hreturn, -⟩ := hall
  have hexec := hreturn replayedState 0 replayedLoad replayedLoad rfl lookup_replayed (by decide)
  have hwait := waitOf_finished
  rw [← hexec, waitOf_replayed] at hwait
  exact absurd hwait (by decide)

end Sys2Proof
end

section
/-!
SUPPORT. Legal operands, and the causes of an access: an instruction whose operands name no row meets no poison, and one whose own causes come before
POISON reaches its effect; the first cause of a store or an atomic.
-/

namespace Sys2Proof

open Machine

/-! ## Legal operands -/

theorem Verdict.and_eq_ok {a b : Verdict} : a.and b = .ok ↔ a = .ok ∧ b = .ok := by
  cases a <;> simp [Verdict.and]

theorem must_eq_ok {b : Bool} : must b = .ok ↔ b = true := by
  cases b <;> simp [must]

/-- A legal instruction keeps the rules of its three fields (R40 to R44). -/
theorem fields_of_legal {sh : Shape} {g : Group} {h : Head} (hl : illegal sh g h = .ok) :
    fldVerdict g true sh.d h.d = .ok ∧ fldVerdict g false sh.a h.a = .ok ∧ fldVerdict g false sh.b h.b = .ok := by
  simp only [illegal, Verdict.and_eq_ok] at hl
  obtain ⟨-, -, -, hd, ha, hb, -⟩ := hl
  exact ⟨hd, ha, hb⟩

/-- A field that accepts no row. -/
def rowless : Fld → Bool
  | .op o => !o.row && !o.ind
  | _ => true

/-- A legal operand of such a field is no row and not indirect. -/
theorem not_row_of_rowless {g : Group} {isD : Bool} {o : Opnd} {f : Operand} (hr : rowless (.op o) = true)
    (hl : fldVerdict g isD (.op o) f = .ok) : isRow f = false ∧ isInd f = false := by
  simp only [rowless, Bool.and_eq_true, Bool.not_eq_true'] at hr
  cases f with
  | row n part rsv => simp [fldVerdict, opndVerdict, Verdict.and_eq_ok, must_eq_ok, hr.1] at hl
  | ind ix post off part => simp [fldVerdict, opndVerdict, Verdict.and_eq_ok, must_eq_ok, hr.2] at hl
  | scal n rsv => exact ⟨rfl, rfl⟩
  | imm v => exact ⟨rfl, rfl⟩

/-- No operand that indexing or poison concerns is a row. -/
theorem indexOps_rowless {sh : Shape} {g : Group} {h : Head} (hl : illegal sh g h = .ok)
    (hr : rowless sh.d = true ∧ rowless sh.a = true ∧ rowless sh.b = true) :
    ∀ e ∈ indexOps sh h, isRow e.2.2 = false ∧ isInd e.2.2 = false := by
  obtain ⟨hd, ha, hb⟩ := fields_of_legal hl
  obtain ⟨hrd, hra, hrb⟩ := hr
  intro e he
  simp only [indexOps, List.mem_append] at he
  rcases he with (he | he) | he
  · cases hf : sh.a with
    | op o =>
      rw [hf] at he ha hra
      obtain rfl := List.mem_singleton.1 he
      exact not_row_of_rowless hra ha
    | zero => rw [hf] at he; cases he
    | cls n => rw [hf] at he; cases he
  · cases hf : sh.b with
    | op o =>
      rw [hf] at he hb hrb
      obtain rfl := List.mem_singleton.1 he
      exact not_row_of_rowless hrb hb
    | zero => rw [hf] at he; cases he
    | cls n => rw [hf] at he; cases he
  · cases hf : sh.d with
    | op o =>
      rw [hf] at he hd hrd
      obtain rfl := List.mem_singleton.1 he
      exact not_row_of_rowless hrd hd
    | zero => rw [hf] at he; cases he
    | cls n => rw [hf] at he; cases he

/-- An instruction without row operands consumes no poison at issue. -/
theorem poisonFails_of_rowless {sh : Shape} {g : Group} {h : Head} (hl : illegal sh g h = .ok)
    (hr : rowless sh.d = true ∧ rowless sh.a = true ∧ rowless sh.b = true) (ls : List Nat) : poisonFails sh g h ls = [] := by
  have hops := indexOps_rowless hl hr
  have hfail : ∀ l, poisonFail sh g h l = none := by
    intro l
    refine List.findSome?_eq_none_iff.2 fun e he => ?_
    obtain ⟨hrow, hind⟩ := hops e (List.mem_of_mem_filter he)
    simp [hrow, hind]
  refine List.filterMap_eq_nil_iff.2 fun l _ => ?_
  simp [hfail]

/-! ## Issue up to the operands -/

/-- What an issuing instruction answers: its checks on the operands and its effect, settled. -/
theorem issue_ready {sh : Group → Shape} {h : Head} {body : Ctx → State → Effect} {s : State} {gid : Nat} {g : Group}
    (hr : Ready (sh g) s gid g h) :
    issue sh h body s =
      .next (settle (sh g) (plainCtx (sh g) gid g h s.clock) g s (effectIn (sh g) (plainCtx (sh g) gid g h s.clock) s body)) := by
  obtain ⟨⟨hcur, hg⟩, hdue, hill, hsup, hwait, hearly⟩ := hr
  obtain ⟨hdmr, hrf, hlc, hlp⟩ := id hdue
  have hrf' : (!g.rfPend.isEmpty && !g.rfHold) = false := by rcases hrf with hrf | hrf <;> simp [hrf]
  have hsup' : ((sh g).super && !g.sup) = false := by
    cases hs : (sh g).super with
    | false => rfl
    | true => simp [hsup hs]
  have hof : effectOf (sh g) gid g h s body =
      (plainCtx (sh g) gid g h s.clock, effectIn (sh g) (plainCtx (sh g) gid g h s.clock) s body) := by
    simp only [effectOf, hdmr, hrf', hlc, hlp, hill, hsup', hwait, hearly, Bool.false_eq_true, if_false]
    split <;> rfl
  simp only [issue, hcur, hg, hof, dropPending_of_noneDue hdue]

/-- The poison that stands in the way of the instruction's effect: none where its own causes come first (R232). -/
abbrev poisonBars (sh : Shape) (g : Group) (h : Head) : List (Nat × W64) :=
  if sh.mute || sh.poisonLast then [] else poisonFails sh g h (g.parts h.guard)

/-- An issuing instruction whose operands bar nothing reaches its effect. -/
theorem issue_reaches {sh : Group → Shape} {h : Head} {body : Ctx → State → Effect} {s : State} {gid : Nat} {g : Group}
    (hr : Ready (sh g) s gid g h) (hix : indexFails (sh g) g h (g.parts h.guard) = []) (hpo : poisonBars (sh g) g h = []) :
    issue sh h body s =
      .next (settle (sh g) (plainCtx (sh g) gid g h s.clock) g s (body (plainCtx (sh g) gid g h s.clock) s)) := by
  have heff : effectIn (sh g) (plainCtx (sh g) gid g h s.clock) s body = body (plainCtx (sh g) gid g h s.clock) s := by
    simp only [effectIn, plainCtx_g, plainCtx_h, plainCtx_ps, hix]
    rw [show (if (sh g).mute || (sh g).poisonLast then [] else poisonFails (sh g) g h (g.parts h.guard)) = [] from hpo]
  rw [issue_ready hr, heff]

/-! ## The looks of an access -/

theorem lookPieces_lane (s : State) (g : Group) (asid : Nat) (ask : Ask) (lk : LaneLook) : (s.lookPieces g asid ask lk).lane = lk.lane := by
  simp only [State.lookPieces]
  repeat' split
  all_goals rfl

theorem laneLook_lane (s : State) (g : Group) (asid : Nat) (ask : Ask) (l : Option Nat) (lane : Nat) (va : W64) (n : Nat) :
    (s.laneLook g asid ask l lane va n).lane = lane := by
  simp only [State.laneLook]
  split
  · rfl
  · split
    · rfl
    · rfl
    · split <;> rfl
    · exact lookPieces_lane ..

theorem poisonLook_wait (sh : Shape) (cvt : Bool) (c : Ctx) (x : LaneLook) : (poisonLook sh cvt c x).wait = x.wait := by
  unfold poisonLook
  split
  · simp only [apply_ite LaneLook.wait, ite_self]
  · rfl

/-- Where no source of the participating lanes is poisoned, their looks stand (R474). -/
theorem map_poisonLook {sh : Shape} {cvt : Bool} {c : Ctx} {look : Nat → LaneLook} (hp : poisonFails sh c.g c.h c.ps = [])
    (hl : ∀ l, (look l).lane = l) : (c.ps.map fun l => poisonLook sh cvt c (look l)) = c.ps.map look :=
  List.map_congr_left fun l hm => poisonLook_eq hp (by rw [hl]; exact hm)

theorem noneWaits {ls : List LaneLook} (hw : ∀ x ∈ ls, x.wait = false) : (ls.any (·.wait)) = false := by
  rw [List.any_eq_false]
  exact fun x hx => by simp [hw x hx]

/-- One look's cause is the first. -/
theorem firstCause_singleton {x : LaneLook} {k : Nat × Nat} (hk : x.cause = some k) : firstCause [x] = some (k.2, [x]) := by
  simp [firstCause, hk, List.min?]

/-- A cause other than POISON is raised in the lanes that meet it (R60, R232). -/
theorem causeEffect_trap {c : Ctx} {s : State} {cause : Nat} (hc : cause ≠ cPoison) (hs : List LaneLook) :
    causeEffect c s cause hs = .stop (accessTrap s c.gid c.g cause hs) := if_neg hc

theorem storeGo_cause {c : Ctx} {s : State} {looks hs : List LaneLook} {cause : Nat} (data : Nat → List Byte) (entry : LaneLook → List Nat)
    (hset : LaneLook → List LaneLook) (hw : ∀ x ∈ looks, x.wait = false) (hf : firstCause looks = some (cause, hs)) (hc : cause ≠ cPoison) :
    storeGo c s looks [] data entry hset = .stop (accessTrap s c.gid c.g cause (hs.flatMap hset)) := by
  simp only [storeGo, anyWait, noneWaits hw, List.any_nil, Bool.or_false, Bool.false_eq_true, if_false, hf, causeEffect_trap hc]

theorem atomGo_cause {c : Ctx} {s : State} {looks hs : List LaneLook} {cause : Nat} (reqs : List LaneLook → List AtomReq) (n : Nat)
    (scal : Option Nat) (ret : Bool) (items : List Item) (hset : LaneLook → List LaneLook) (hw : ∀ x ∈ looks, x.wait = false)
    (hf : firstCause looks = some (cause, hs)) (hc : cause ≠ cPoison) :
    atomGo c s looks reqs n scal ret items hset = .stop (accessTrap s c.gid c.g cause (hs.flatMap hset)) := by
  simp only [atomGo, noneWaits hw, Bool.false_eq_true, if_false, hf, causeEffect_trap hc]

/-! ## Stores -/

/-- What st and stu ask of memory. -/
abbrev storeAsk (h : Head) : Ask := { use := .write, scope := scopeOf h.mods, packed := true, noDev := false, cvt := false }

/-- What a lane of st meets. -/
abbrev stLook (h : Head) (s : State) (gid : Nat) (g : Group) (l : Nat) : LaneLook :=
  s.laneLook g (s.asidOf g) (storeAsk h) (some l) l (laneAddr (plainCtx (stShape h) gid g h s.clock) s h.d (accOff h.b) (accSize h) l) (accSize h)

/-- What st comes to without an open transaction. -/
theorem exec_st {h : Head} {s : State} {gid : Nat} {g : Group} (hr : Ready (stShape h) s gid g h)
    (hix : indexFails (stShape h) g h (g.parts h.guard) = []) (hn : NoTx g h) :
    exec (.st h) s = .next (settle (stShape h) (plainCtx (stShape h) gid g h s.clock) g s
      (if (g.parts h.guard).isEmpty then .done s
       else storeGo (plainCtx (stShape h) gid g h s.clock) s
        ((g.parts h.guard).map fun l => poisonLook (stShape h) false (plainCtx (stShape h) gid g h s.clock) (stLook h s gid g l)) []
        (fun l => rowBytes (g.lane l) (rowOf g h.a l) (accSize h)) (fun x => [x.lane]) fun x => [x])) := by
  refine (issue_reaches (sh := fun _ => stShape h) hr hix rfl).trans ?_
  simp only [plain_eq hn, txLanes_eq hn]
  rfl

theorem st_enters {h : Head} {s : State} {gid : Nat} {g : Group} (hc : Clear (stShape h) s gid g h) (hn : NoTx g h)
    (hl : AllResident ((g.parts h.guard).map (stLook h s gid g))) :
    exec (.st h) s = .next (ran (stShape h) s gid g h (whereLanes g h s ((s.usePieces g .write ((g.parts h.guard).map (stLook h s gid g))).queueStores
      gid (((g.parts h.guard).map (stLook h s gid g)).map fun x =>
        ([x.lane], x.va, x.chunks, rowBytes (g.lane x.lane) (rowOf g h.a x.lane) (accSize h)))
      (accCol h.b) (scopeOf h.mods) (h.mods.getLsbD 3) none))) := by
  obtain ⟨hr, hix, hpo⟩ := hc
  have hmap := map_poisonLook (cvt := false) (c := plainCtx (stShape h) gid g h s.clock) (look := stLook h s gid g) hpo fun l => laneLook_lane ..
  rw [plainCtx_ps] at hmap
  rw [exec_st hr hix hn, hmap, ite_whereLanes fun _ => storeGo_ready _ _ _ _ _ hl]
  rfl

theorem st_traps {h : Head} {s : State} {gid : Nat} {g : Group} {cause : Nat} {hs : List LaneLook}
    (hj : Judged (stShape h) s gid g h ((g.parts h.guard).map (stLook h s gid g))) (hc : cause ≠ cPoison)
    (hf : firstCause (((g.parts h.guard).map (stLook h s gid g)).map (poisonLook (stShape h) false (plainCtx (stShape h) gid g h s.clock))) =
      some (cause, hs)) : exec (.st h) s = .next (accessTrap s gid g cause hs) := by
  obtain ⟨hr, hix, hn, hp, hw⟩ := hj
  rw [List.map_map] at hf
  have hw' : ∀ x ∈ (g.parts h.guard).map (poisonLook (stShape h) false (plainCtx (stShape h) gid g h s.clock) ∘ stLook h s gid g),
      x.wait = false := by
    intro x hx
    obtain ⟨l, hl, rfl⟩ := List.mem_map.1 hx
    exact (poisonLook_wait ..).trans (hw _ (List.mem_map_of_mem hl))
  rw [exec_st hr hix hn, if_neg (by simpa using hp)]
  have hgo := storeGo_cause (c := plainCtx (stShape h) gid g h s.clock) (s := s) (fun l => rowBytes (g.lane l) (rowOf g h.a l) (accSize h))
    (fun x => [x.lane]) (fun x => [x]) hw' hf hc
  rw [List.flatMap_singleton'] at hgo
  exact congrArg (fun e => Host.Outcome.next (settle (stShape h) (plainCtx (stShape h) gid g h s.clock) g s e)) hgo

/-- The one look of stu. -/
abbrev stuLook (h : Head) (s : State) (g : Group) : LaneLook :=
  s.laneLook g (s.asidOf g) (storeAsk h) none (lowest (g.parts h.guard)) (g.getS (scalNum h.d) + accOff h.b) (accSize h)

/-- What stu comes to without an open transaction. -/
theorem exec_stu {h : Head} {s : State} {gid : Nat} {g : Group} (hr : Ready (stuShape h) s gid g h)
    (hix : indexFails (stuShape h) g h (g.parts h.guard) = []) (hn : NoTx g h) :
    exec (.stu h) s = .next (settle (stuShape h) (plainCtx (stuShape h) gid g h s.clock) g s
      (if (g.parts h.guard).isEmpty then .done s
       else storeGo (plainCtx (stuShape h) gid g h s.clock) s (if (g.parts h.guard).isEmpty then [] else [stuLook h s g]) []
        (fun _ => leBytes (accSize h) (g.getS (scalNum h.a)).toNat) (fun _ => g.parts h.guard) fun x =>
          (g.parts h.guard).map fun l => { x with lane := l })) := by
  have hb : rowless (fAi h.b) = true := by
    unfold fAi
    split <;> rfl
  have hpo : poisonBars (stuShape h) g h = [] := poisonFails_of_rowless hr.2.2.1 ⟨rfl, rfl, hb⟩ _
  refine (issue_reaches (sh := fun _ => stuShape h) hr hix hpo).trans ?_
  simp only [plain_eq hn, txLanes_eq hn]
  rfl

theorem stu_enters {h : Head} {s : State} {gid : Nat} {g : Group} (hc : Clear (stuShape h) s gid g h) (hn : NoTx g h)
    (hl : AllResident [stuLook h s g]) :
    exec (.stu h) s = .next (ran (stuShape h) s gid g h (whereLanes g h s ((s.usePieces g .write [stuLook h s g]).queueStores gid
      [(g.parts h.guard, (stuLook h s g).va, (stuLook h s g).chunks, leBytes (accSize h) (g.getS (scalNum h.a)).toNat)]
      (accCol h.b) (scopeOf h.mods) (h.mods.getLsbD 3) none))) := by
  obtain ⟨hr, hix, -⟩ := hc
  rw [exec_stu hr hix hn, ite_whereLanes fun he => (by rw [he]; exact storeGo_ready _ _ _ _ _ hl)]
  rfl

theorem stu_traps {h : Head} {s : State} {gid : Nat} {g : Group} {k : Nat × Nat}
    (hj : Judged (stuShape h) s gid g h [stuLook h s g]) (hk : (stuLook h s g).cause = some k) (hc : k.2 ≠ cPoison) :
    exec (.stu h) s = .next (accessTrap s gid g k.2 ((g.parts h.guard).map fun l => { stuLook h s g with lane := l })) := by
  obtain ⟨hr, hix, hn, hp, hw⟩ := hj
  rw [exec_stu hr hix hn, if_neg (by simpa using hp), if_neg (by simpa using hp), storeGo_cause _ _ _ hw (firstCause_singleton hk) hc,
    List.flatMap_singleton]
  rfl

/-- Settles O13: without an open transaction a store either raises its first cause or enters the queue. -/
theorem storeResults : Obligations.StoreResults := fun _ _ _ _ =>
  ⟨⟨st_enters, fun _ _ hj hc hf => st_traps hj hc hf⟩, stu_enters, fun _ hj hk hc => stu_traps hj hk hc⟩

end Sys2Proof
end

section
/-!
SUPPORT. Barriers (07_local.md R240 to R250), atomics and fences (09_order.md R301 to R319).
-/

namespace Sys2Proof

open Machine

/-! ## Numbered barriers -/

theorem exec_bar {h : Head} {s : State} {gid : Nat} {g : Group} {s1 : State} (hc : Clear (barShape h) s gid g h) (hn : NoTx g h)
    (hp : g.parts h.guard ≠ []) (hcount : barCount s g h.b ≤ s.ngroup g)
    (hrel : s.releaseAll gid (g.parts h.guard) allColours 1 true = some s1) :
    exec (.bar h) s = .next (waits (barShape h) gid g h (.bar (clsNum h.d))
      (s1.modTeam g.team fun t => t.setBar (clsNum h.d) ((t.bar (clsNum h.d)).arrive gid (barCount s g h.b)))) := by
  refine issue_block (sh := fun _ => barShape h) hc ((outsideTx_eq hn _ s).trans ((callBody_of_nonempty hp).trans ?_))
  simp only [plainCtx_g, plainCtx_gid, plainCtx_ps, if_neg (Nat.not_lt.2 hcount), hrel]

theorem exec_barRelease {s : State} {team n : Nat} {t : Team} (ht : klookup s.teams team = some t) (hh : t.halted = false)
    (hl : (t.bar n).leaving ≠ []) :
    exec (.barRelease team n) s =
      .next ((t.bar n).leaving.foldl (fun u gid => u.leaveBar gid) (s.setTeam team (t.setBar n { t.bar n with leaving := [] }))) := by
  show execBarRelease team n s = _
  have hl' : (t.bar n).leaving.isEmpty = false := by simpa using hl
  simp only [execBarRelease, ht, hl', hh, Bool.or_self, Bool.false_eq_true, if_false]

theorem leaving_arrive (b : BarState) (gid count : Nat) : (b.arrive gid count).leaving =
    if (if b.arrived = 0 then count else b.count) ≤ b.arrived + 1 then b.leaving ++ (b.waiting ++ [gid]) else b.leaving :=
  apply_ite BarState.leaving _ _ _

/-- Settles O14: an arrival waits, and BAR_RELEASE lets the groups of a complete episode go. -/
theorem numberedBarrierResults : Obligations.NumberedBarrierResults :=
  ⟨fun _ _ _ _ _ => exec_bar, fun _ _ _ _ => exec_barRelease, leaving_arrive⟩

/-! ## Barrier objects -/

/-- The instruction acts on the object, once the lanes' earlier stores to it are performed. -/
theorem onObject_acts {sh : Shape} {s : State} {gid : Nat} {g : Group} {h : Head} {a : Operand} {off : Nat} {s1 : State} {t : Team} {reads : Bool}
    (ho : OnObject s gid g h a off s1 t) (hp : reads = true → t.scrPoison off 16 = false) (go : Ctx → State → Nat → Team → Effect) :
    outsideTx (fun c s => onObject a reads c s (go c)) (plainCtx sh gid g h s.clock) s = go (plainCtx sh gid g h s.clock) s1 off t := by
  obtain ⟨hne, hn, haddr, hsettle, ht⟩ := ho
  have hpo : (reads && t.scrPoison off 16) = false := by
    cases reads with
    | false => rfl
    | true => exact hp rfl
  rw [outsideTx_eq hn]
  simp only [onObject, plainCtx_ps, plainCtx_g, plainCtx_gid, parts_isEmpty_false hne, haddr, hsettle, ht, hpo, Bool.false_eq_true, if_false]

theorem exec_binit {h : Head} {s : State} {gid : Nat} {g : Group} {off : Nat} {s1 : State} {t : Team} (hc : Clear (binitShape h) s gid g h)
    (ho : OnObject s gid g h h.a off s1 t) :
    exec (.binit h) s = .next (ran (binitShape h) s gid g h (s1.modTeam g.team fun t => (t.markObj off).putObj off
      (binitObj (paramValues g h).1 (paramValues g h).2.1 (paramValues g h).2.2.1 (paramValues g h).2.2.2))) :=
  issue_done (sh := fun _ => binitShape h) hc (onObject_acts (reads := false) ho (by simp) _)

theorem exec_barr {h : Head} {s : State} {gid : Nat} {g : Group} {off : Nat} {s1 s2 : State} {t t2 : Team} (hc : Clear (barrShape h) s gid g h)
    (ho : OnObject s gid g h h.a off s1 t) (hp : t.scrPoison off 16 = false)
    (hrel : s1.releaseAll gid (g.parts h.guard) allColours 1 true = some s2) (ht2 : klookup s2.teams g.team = some t2) :
    exec (.barr h) s = .next (ran (barrShape h) s gid g h
      ((s2.modTeam g.team fun t => (t.markObj off).putObj off (barrObj (t2.obj off) (objB g h.b) (!h.mods.getLsbD 0))).modGroup gid fun g1 =>
        g1.setS (scalNum h.d) (if objPhase (t2.obj off) then 1 else 0))) := by
  refine issue_done (sh := fun _ => barrShape h) hc ((onObject_acts ho (fun _ => hp) _).trans ?_)
  simp only [plainCtx_gid, plainCtx_ps, plainCtx_g, hrel, ht2]

theorem exec_bwait {h : Head} {s : State} {gid : Nat} {g : Group} {off : Nat} {s1 : State} {t : Team} (hc : Clear (bwaitShape h) s gid g h)
    (ho : OnObject s gid g h h.a off s1 t) (hp : t.scrPoison off 16 = false) :
    let s2 := s1.modTeam g.team fun t => t.markObj off
    exec (.bwait h) s = .next
      (if objHolds (t.obj off) (h.mods.getLsbD 0) (readNum g h.b) then
         ran (bwaitShape h) s gid g h ((s2.modGroup gid fun g1 => g1.setS (scalNum h.d) (objBits (t.obj off))).acquireAt g.core)
       else waits (bwaitShape h) gid g h (.bwait off (h.mods.getLsbD 0) (readNum g h.b) (scalNum h.d)) s2) := by
  intro s2
  by_cases hh : objHolds (t.obj off) (h.mods.getLsbD 0) (readNum g h.b) = true
  · rw [if_pos hh]
    exact issue_done (sh := fun _ => bwaitShape h) hc ((onObject_acts ho (fun _ => hp) _).trans (if_pos hh))
  · rw [if_neg hh]
    exact issue_block (sh := fun _ => bwaitShape h) hc ((onObject_acts ho (fun _ => hp) _).trans (if_neg hh))

theorem exec_btest {h : Head} {s : State} {gid : Nat} {g : Group} {off : Nat} {s1 : State} {t : Team} (hc : Clear (btestShape h) s gid g h)
    (ho : OnObject s gid g h h.a off s1 t) (hp : t.scrPoison off 16 = false) :
    let v := objHolds (t.obj off) (h.mods.getLsbD 0) (readNum g h.b)
    let s2 := (s1.modTeam g.team fun t => t.markObj off).modGroup gid fun g1 =>
      if isScal h.d then g1.setS (scalNum h.d) (if v then 1 else 0) else g1.setFlags (g.parts h.guard) (clsNum h.d) fun _ => v
    exec (.btest h) s = .next (ran (btestShape h) s gid g h (if v then s2.acquireAt g.core else s2)) :=
  issue_done (sh := fun _ => btestShape h) hc (onObject_acts ho (fun _ => hp) _)

theorem exec_bwaitSatisfied {s : State} {gid : Nat} {g : Group} {t : Team} {off : Nat} {phase : Bool} {b : W64} {dst : Nat}
    (hg : klookup s.groups gid = some g) (hw : g.wait = .bwait off phase b dst) (ht : klookup s.teams g.team = some t)
    (hh : objHolds (t.obj off) phase b = true) (hrun : t.halted = false) :
    exec (.bwaitSatisfied gid) s =
      .next ((s.setGroup gid ((g.land s.free heldOp (g.setS dst (objBits (t.obj off)))).completeHeld s.clock)).acquireAt g.core) := by
  show execBwaitSatisfied gid s = _
  simp only [execBwaitSatisfied, hg, hw, ht, hh, hrun, Bool.not_false, Bool.and_self, if_true]

theorem exec_barrierPhaseComplete {s : State} {team off : Nat} {t : Team} (ht : klookup s.teams team = some t) (hobj : off / 16 ∈ t.objs)
    (hupd : off / 16 ∈ t.upd) (hoff : off % 16 = 0) :
    exec (.barrierPhaseComplete team off) s = .next (s.setTeam team (t.putObj off (completeObj (t.obj off)))) := by
  show execBarrierPhaseComplete team off s = _
  simp [execBarrierPhaseComplete, ht, hobj, hupd, hoff]

/-- Settles O15: each form acts on the object through `onObject`. -/
theorem barrierObjectResults : Obligations.BarrierObjectResults :=
  ⟨fun _ _ _ _ _ _ _ => ⟨exec_binit, fun _ _ => exec_barr, exec_bwait, exec_btest⟩,
    fun _ _ _ _ _ _ _ _ => exec_bwaitSatisfied, fun _ _ _ _ => exec_barrierPhaseComplete⟩

/-! ## Atomics -/

/-- An atomic whose one cause or first cause is no POISON is stopped by it. -/
theorem atom_traps {sh : Group → Shape} {h : Head} {body : Ctx → State → Effect} {s : State} {gid : Nat} {g : Group}
    {looks hs : List LaneLook} {cause : Nat} (hj : Judged (sh g) s gid g h looks) (hpo : poisonBars (sh g) g h = [])
    (reqs : List LaneLook → List AtomReq) (n : Nat) (scal : Option Nat) (ret : Bool) (items : List Item) (hset : LaneLook → List LaneLook)
    (hb : body (plainCtx (sh g) gid g h s.clock) s = if (g.parts h.guard).isEmpty then .done s
      else atomGo (plainCtx (sh g) gid g h s.clock) s looks reqs n scal ret items hset)
    (hf : firstCause looks = some (cause, hs)) (hc : cause ≠ cPoison) :
    issue sh h (outsideTx body) s = .next (accessTrap s gid g cause (hs.flatMap hset)) := by
  obtain ⟨hr, hix, hn, hp, hw⟩ := hj
  rw [issue_reaches hr hix hpo, outsideTx_eq hn, hb, if_neg (by simpa using hp), atomGo_cause _ _ _ _ _ _ hw hf hc]
  rfl

/-- An atomic that nothing holds back acts on its lanes. -/
theorem atom_acts {sh : Group → Shape} {h : Head} {body : Ctx → State → Effect} {s s1 s3 : State} {gid : Nat} {g : Group}
    {looks : List LaneLook} {ls : List AtomLane} (hc : Clear (sh g) s gid g h) (hp : g.parts h.guard ≠ []) (hn : NoTx g h)
    (hres : AllResident looks) (reqs : List LaneLook → List AtomReq) (n : Nat) (scal : Option Nat) (ret : Bool) (items : List Item)
    (hset : LaneLook → List LaneLook)
    (hb : body (plainCtx (sh g) gid g h s.clock) s = if (g.parts h.guard).isEmpty then .done s
      else atomGo (plainCtx (sh g) gid g h s.clock) s looks reqs n scal ret items hset)
    (hready : s.atomReady (plainCtx (sh g) gid g h s.clock) looks (atomReach h looks) = some s1)
    (hall : (s1.usePieces g .atomic looks).allAtomics (plainCtx (sh g) gid g h s.clock) (atomOp h) h.ty.code.toNat n (atomScope h)
      (s1.usePieces g .atomic looks).nextOp (reqs looks) = some (s3, ls)) (hd : ∀ x ∈ ls, x.done.isSome = true) :
    issue sh h (outsideTx body) s = .next (ran (sh g) s gid g h (s3.finishAtom s3.nextOp
      { gid := gid, lanes := ls, parts := g.parts h.guard, ty := h.ty, scal := scal, ret := ret, acq := atomAcq h, colour := atomColour h }
      (atomReach h looks))) := by
  refine issue_done hc ((outsideTx_eq hn _ s).trans (hb.trans ?_))
  rw [if_neg (by simpa using hp)]
  exact atomGo_ready _ _ _ _ _ _ _ _ hres hready hall hd

theorem exec_contentionEnterFar {s : State} {line : Nat} {a : AtomLine} (ha : klookup s.mem.atom line = some a) (hf : a.far = false)
    (hr : 4 < (a.revokes.filter fun t => decide (s.hubClock < t + 1024)).length) :
    exec (.contentionEnterFar line) s =
      .next { s with mem := { s.mem with atom := kput s.mem.atom line { a with far := true, since := s.hubClock } } } := by
  show execContentionEnterFar line s = _
  simp only [execContentionEnterFar, ha, hf, decide_eq_true hr, Bool.not_false, Bool.and_self, if_true]

theorem exec_contentionReturnNear {s : State} {line : Nat} {a : AtomLine} (ha : klookup s.mem.atom line = some a) (hf : a.far = true)
    (hs : a.since + 8192 ≤ s.hubClock) :
    exec (.contentionReturnNear line) s =
      .next { s with mem := { s.mem with atom := kput s.mem.atom line { a with far := false, revokes := [] } } } := by
  show execContentionReturnNear line s = _
  simp only [execContentionReturnNear, ha, hf, decide_eq_true hs, Bool.and_self, if_true]

/-- Settles O16: atom, atomu and red are `atomGo` on their looks; the contention events change the line's state. -/
theorem atomicResults : Obligations.AtomicResults := by
  refine ⟨?_, fun s line a ha => ⟨exec_contentionEnterFar ha, exec_contentionReturnNear ha⟩⟩
  intro h s gid g s1 s3 ls n act done trapped
  refine ⟨⟨?_, ?_⟩, ⟨?_, ?_⟩, ?_, ?_⟩
  case refine_1 =>
    intro cause hs hj hf hc
    refine (atom_traps (sh := fun _ => atomShape h) hj rfl _ _ _ _ _ _ rfl hf hc).trans ?_
    rw [List.flatMap_singleton']
  case refine_2 =>
    rintro hc ⟨hp, hn, hres, hready, hall, hd⟩
    exact atom_acts (sh := fun _ => atomShape h) hc hp hn hres _ _ _ _ _ _ rfl hready hall hd
  case refine_3 =>
    intro x k hx hj hk hc
    obtain rfl := List.mem_singleton.1 hx
    have hpo : poisonBars (atomuShape h) g h = [] := poisonFails_of_rowless hj.1.2.2.1 ⟨rfl, rfl, rfl⟩ _
    refine (atom_traps (sh := fun _ => atomuShape h) hj hpo _ _ _ _ _ _ rfl (firstCause_singleton hk) hc).trans ?_
    rw [List.flatMap_singleton]
    rfl
  case refine_4 =>
    rintro hc ⟨hp, hn, hres, hready, hall, hd⟩
    exact atom_acts (sh := fun _ => atomuShape h) hc hp hn hres _ _ _ _ _ _ rfl hready hall hd
  case refine_5 =>
    intro cause hs hj hf hc
    refine (atom_traps (sh := fun _ => redShape h) hj rfl _ _ _ _ _ _ rfl hf hc).trans ?_
    rw [List.flatMap_singleton']
  case refine_6 =>
    rintro hc ⟨hp, hn, hres, hready, hall, hd⟩
    exact atom_acts (sh := fun _ => redShape h) hc hp hn hres _ _ _ _ _ _ rfl hready hall hd

/-! ## fence -/

theorem exec_fenceComplete {s s1 : State} {gid : Nat} {g : Group} {f : Fence} (hg : klookup s.groups gid = some g) (hf : g.fence = some f)
    (hk : f.kind = .fence) (hall : s.fenceAll gid f.lanes (maskHas f.mask) f.scope = some s1) :
    exec (.fenceComplete gid) s = .next ((s1.modGroup gid fun g1 => { g1 with fence := none }).acquireAt g.core) := by
  show execFenceComplete gid s = _
  simp only [execFenceComplete, hg, hf, hk, hall, if_true]

/-- Settles O17: fence leaves its hold, and FENCE_COMPLETE ends it. -/
theorem fenceResults : Obligations.FenceResults :=
  ⟨fun _ => completes_of (fun _ => rfl) fun _ _ _ _ => ite_whereLanes fun _ => rfl, fun _ _ _ _ _ => exec_fenceComplete⟩

end Sys2Proof
end

section
/-!
SUPPORT. Device transactions (10_transactions.md R321 to R344), the Xovmtx instructions (R338 to R346) and spawn (14_time.md R439, R440).
-/

namespace Sys2Proof

open Machine

/-! ## Device transactions -/

/-- A group that wants no lock, or holds it, is not kept by it (R336). -/
theorem lock_wait_false {s : State} {gid : Nat} {g : Group} {ls : List Nat} (hw : wantsLock g ls = true → s.tx.lock = some gid) :
    (wantsLock g ls && s.tx.lock != some gid) = false := by
  cases hl : wantsLock g ls with
  | false => rfl
  | true => simp [hw hl]

theorem exec_tbeg {h : Head} {s : State} {gid : Nat} {g : Group} {t : Team} {s2 : State} (hc : Clear (tbegShape h) s gid g h)
    (ht : klookup s.teams g.team = some t) (hok : t.txok = true) (hp : plainLanes g h ≠ []) (hq : s.quarterHeld gid g = false)
    (hw : wantsLock g (plainLanes g h) = true → s.tx.lock = some gid)
    (hb : (s.doomLanes gid (openLanes g h) 5 0).beginTx gid (plainLanes g h) = some s2) :
    exec (.tbeg h) s = .next (ran (tbegShape h) s gid g h s2) := by
  have hparts : g.parts h.guard ≠ [] := fun he => hp (by simp [plainLanes, he])
  have hplain : (plainLanes g h).isEmpty = false := by simpa using hp
  refine issue_done (sh := fun _ => tbegShape h) hc ((callBody_of_nonempty hparts).trans ?_)
  have hb' : (s.doomLanes (plainCtx (tbegShape h) gid g h s.clock).gid (plainCtx (tbegShape h) gid g h s.clock).txLanes 5 0).beginTx
      (plainCtx (tbegShape h) gid g h s.clock).gid (plainCtx (tbegShape h) gid g h s.clock).plain = some s2 := hb
  have hw' : (wantsLock g (plainCtx (tbegShape h) gid g h s.clock).plain && s.tx.lock != some gid) = false := lock_wait_false hw
  have hplain' : (plainCtx (tbegShape h) gid g h s.clock).plain.isEmpty = false := hplain
  simp only [plainCtx_g, plainCtx_gid, plainCtx_ps] at hb' hw' hplain' ⊢
  simp only [ht, hok, hplain', hq, hw', hb', Bool.not_true, Bool.false_eq_true, if_false]

theorem exec_tbegResume {s s1 : State} {gid : Nat} {g : Group} {ls : List Nat} (hg : klookup s.groups gid = some g) (hwait : g.wait = .tbeg ls)
    (hh : s.groupHalted g = false) (hq : s.quarterHeld gid g = false) (hw : wantsLock g ls = true → s.tx.lock = some gid)
    (hb : s.beginTx gid ls = some s1) : exec (.tbegResume gid) s = .next (s1.modGroup gid fun g1 => g1.completeHeld s.clock) := by
  show execTbegResume gid s = _
  simp only [execTbegResume, hg, hwait, hh, hq, lock_wait_false hw, hb, Bool.or_self, Bool.false_eq_true, if_false]

theorem exec_fallbackLockGrant {s s2 : State} {gid : Nat} {g : Group} {ls : List Nat} (hg : klookup s.groups gid = some g)
    (hwait : g.wait = .lock ls) (hh : s.groupHalted g = false) (hl : s.tx.lock = none) (hcs : s.tx.commits = [])
    (hb : ({ s with tx := { s.tx with lock := some gid } } : State).beginTx gid ls = some s2) :
    exec (.fallbackLockGrant gid) s = .next (s2.modGroup gid fun g1 => g1.completeHeld s.clock) := by
  have hkeep : (s.groupHalted g || s.tx.lock.isSome || !s.tx.commits.isEmpty) = false := by simp [hh, hl, hcs]
  show execFallbackLockGrant gid s = _
  simp only [execFallbackLockGrant, hg, hwait, hkeep, hb, Bool.false_eq_true, if_false]

theorem exec_tend_of_none {h : Head} {s : State} {gid : Nat} {g : Group} (hc : Clear (tendShape h) s gid g h) (hp : g.parts h.guard ≠ [])
    (ho : openLanes g h = []) : exec (.tend h) s = .next (ran (tendShape h) s gid g h
      (s.modGroup gid fun g1 => g1.setFlags (g.parts h.guard) (clsNum h.d) fun _ => false)) := by
  have ho' : (plainCtx (tendShape h) gid g h s.clock).txLanes.isEmpty = true := List.isEmpty_iff.2 ho
  exact issue_done (sh := fun _ => tendShape h) hc ((callBody_of_nonempty hp).trans (if_pos ho'))

theorem exec_tend_of_open {h : Head} {s : State} {gid : Nat} {g : Group} (hc : Clear (tendShape h) s gid g h) (hp : g.parts h.guard ≠ [])
    (ho : openLanes g h ≠ []) (hf : s.ticketFree (some gid) = true) : exec (.tend h) s = .next (ran (tendShape h) s gid g h
      (({ s.takeTicket (.group gid (g.parts h.guard) (openLanes g h) (clsNum h.d) s.nextOp) with nextOp := s.nextOp + 1 } : State).modGroup gid
        fun g1 =>
          { g1.modLanes (openLanes g h) (fun _ ln => ln.handTx) with
            busy := g1.busy ++ (flagItems (clsNum h.d)).map fun it => { item := it, op := s.nextOp }
            fence := some { kind := .commit, lanes := g.parts h.guard, mask := 0xFF, loads := [] } })) := by
  have ho' : ¬ (plainCtx (tendShape h) gid g h s.clock).txLanes.isEmpty = true := fun he => ho (List.isEmpty_iff.1 he)
  have hf' : ¬ (!s.ticketFree (some (plainCtx (tendShape h) gid g h s.clock).gid)) = true := by simp [hf]
  exact issue_done (sh := fun _ => tendShape h) hc ((callBody_of_nonempty hp).trans ((if_neg ho').trans (if_neg hf')))

theorem exec_tendCommit {s : State} {gid : Nat} {g : Group} {c : Commit} {rest : List Commit} {parts lanes : List Nat} {flag op : Nat}
    (hcs : s.tx.commits = c :: rest) (hwho : c.who = .group gid parts lanes flag op) (hg : klookup s.groups gid = some g)
    (hw : s.commitWaits g lanes = false) : exec (.tendCommit gid) s =
      .next (({ s with tx := { s.tx with commits := rest } } : State).commitGroup gid g c.ticket parts lanes flag op) := by
  show execTendCommit gid s = _
  simp only [execTendCommit, hcs, hwho, hg, hw, Bool.false_eq_true, if_false, if_true]

theorem completes_tstat (h : Head) : Completes (.tstat h) (fun _ => tstatShape h) h (fun _ _ _ => True) fun s gid g =>
    whereLanes g h s (s.modGroup gid (inLanes (tstatShape h) g h fun l =>
      (if h.mods.getLsbD 0 then (g.lane l).tx.addr else statusWord (g.lane l).tx).toNat)) := by
  refine completes_of (fun _ => rfl) fun s gid g _ => ite_whereLanes fun _ => ?_
  rw [inLanes_toNat]
  rfl

/-- Settles O18: each form on its lanes, and the events that end a wait. -/
theorem transactionResults : Obligations.TransactionResults :=
  ⟨fun _ _ _ _ _ _ => exec_tbeg, fun _ _ _ _ _ => exec_tbegResume, fun _ _ _ _ _ => exec_fallbackLockGrant,
    fun _ _ _ _ hc hp => ⟨exec_tend_of_none hc hp, exec_tend_of_open hc hp⟩, fun _ _ _ _ _ _ _ _ _ => exec_tendCommit,
    fun _ => completes_of (fun _ => rfl) fun _ _ _ _ => rfl, completes_tstat⟩

/-! ## Host transactions -/

/-- A Xovmtx instruction of a core that waits for no ticket. -/
theorem hostStep_acts {s : State} {n : Nat} (hcur : s.cur = .host n) (hw : (s.host n).waitRd = none) (f : Nat → HostCore → State) :
    hostStep s f = .next (f n (s.host n)) := by
  simp only [hostStep, hcur, hw, Option.isSome_none, Bool.false_eq_true, if_false]

theorem afterStores_of_drained {s : State} {n : Nat} (hq : ((s.drainHostAll n).host n).stq = []) (go : State → State) :
    s.afterStores n go = go (s.drainHostAll n) := if_pos (List.isEmpty_iff.2 hq)

section
variable {s : State} {n : Nat} (hcur : s.cur = .host n) (hw : (s.host n).waitRd = none)
include hcur hw

theorem exec_xtbeg {rd rs1 : BitVec 5} (ho : (s.host n).txOpen = false) (ha : ((s.host n).getX rs1.toNat).extractLsb' 0 2 = 0)
    (hl : s.tx.lock = none) (hq : ((s.drainHostAll n).host n).stq = []) :
    exec (.xtbeg rd rs1) s =
      .next ((s.drainHostAll n).setHost n (((s.drainHostAll n).host n).openTx rd.toNat ((s.host n).getX rs1.toNat))) := by
  show execXtbeg rd rs1 s = _
  rw [execXtbeg, hostStep_acts hcur hw]
  simp only [ho, ha, hl, afterStores_of_drained hq, ne_eq, not_true_eq_false, Option.isSome_none, Bool.false_eq_true, if_false]

theorem exec_xtend_outside {rd : BitVec 5} (ho : (s.host n).txOpen = false) :
    exec (.xtend rd) s = .next (s.setHost n ((s.host n).finish rd.toNat 0)) := by
  show execXtend rd s = _
  rw [execXtend, hostStep_acts hcur hw]
  simp only [ho, Bool.not_false, if_true]

theorem exec_xtend_ticket {rd : BitVec 5} (ho : (s.host n).txOpen = true) (hf : s.ticketFree none = true)
    (ha : s.commitAhead n (s.host n) = false) :
    exec (.xtend rd) s = .next ((s.takeTicket (.host n)).setHost n { s.host n with waitRd := some rd.toNat }) := by
  show execXtend rd s = _
  rw [execXtend, hostStep_acts hcur hw]
  simp only [ho, hf, ha, Bool.not_true, Bool.or_self, Bool.false_eq_true, if_false]

theorem exec_xtabort (code : BitVec 8) : exec (.xtabort code) s = .next (s.setHost n
    (if (s.host n).txOpen then (s.host n).abort 9 code else { s.host n with pc := (s.host n).pc + 4 })) := by
  show execXtabort code s = _
  rw [execXtabort, hostStep_acts hcur hw]

theorem exec_xtstat (rd : BitVec 5) :
    exec (.xtstat rd) s = .next (s.setHost n ((s.host n).finish rd.toNat (hostStatus (s.host n)))) := by
  show execXtstat rd s = _
  rw [execXtstat, hostStep_acts hcur hw]

theorem exec_xspawn {rd rs1 : BitVec 5} (ho : (s.host n).txOpen = false) (hq : ((s.drainHostAll n).host n).stq = [])
    (ha : ((s.host n).getX rs1.toNat).toNat % 128 = 0) (ht : (s.drainHostAll n).trapsWait = false)
    (hp : ∀ pa, Config.hostPage (s.drainHostAll n).free n ((s.host n).getX rs1.toNat) = some pa →
      (s.drainHostAll n).runWaits (.host n) pa.toNat 128 true = false ∧ (s.drainHostAll n).sliceFull pa.toNat = false) :
    exec (.xspawn rd rs1) s = .next (match Config.hostPage (s.drainHostAll n).free n ((s.host n).getX rs1.toNat) with
      | none => (s.drainHostAll n).setHost n (((s.drainHostAll n).host n).trap 13 ((s.host n).getX rs1.toNat))
      | some pa =>
        if (s.drainHostAll n).unreadable pa.toNat then (s.drainHostAll n).setHost n (((s.drainHostAll n).host n).finish rd.toNat 5)
        else
          let r := (s.drainHostAll n).submitAt (.host n) none (.host n) ((s.host n).getX rs1.toNat).toNat pa.toNat 0
          r.1.setHost n ((r.1.host n).finish rd.toNat (BitVec.ofNat 64 r.2))) := by
  show execXspawn rd rs1 s = _
  rw [execXspawn, hostStep_acts hcur hw]
  simp only [ho, afterStores_of_drained hq, ha, ne_eq, not_true_eq_false, Bool.false_eq_true, if_false]
  cases hpage : Config.hostPage (s.drainHostAll n).free n ((s.host n).getX rs1.toNat) with
  | none => rfl
  | some pa =>
    obtain ⟨hrun, hfull⟩ := hp pa hpage
    simp only [hrun, hfull, ht, Bool.or_self, Bool.false_eq_true, if_false]

end

theorem exec_xtendCommit {s : State} {n : Nat} {c : Commit} {rest : List Commit} (hcs : s.tx.commits = c :: rest) (hwho : c.who = .host n)
    (hfull : ∀ e ∈ (s.host n).buf, s.sliceFull e.1 = false) :
    exec (.xtendCommit n) s = .next ((({ s with tx := { s.tx with commits := rest } } : State).applyHost n (s.host n).buf).setHost n
      (({ s.host n with txOpen := false, reads := [], writes := [], buf := [], waitRd := none } : HostCore).finish
        ((s.host n).waitRd.getD 0) 1)) := by
  have hany : ((s.host n).buf.any fun e => s.sliceFull e.1) = false := by
    rw [List.any_eq_false]
    exact fun e he => by simp [hfull e he]
  show execXtendCommit n s = _
  simp only [execXtendCommit, hcs, hwho, hany, Bool.false_eq_true, if_false, if_true]

theorem exec_hostTxAbort {s : State} {n cause : Nat} (ho : (s.host n).txOpen = true) (hw : (s.host n).waitRd = none)
    (h3 : cause = 3 → 16 < (s.host n).writes.length) (hc : cause ∈ [1, 3, 5, 6, 7]) :
    exec (.hostTxAbort n cause) s = .next (s.setHost n ((s.host n).abort cause 0)) := by
  have hcause : ([1, 5, 6, 7].contains cause || (cause == 3 && decide (16 < (s.host n).writes.length))) = true := by
    by_cases he : cause = 3
    · simp [he, h3 he]
    · simp only [List.mem_cons, List.not_mem_nil, or_false] at hc
      rcases hc with rfl | rfl | rfl | rfl | rfl
      case inr.inl => exact absurd rfl he
      all_goals rfl
  show execHostTxAbort n cause s = _
  simp only [execHostTxAbort, ho, hw, hcause, Option.isNone_none, Bool.and_self, if_true]

/-- Settles O19: each Xovmtx instruction of a core that waits for no ticket, and the two events. -/
theorem hostTransactionResults : Obligations.HostTransactionResults := by
  intro s n s1
  refine ⟨fun hcur hw => ⟨fun _ _ => exec_xtbeg hcur hw, fun _ => exec_xtend_outside hcur hw, fun _ => exec_xtend_ticket hcur hw,
    exec_xtabort hcur hw, exec_xtstat hcur hw, fun _ _ ho hq ha ht hp => exec_xspawn hcur hw ho hq ha ht hp⟩,
    fun _ _ => exec_xtendCommit, fun _ => exec_hostTxAbort⟩

/-! ## spawn -/

theorem spawnGo_submits {c : Ctx} {s : State} {lk : LaneLook} {ch : Chunk} {pa : Nat} (hch : lk.chunks = [ch]) (hloc : ch.loc = .glob pa)
    (hdom : isDomain pa = false) (hrun : s.runWaits (wlEng c s).agent pa 128 true = false) (hfull : s.sliceFull pa = false)
    (htrap : s.trapsWait = false) :
    let r := (s.usePieces c.g .read [lk]).submitAt (s.submitterOf c.g) (if c.g.sup then none else some (s.asidOf c.g)) (wlEng c s).agent
      lk.va.toNat pa ch.slot
    spawnGo c s lk = .done (r.1.modGroup c.gid fun g => g.setS (scalNum c.h.d) (BitVec.ofNat 64 r.2)) := by
  simp only [spawnGo, hch, hloc, hdom, hrun, hfull, htrap, Bool.or_self, Bool.false_eq_true, if_false]

/-- Settles O20: the record is readable and nothing waits, so `spawnGo` submits it. -/
theorem spawnResult : Obligations.SpawnResult := by
  intro h s gid g s1 ch pa look agent hc hn hp hres hrel hch hloc hdom hrun hfull htrap
  refine issue_done (sh := fun _ => spawnShape h) hc ((outsideTx_eq hn _ s).trans ((callBody_of_nonempty hp).trans ?_))
  obtain ⟨hcause, hmiss, hwait⟩ := hres look List.mem_cons_self
  have hfirst : firstCause [look] = none := firstCause_none hres
  have hmiss' : (!look.miss.isEmpty) = false := by simp [hmiss]
  have hgo := spawnGo_submits (c := plainCtx (spawnShape h) gid g h s.clock) hch hloc hdom hrun hfull htrap
  refine Eq.trans ?_ hgo
  simp only [plainCtx_g, plainCtx_ps, plainCtx_gid]
  simp only [look] at hfirst hmiss' hwait
  simp only [hwait, hfirst, hmiss', hrel, Bool.false_eq_true, if_false]
  rfl

end Sys2Proof
end

section
/-!
SUPPORT. Job cards, hazards and remote stores (13_engines.md R406 to R418).
-/

namespace Sys2Proof

open Machine

/-- An instruction on `n` bytes of scratchpad that its handle names finds them, once the lanes' earlier stores to them are performed (R241). -/
theorem exec_cpost {h : Head} {s : State} {gid : Nat} {g : Group} {off : Nat} {s1 : State} {t : Team} (hc : Clear (cpostShape h) s gid g h)
    (ho : OnScratch s gid g h (g.getS (scalNum h.a)) 64 64 off s1 t) (hq : s.cardsQueued g.core < 32) (hz : s.hazardFull g.core = false) :
    exec (.cpost h) s = .next (ran (cpostShape h) s gid g h
      (s1.postCard (plainCtx (cpostShape h) gid g h s.clock) h.d (leNat (t.scrBytes off 64)) (t.scrPoison off 64))) := by
  obtain ⟨hp, hn, haddr, hsettle, ht⟩ := ho
  have hfull : (decide (32 ≤ s.cardsQueued (plainCtx (cpostShape h) gid g h s.clock).g.core)
      || s.hazardFull (plainCtx (cpostShape h) gid g h s.clock).g.core) = false :=
    Bool.or_eq_false_iff.2 ⟨decide_eq_false (Nat.not_le.2 hq), hz⟩
  refine issue_done (sh := fun _ => cpostShape h) hc ((outsideTx_eq hn _ s).trans ((callBody_of_nonempty hp).trans ?_))
  simp only [hfull]
  simp only [plainCtx_g, plainCtx_gid, plainCtx_ps, haddr, hsettle, ht]

theorem exec_cardUnitWrite {s s1 : State} {op unit : Nat} {c : Card} {u : CardUnit} (hop : klookup s.ops op = some (.card c))
    (hu : c.units[unit]? = some u) (hst : (u.st = .todo ∧ c.status = 0) ∨ u.st = .again) (hgo : c.started = true)
    (hr : s.engRelease c.iss op c.mask = some s1) :
    let s2 := s1.runUnit op unit c u
    exec (.cardUnitWrite op unit) s =
      .next (match klookup s2.ops op with | some (.card c2) => if c2.readAll then s2.readsDone op else s2 | _ => s2) := by
  intro s2
  have hgo' : c.started ∧ ((u.st = .todo ∧ c.status = 0) ∨ u.st = .again) := ⟨hgo, hst⟩
  show execCardUnitWrite op unit s = _
  simp only [execCardUnitWrite, hop, hu, if_pos hgo', hr]
  rfl

theorem exec_cardComplete {s : State} {op : Nat} {c : Card} (hop : klookup s.ops op = some (.card c)) (hgo : c.started = true)
    (hst : c.status = 0) (hu : c.unfinished = false) :
    exec (.cardComplete op) s = .next (s.endOp c.iss op (BitVec.ofNat 64 (c.doneBytes * 2 ^ 24 + c.verdict))) := by
  show execCardComplete op s = _
  simp only [execCardComplete, hop, hgo, hst, hu, Bool.not_true, Bool.false_eq_true, if_false, if_true]

/-! ## The hazard table -/

section
variable {s : State} {op : Nat} (hb : s.hazardBlocked op = false)
include hb

theorem hazardRelease_card {c : Card} (hop : klookup s.ops op = some (.card c)) (hgo : c.started = false) :
    exec (.hazardRelease op) s = .next (s.setOp op (.card { c with started := true })) := by
  show execHazardRelease op s = _
  simp only [execHazardRelease, hb, hop, hgo, Bool.false_eq_true, if_false]

theorem hazardRelease_join {j : JoinOp} (hop : klookup s.ops op = some (.join j)) (hst : j.st = .queued) (hk : j.kind ≠ .jclose) :
    exec (.hazardRelease op) s = .next (s.startJoin op j) := by
  show execHazardRelease op s = _
  simp only [execHazardRelease, hb, hop, if_pos (And.intro hst hk), Bool.false_eq_true, if_false]

theorem hazardRelease_fetch {f : FetchOp} (hop : klookup s.ops op = some (.fetch f)) (hgo : f.started = false) :
    exec (.hazardRelease op) s = .next (s.startFetch op f) := by
  show execHazardRelease op s = _
  simp only [execHazardRelease, hb, hop, hgo, Bool.false_eq_true, if_false]

end

/-! ## Remote stores -/

/-- What a lane of rst meets. -/
abbrev rstLane (h : Head) (s : State) (gid : Nat) (g : Group) (l : Nat) : LaneLook :=
  s.rstLook g (s.asidOf g) l (laneAddr (plainCtx (rstShape h) gid g h s.clock) s h.d (accOff h.b) (accSize h) l) (accSize h)

theorem rstLook_lane (s : State) (g : Group) (asid l : Nat) (va : W64) (n : Nat) : (s.rstLook g asid l va n).lane = l := by
  simp only [State.rstLook]
  split
  · rfl
  · split
    · rfl
    · split
      · split
        · exact laneLook_lane ..
        · rfl
      · exact laneLook_lane ..

/-- The part of rst behind its looks: causes, parking whole, then the queue. -/
def rstGo (c : Ctx) (s : State) (looks : List LaneLook) : Effect :=
  if looks.any (·.wait) then waitLooks c s looks []
  else
    match firstCause looks with
    | some (cause, hs) => causeEffect c s cause hs
    | none =>
      if looks.any fun x => !x.miss.isEmpty then parkWhole c s .write looks
      else
        .done ((s.usePieces c.g .write looks).queueStores c.gid
          (looks.map fun x => ([x.lane], x.va, x.chunks, rowBytes (c.g.lane x.lane) (rowOf c.g c.h.a x.lane) (accSize c.h))) (accCol c.h.b) 4 false
          (some (if c.h.params.isSome then (paramValues c.g c.h).1 else 0)))

theorem exec_rst {h : Head} {s : State} {gid : Nat} {g : Group} (hr : Ready (rstShape h) s gid g h)
    (hix : indexFails (rstShape h) g h (g.parts h.guard) = []) (hn : NoTx g h) :
    exec (.rst h) s = .next (settle (rstShape h) (plainCtx (rstShape h) gid g h s.clock) g s
      (if (g.parts h.guard).isEmpty then .done s
       else rstGo (plainCtx (rstShape h) gid g h s.clock) s
        ((g.parts h.guard).map fun l => poisonLook (rstShape h) false (plainCtx (rstShape h) gid g h s.clock) (rstLane h s gid g l)))) := by
  refine (issue_reaches (sh := fun _ => rstShape h) hr hix rfl).trans ?_
  rw [outsideTx_eq hn]
  rfl

theorem rst_enters {h : Head} {s : State} {gid : Nat} {g : Group} (hc : Clear (rstShape h) s gid g h) (hn : NoTx g h)
    (hl : AllResident ((g.parts h.guard).map (rstLane h s gid g))) :
    exec (.rst h) s = .next (ran (rstShape h) s gid g h (whereLanes g h s ((s.usePieces g .write ((g.parts h.guard).map (rstLane h s gid g))).queueStores
      gid (((g.parts h.guard).map (rstLane h s gid g)).map fun x =>
        ([x.lane], x.va, x.chunks, rowBytes (g.lane x.lane) (rowOf g h.a x.lane) (accSize h))) (accCol h.b) 4 false
      (some (if h.params.isSome then (paramValues g h).1 else 0))))) := by
  obtain ⟨hr, hix, hpo⟩ := hc
  have hmap := map_poisonLook (cvt := false) (c := plainCtx (rstShape h) gid g h s.clock) (look := rstLane h s gid g) hpo fun l => rstLook_lane ..
  rw [plainCtx_ps] at hmap
  have hgo : rstGo (plainCtx (rstShape h) gid g h s.clock) s ((g.parts h.guard).map (rstLane h s gid g)) = .done
      ((s.usePieces g .write ((g.parts h.guard).map (rstLane h s gid g))).queueStores
        gid (((g.parts h.guard).map (rstLane h s gid g)).map fun x =>
          ([x.lane], x.va, x.chunks, rowBytes (g.lane x.lane) (rowOf g h.a x.lane) (accSize h))) (accCol h.b) 4 false
        (some (if h.params.isSome then (paramValues g h).1 else 0))) := by
    simp only [rstGo, noWait hl, firstCause_none hl, noMiss hl, Bool.false_eq_true, if_false, plainCtx_g, plainCtx_gid, plainCtx_h]
    rfl
  rw [exec_rst hr hix hn, hmap, ite_whereLanes fun _ => hgo]
  rfl

theorem rst_traps {h : Head} {s : State} {gid : Nat} {g : Group} {cause : Nat} {hs : List LaneLook}
    (hj : Judged (rstShape h) s gid g h ((g.parts h.guard).map (rstLane h s gid g))) (hc : cause ≠ cPoison)
    (hf : firstCause (((g.parts h.guard).map (rstLane h s gid g)).map (poisonLook (rstShape h) false (plainCtx (rstShape h) gid g h s.clock))) =
      some (cause, hs)) : exec (.rst h) s = .next (accessTrap s gid g cause hs) := by
  obtain ⟨hr, hix, hn, hp, hw⟩ := hj
  rw [List.map_map] at hf
  have hw' : ∀ x ∈ (g.parts h.guard).map (poisonLook (rstShape h) false (plainCtx (rstShape h) gid g h s.clock) ∘ rstLane h s gid g),
      x.wait = false := by
    intro x hx
    obtain ⟨l, hl, rfl⟩ := List.mem_map.1 hx
    exact (poisonLook_wait ..).trans (hw _ (List.mem_map_of_mem hl))
  have hgo : rstGo (plainCtx (rstShape h) gid g h s.clock) s
      ((g.parts h.guard).map (poisonLook (rstShape h) false (plainCtx (rstShape h) gid g h s.clock) ∘ rstLane h s gid g)) =
      .stop (accessTrap s gid g cause hs) := by
    simp only [rstGo, noneWaits hw', hf, causeEffect_trap hc, Bool.false_eq_true, if_false, plainCtx_g, plainCtx_gid]
  rw [exec_rst hr hix hn, if_neg (by simpa using hp)]
  exact congrArg (fun e => Host.Outcome.next (settle (rstShape h) (plainCtx (rstShape h) gid g h s.clock) g s e)) hgo

theorem exec_remotePathLost {s : State} {pkg : Nat} (hr : s.routes pkg = []) :
    exec (.remotePathLost pkg) s = .next ((s.net.outs.filter fun o => o.dst == pkg).foldl (fun t o => t.settleOut o stRemote []) s) :=
  if_pos (List.isEmpty_iff.2 hr)

/-- Settles O21: a card from its posting to its token, the three kinds of operation that a hazard holds, and rst. -/
theorem cardResults : Obligations.CardResults :=
  ⟨fun _ _ _ _ _ _ _ => exec_cpost, fun _ _ _ _ _ _ => exec_cardUnitWrite, fun _ _ _ => exec_cardComplete,
    fun _ _ hb => ⟨fun _ => hazardRelease_card hb, fun _ => hazardRelease_join hb, fun _ => hazardRelease_fetch hb⟩,
    fun _ _ _ _ => ⟨rst_enters, fun _ _ hj hc hf => rst_traps hj hc hf⟩, fun _ _ => exec_remotePathLost⟩

end Sys2Proof
end

section
/-!
SUPPORT. The join instructions and their events (11_tun.md R362 to R377): the handle, the scratchpad record and the grain that an instruction asks, then the
queue.
-/

namespace Sys2Proof

open Machine

/-! ## What a join instruction asks -/

section
variable {s : State} {gid : Nat} {g : Group} {h : Head} {sh : Shape} {n : Nat} {p : Partition}

theorem onPart_open {a : Operand} (hp : g.parts h.guard ≠ []) (hh : s.handle g.team (g.getS (scalNum a)) = some (n, p))
    (go : Nat → Partition → Effect) : onPart (plainCtx sh gid g h s.clock) s a go = go n p := by
  simp only [onPart, plainCtx_ps, plainCtx_g, parts_isEmpty_false hp, hh, Bool.false_eq_true, if_false]

theorem onPart_none {a : Operand} (hp : g.parts h.guard ≠ []) (hh : s.handle g.team (g.getS (scalNum a)) = none)
    (go : Nat → Partition → Effect) :
    onPart (plainCtx sh gid g h s.clock) s a go = .trap cAccess ((g.parts h.guard).map fun l => (l, g.getS (scalNum a))) := by
  simp only [onPart, plainCtx_ps, plainCtx_g, parts_isEmpty_false hp, hh, Bool.false_eq_true, if_false]

theorem onScratch_found {va : W64} {align k off : Nat} {s1 : State} {t : Team} (ho : OnScratch s gid g h va align k off s1 t)
    (go : State → Nat → Team → Effect) : onScratch (plainCtx sh gid g h s.clock) s va align k go = go s1 off t := by
  obtain ⟨-, -, haddr, hsettle, ht⟩ := ho
  simp only [onScratch, plainCtx_ps, plainCtx_g, plainCtx_gid, haddr, hsettle, ht]

/-- The firkin has room for `need` more records (R356). -/
abbrev FirkinRoom (p : Partition) (need : Nat) : Prop := need = 0 ∨ p.fused + p.fres + need ≤ p.fcap

theorem firkin_full_iff {need : Nat} : (need ≠ 0 ∧ p.fcap < p.fused + p.fres + need) ↔ ¬ FirkinRoom p need := by
  unfold FirkinRoom
  omega

theorem onGrain_passes {ok : Bool} {need : Nat} (hok : ok = true) (hr : FirkinRoom p need) (go : Effect) :
    onGrain (plainCtx sh gid g h s.clock) p n ok need go = go := by
  simp only [onGrain, hok, Bool.not_true, Bool.false_eq_true, if_false]
  exact if_neg fun hf => firkin_full_iff.1 hf hr

theorem onGrain_traps {ok : Bool} {need : Nat} (hbad : ok = false ∨ ¬ FirkinRoom p need) (go : Effect) :
    onGrain (plainCtx sh gid g h s.clock) p n ok need go =
      .trap (if ok then cSpill else cFormat) ((g.parts h.guard).map fun l => (l, handleOf n p)) := by
  cases hok : ok with
  | false => rfl
  | true =>
    have hfull := hbad.resolve_left (by simp [hok])
    exact if_pos (firkin_full_iff.2 hfull)

end

/-! ## Traps -/

section
variable {h : Head} {s : State} {gid : Nat} {g : Group} {n : Nat} {p : Partition}

/-- A join instruction on a handle of no open partition (R367). -/
theorem issue_onPart_none {sh : Shape} {go : Ctx → State → Nat → Partition → Effect} (hc : Clear sh s gid g h)
    (hp : g.parts h.guard ≠ []) (hn : NoTx g h) (hh : s.handle g.team (g.getS (scalNum h.a)) = none) :
    issue (fun _ => sh) h (outsideTx fun c s => onPart c s h.a (go c s)) s =
      .next (trapAt s gid g cAccess ((g.parts h.guard).map fun l => (l, g.getS (scalNum h.a)))) :=
  issue_trap (sh := fun _ => sh) hc ((outsideTx_eq hn _ s).trans (onPart_none hp hh _))

theorem join_without_handle (hp : g.parts h.guard ≠ []) (hn : NoTx g h) (hh : s.handle g.team (g.getS (scalNum h.a)) = none) :
    ∀ f ∈ [((.jclose h : Instr), jcloseShape h), (.jmul h, jmulShape h), (.jstrm h, jstrmShape h), (.jacc h, jaccShape h), (.jget h, jgetShape h),
      (.jdrain h, jdrainShape h), (.jstat h, jstatShape h)],
    Clear f.2 s gid g h → exec f.1 s = .next (trapAt s gid g cAccess ((g.parts h.guard).map fun l => (l, g.getS (scalNum h.a)))) := by
  simp only [List.forall_mem_cons, List.not_mem_nil, false_implies, implies_true, and_true]
  refine ⟨?_, ?_, ?_, ?_, ?_, ?_, ?_⟩ <;> exact fun hc => issue_onPart_none hc hp hn hh

/-- A join instruction that the grain, the type or the firkin rejects (R356, R367). -/
theorem issue_onGrain {sh : Shape} {body : Ctx → State → Effect} {ok : Bool} {need : Nat} {go : Effect} (hc : Clear sh s gid g h)
    (hb : body (plainCtx sh gid g h s.clock) s = onGrain (plainCtx sh gid g h s.clock) p n ok need go)
    (hbad : ok = false ∨ ¬ FirkinRoom p need) :
    issue (fun _ => sh) h body s =
      .next (trapAt s gid g (if ok then cSpill else cFormat) ((g.parts h.guard).map fun l => (l, handleOf n p))) :=
  issue_trap (sh := fun _ => sh) hc (hb.trans (onGrain_traps hbad go))

end

/-- The grain of jmul and jstrm. -/
theorem block_cause (p : Partition) : (if (!p.elem) = true then cSpill else cFormat) = if p.elem then cFormat else cSpill := by
  cases p.elem <;> rfl

/-- Settles O22: an open partition of the right grain, with room in its firkin, leads every join instruction to its queue. -/
theorem joinQueueResults : Obligations.JoinQueueResults := by
  intro h s gid g n p t c room on v lanes
  refine ⟨?_, ?_, ?_, ?_, ?_, ?_, ?_, ?_, ?_, ?_, ?_, ?_, ?_⟩
  case refine_1 => exact fun f hf hc hp hn hh => join_without_handle hp hn hh f hf hc
  case refine_2 =>
    rintro hc ⟨hp, hn, hh⟩ hz hbad
    rw [← block_cause]
    refine issue_onGrain hc ((outsideTx_eq hn _ s).trans ((onPart_open hp hh _).trans (if_pos hz))) ?_
    exact hbad.imp_left (by simp)
  case refine_3 =>
    rintro hc ⟨hp, hn, hh⟩ hm cols hbad
    rw [← block_cause]
    refine issue_onGrain hc ((outsideTx_eq hn _ s).trans ((onPart_open hp hh _).trans (if_neg (ne_true_of_eq_false hm)))) ?_
    rw [hm]
    exact hbad.imp_left (by simp)
  case refine_4 =>
    rintro hc ⟨hp, hn, hh⟩ hbad
    refine issue_onGrain hc ((outsideTx_eq hn _ s).trans (onPart_open hp hh _)) ?_
    rcases hbad with hbad | hbad | hbad
    · exact .inl (by simp [hbad])
    · exact .inl (by simp [hbad])
    · exact .inr hbad
  case refine_5 =>
    rintro hc ⟨hp, hn, hh⟩ hbad
    have hok : (p.elem && (h.ty == .i32) == p.int) = false := by rcases hbad with hbad | hbad <;> simp [hbad]
    refine (issue_onGrain hc ((outsideTx_eq hn _ s).trans (onPart_open hp hh _)) (.inl hok)).trans ?_
    rw [hok]
    rfl
  case refine_6 =>
    intro off s1 tm hc ho hpo hgrow hq
    obtain ⟨hp, hn, -⟩ := id ho
    refine issue_done (sh := fun _ => jopenShape h) hc ((outsideTx_eq hn _ s).trans ?_)
    by_cases hm : h.mods.getLsbD 0 = true
    · rw [if_pos hm] at hq
      exact (if_pos hm).trans ((onPart_open hp (hgrow hm) _).trans ((onScratch_found ho _).trans
        ((if_neg (ne_true_of_eq_false hpo)).trans (congrArg joinEffect hq))))
    · rw [if_neg hm] at hq
      exact (if_neg hm).trans ((callBody_of_nonempty hp).trans ((onScratch_found ho _).trans
        ((if_neg (ne_true_of_eq_false hpo)).trans (congrArg joinEffect hq))))
  case refine_7 =>
    rintro t1 hc ⟨hp, hn, hh⟩ hq
    exact issue_done (sh := fun _ => jcloseShape h) hc ((outsideTx_eq hn _ s).trans ((onPart_open hp hh _).trans
      (congrArg (fun o : Option State => joinEffect (o.map fun s => s.modPart g.team n fun p => { p with closed := true })) hq)))
  case refine_8 =>
    rintro iss reads op hc ⟨hp, hn, hh⟩ he hr
    have hok : (!p.elem) = true := by simp [he]
    refine ⟨fun hz hq => ?_, fun off s1 tm hz ho hq => ?_⟩
    · exact issue_done (sh := fun _ => jmulShape h) hc ((outsideTx_eq hn _ s).trans ((onPart_open hp hh _).trans ((if_pos hz).trans
        ((onGrain_passes hok hr _).trans (congrArg joinEffect hq)))))
    · exact issue_done (sh := fun _ => jmulShape h) hc ((outsideTx_eq hn _ s).trans ((onPart_open hp hh _).trans
        ((if_neg (ne_true_of_eq_false hz)).trans ((onScratch_found ho _).trans ((onGrain_passes hok hr _).trans (congrArg joinEffect hq))))))
  case refine_9 =>
    rintro iss resv op hc ⟨hp, hn, hh⟩ he
    have hok : (!p.elem) = true := by simp [he]
    constructor
    · intro hm hr hq
      refine issue_done (sh := fun _ => jstrmShape h) hc ((outsideTx_eq hn _ s).trans ((onPart_open hp hh _).trans ?_))
      rw [hm]
      exact (onGrain_passes hok hr _).trans (congrArg joinEffect hq)
    · intro off s1 tm hm ho hpo d hr hq
      refine issue_done (sh := fun _ => jstrmShape h) hc ((outsideTx_eq hn _ s).trans ((onPart_open hp hh _).trans ?_))
      rw [hm]
      exact (onScratch_found ho _).trans ((if_neg (ne_true_of_eq_false hpo)).trans ((onGrain_passes hok hr _).trans (congrArg joinEffect hq)))
  case refine_10 =>
    rintro iss tuples hc ⟨hp, hn, hh⟩ he hty hr hq
    have hok : (p.elem && (h.ty == .i32) == p.int) = true := by simp [he, hty]
    exact issue_done (sh := fun _ => jaccShape h) hc ((outsideTx_eq hn _ s).trans ((onPart_open hp hh _).trans
      ((onGrain_passes hok hr _).trans (congrArg joinEffect hq))))
  case refine_11 =>
    rintro row k hc ⟨hp, hn, hh⟩ he hty hq
    have hok : (p.elem && (h.ty == .i32) == p.int) = true := by simp [he, hty]
    exact issue_done (sh := fun _ => jgetShape h) hc ((outsideTx_eq hn _ s).trans ((onPart_open hp hh _).trans
      ((onGrain_passes hok (.inl rfl) _).trans (congrArg (fun o : Option State => joinEffect (o.map fun s1 => s1.modGroup gid fun g1 =>
        { g1 with busy := g1.busy ++ (Item.row row :: flagItems k).map fun it => ({ item := it, op := s.nextOp } : Busy) })) hq))))
  case refine_12 =>
    rintro off s1 tm hc ⟨hp, hn, hh⟩ ho iss em cnt hq
    exact issue_done (sh := fun _ => jdrainShape h) hc ((outsideTx_eq hn _ s).trans ((onPart_open hp hh _).trans
      ((onScratch_found ho _).trans (congrArg joinEffect hq))))
  case refine_13 =>
    rintro off s1 tm hc ⟨hp, hn, hh⟩ ho hq
    exact issue_done (sh := fun _ => jstatShape h) hc ((outsideTx_eq hn _ s).trans ((onPart_open hp hh _).trans
      ((onScratch_found ho _).trans (congrArg joinEffect hq))))

end Sys2Proof
end

section
/-!
SUPPORT. The events of the join queue (11_tun.md R363, R364, R369, R370).
-/

namespace Sys2Proof

open Machine

section
variable {s : State} {op : Nat} {j : JoinOp} (hop : klookup s.ops op = some (.join j))
include hop

theorem joinOpStart_queued (hst : j.st = .queued) (hk : j.kind ≠ .jclose) : exec (.joinOpStart op) s = .next (s.startJoin op j) := by
  show execJoinOpStart op s = _
  simp only [execJoinOpStart, hop, hst]

theorem joinOpStart_running (hst : j.st = .running) (hk : j.kind ≠ .jclose) (hf : j.fin = none) :
    exec (.joinOpStart op) s = .next ((s.stepJoin op j).1.saveJoin op (s.stepJoin op j).2) := by
  show execJoinOpStart op s = _
  simp only [execJoinOpStart, hop, hst, hf]
  cases hkind : j.kind with
  | jclose => exact absurd hkind hk
  | _ => rfl

theorem exec_jmulBarrierSatisfied {key a b v3 : W64} {off : Nat} {cd : Bool} {t : Team} (hst : j.st = .waiting)
    (hk : j.kind = .jmul key a b v3 (some off) cd) (ht : klookup s.teams j.iss.team = some t)
    (hle : (objPend (t.obj off)).toInt ≤ (mulAmount v3).toInt) :
    exec (.jmulBarrierSatisfied op) s = .next ((s.setOp op (.join { j with st := .running })).acquireAt (s.joinCore j)) := by
  show execJmulBarrierSatisfied op s = _
  simp only [execJmulBarrierSatisfied, hop, hst, hk, ht, if_pos hle]

theorem exec_joinOpComplete {tok : W64} (hst : j.st = .running) (hk : j.kind ≠ .jclose) (hf : j.fin = some tok) (hw : s.writesOut op = false) :
    exec (.joinOpComplete op) s = .next (s.endJoin op j tok) := by
  show execJoinOpComplete op s = _
  simp only [execJoinOpComplete, hop, if_pos (And.intro hst hk), hf, Option.isSome_some, hw, Bool.false_eq_true, if_false, if_true]

theorem exec_jcloseFree (hk : j.kind = .jclose) (hb : s.joinBehind op j = false) :
    exec (.jcloseFree op) s = .next ((s.leaveOp op).modTeam j.iss.team fun t => { t with parts := kerase t.parts j.part }) := by
  show execJcloseFree op s = _
  simp only [execJcloseFree, hop, hk, hb, Bool.false_eq_true, if_false]

end

/-- Settles O23: each event on its operation, by the operation's state. -/
theorem joinEventResults : Obligations.JoinEventResults := fun _ _ _ hop =>
  ⟨joinOpStart_queued hop, joinOpStart_running hop, fun _ _ _ _ _ _ _ => exec_jmulBarrierSatisfied hop, fun _ => exec_joinOpComplete hop,
    exec_jcloseFree hop⟩

end Sys2Proof
end

section
/-!
SUPPORT. The fetch unit (12_irregular.md R382 to R404): fch and dgrow from the queue to their token.
-/

namespace Sys2Proof

open Machine

/-! ## Issue -/

/-- What `fch` does with its handle `a` and its word 1 `w1`, once some lane participates and `w1` is in order. -/
def fchFrom (h : Head) (c : Ctx) (s : State) (a w1 : W64) : Effect :=
  match s.fchAddr c.g a with
  | some cause => .trap cause (c.ps.map fun l => (l, a))
  | none =>
    match (match s.target c.g none a 32 with | .scr off => s.settleScr c.gid c.ps off 32 | _ => some s) with
    | none => .retry
    | some s1 =>
      let row := rowOf c.g h.a 0
      let k := (w1.extractLsb' 8 3).toNat
      let f : FetchOp :=
        { iss := c.issuer s (scalNum h.d), mask := w1.extractLsb' 0 8,
          kind := .fch a (c.ps.map fun l => (l, (List.range 4).map fun k => ((c.g.lane l).row (rowOf c.g h.b l + k)).toInt)) row (partOf h.a) k h.ty }
      joinEffect ((s1.queueFetch c f (s1.surfDeclared (fetchEng 0 f.iss) a) []).map fun s2 => s2.modGroup c.gid fun g =>
        { g with busy := g.busy ++ (Item.row row :: flagItems k).map fun it => ({ item := it, op := s1.nextOp } : Busy) })

theorem fchFrom_ready {h : Head} {c : Ctx} {s s1 t : State} {a w1 : W64} (ha : s.fchAddr c.g a = none)
    (hsettle : (match s.target c.g none a 32 with | .scr off => s.settleScr c.gid c.ps off 32 | _ => some s) = some s1) :
    let row := rowOf c.g h.a 0
    let k := (w1.extractLsb' 8 3).toNat
    let f : FetchOp :=
      { iss := c.issuer s (scalNum h.d), mask := w1.extractLsb' 0 8,
        kind := .fch a (c.ps.map fun l => (l, (List.range 4).map fun k => ((c.g.lane l).row (rowOf c.g h.b l + k)).toInt)) row (partOf h.a) k h.ty }
    s1.queueFetch c f (s1.surfDeclared (fetchEng 0 f.iss) a) [] = some t →
    fchFrom h c s a w1 = .done (t.modGroup c.gid fun g =>
      { g with busy := g.busy ++ (Item.row row :: flagItems k).map fun it => ({ item := it, op := s1.nextOp } : Busy) }) := by
  intro row k f hq
  simp only [fchFrom, ha, hsettle, row, k]
  rw [hq]
  rfl

theorem fchFrom_trap {h : Head} {c : Ctx} {s : State} {a w1 : W64} {cause : Nat} (ha : s.fchAddr c.g a = some cause) :
    fchFrom h c s a w1 = .trap cause (c.ps.map fun l => (l, a)) := by
  simp only [fchFrom, ha]

theorem exec_fch {h : Head} {s s1 t : State} {gid : Nat} {g : Group} :
    let c := plainCtx (fchShape h g) gid g h s.clock
    let a := (paramValues g h).1
    let w1 := (paramValues g h).2.1
    let row := rowOf g h.a 0
    let k := (w1.extractLsb' 8 3).toNat
    let f : FetchOp :=
      { iss := c.issuer s (scalNum h.d), mask := w1.extractLsb' 0 8,
        kind := .fch a ((g.parts h.guard).map fun l => (l, (List.range 4).map fun k => ((g.lane l).row (rowOf g h.b l + k)).toInt)) row
          (partOf h.a) k h.ty }
    Clear (fchShape h g) s gid g h → NoTx g h → g.parts h.guard ≠ [] → w1.toNat < 2 ^ 11 → s.fchAddr g a = none →
    (match s.target g none a 32 with | .scr off => s.settleScr gid (g.parts h.guard) off 32 | _ => some s) = some s1 →
    s1.queueFetch c f (s1.surfDeclared (fetchEng 0 f.iss) a) [] = some t →
    exec (.fch h) s = .next (ran (fchShape h g) s gid g h (t.modGroup gid fun g1 =>
      { g1 with busy := g1.busy ++ (Item.row row :: flagItems k).map fun it => ({ item := it, op := s1.nextOp } : Busy) })) := by
  intro c a w1 row k f hc hn hp hw ha hsettle hq
  refine issue_done (sh := fchShape h) hc ((outsideTx_eq hn _ s).trans
    ((callBody_of_nonempty hp).trans ((if_neg (Nat.not_le.2 hw)).trans ?_)))
  exact fchFrom_ready (c := c) ha hsettle hq

theorem exec_fch_trap {h : Head} {s : State} {gid : Nat} {g : Group} {cause : Nat} (hc : Clear (fchShape h g) s gid g h) (hn : NoTx g h)
    (hp : g.parts h.guard ≠ []) (hw : (paramValues g h).2.1.toNat < 2 ^ 11) (ha : s.fchAddr g (paramValues g h).1 = some cause) :
    exec (.fch h) s = .next (trapAt s gid g cause ((g.parts h.guard).map fun l => (l, (paramValues g h).1))) := by
  refine issue_trap (sh := fchShape h) hc ((outsideTx_eq hn _ s).trans
    ((callBody_of_nonempty hp).trans ((if_neg (Nat.not_le.2 hw)).trans ?_)))
  exact fchFrom_trap (c := plainCtx (fchShape h g) gid g h s.clock) ha

theorem exec_dgrow {h : Head} {s t : State} {gid : Nat} {g : Group} :
    let c := plainCtx (dgrowShape h) gid g h s.clock
    let v := paramValues g h
    let iss := c.issuer s (scalNum h.d)
    Clear (dgrowShape h) s gid g h → NoTx g h → g.parts h.guard ≠ [] →
    s.queueFetch c { iss := iss, mask := (readRaw g h.a).extractLsb' 0 8, kind := .dgrow v.1 v.2.1 v.2.2.1 v.2.2.2 }
      (s.rangeOf iss v.2.1 2048) (s.rangeOf iss v.1 2048 ++ s.rangeOf iss v.2.2.1 144) = some t →
    exec (.dgrow h) s = .next (ran (dgrowShape h) s gid g h t) := fun hc hn hp hq =>
  issue_done (sh := fun _ => dgrowShape h) hc ((outsideTx_eq hn _ s).trans ((callBody_of_nonempty hp).trans (congrArg joinEffect hq)))

/-! ## Events -/

section
variable {s : State} {op : Nat} {f : FetchOp} (hop : klookup s.ops op = some (.fetch f))
include hop

theorem exec_fetchOpStart (hgo : f.started = false) : exec (.fetchOpStart op) s = .next (s.startFetch op f) := by
  show execFetchOpStart op s = _
  simp only [execFetchOpStart, hop, hgo, Bool.false_eq_true, if_false]

theorem exec_fetchOpComplete {f1 : FetchOp} {a : W64} {coords : List (Nat × List Int)} {row part flag : Nat} {ty : Ty} {d : Nat}
    (hk : f.kind = .fch a coords row part flag ty) (hd : f.desc = some d) :
    let s1 := (coords.map (·.1)).foldl (fun t l => t.stepFetch op l) s
    klookup s1.ops op = some (.fetch f1) → f1.res.length + f1.fails.length = coords.length →
    exec (.fetchOpComplete op) s = .next (s1.finishFch op f1 row part flag ty (coords.map (·.1))) := by
  intro s1 h1 hlen
  show execFetchOpComplete op s = _
  have h1' : klookup ((coords.map (·.1)).foldl (fun t l => t.stepFetch op l) s).ops op = some (.fetch f1) := h1
  simp only [execFetchOpComplete, hop, hk, hd, h1', List.length_map, hlen, if_true]
  rfl

theorem exec_dgrowComplete {s1 s2 s3 s4 : State} {tile grad st v3 : W64} {w gr r : List Byte} {fw fg fr : List (Nat × Nat)} {b : List Byte}
    {fb : List (Nat × Nat)} (hk : f.kind = .dgrow tile grad st v3) (hfin : f.fin = none) (hgo : f.started = true) (hpark : f.parked = false)
    (hbad : growBad v3 = false) (ht : tile.toNat % 64 = 0) (hg : grad.toNat % 64 = 0) (hst : st.toNat % 16 = 0)
    (hread1 : s.engRead (fetchEng op f.iss) tile 2048 = (s1, .ok w fw)) (hread2 : s1.engRead (fetchEng op f.iss) grad 2048 = (s2, .ok gr fg))
    (hread3 : s2.engRead (fetchEng op f.iss) st 144 = (s3, .ok r fr)) (hgeo : (fw ++ fg).all (fun p => p.2 != 7) = true)
    (hwrite : s3.growWrite (fetchEng op f.iss) tile st (growBytes v3 w gr r) = (s4, .ok b fb)) (hout : s4.writesOut op = false) :
    exec (.dgrowComplete op) s = .next (s4.endOp f.iss op (fetchToken stDone (if (growBytes v3 w gr r).2.isSome then 1 else 0))) := by
  have hpacked : ((fw ++ fg).any fun p => p.2 == 7) = false := by
    rw [List.any_eq_false]
    intro p hp
    have hp' := List.all_eq_true.1 hgeo p hp
    simpa using hp'
  show execDgrowComplete op s = _
  simp only [execDgrowComplete, hop, hk, hfin, hgo, hpark, hbad, ht, hg, hst, hread1, hread2, hread3, hpacked, hwrite, hout, Bool.not_true,
    Bool.or_self, ne_eq, not_true_eq_false, or_self, Bool.false_eq_true, if_false]

end

/-- Settles O24: fch and dgrow enter the queue, and each event finds its operation. -/
theorem fetchUnitResults : Obligations.FetchUnitResults :=
  ⟨fun _ _ _ _ _ _ => exec_fch, fun _ _ _ _ _ => exec_fch_trap, fun _ _ _ _ _ => exec_dgrow, fun _ _ _ => exec_fetchOpStart,
    fun _ _ _ _ _ _ _ _ _ _ _ hop hk hd => exec_fetchOpComplete hop hk hd, fun _ _ _ _ _ _ _ _ _ _ _ _ _ _ _ _ _ _ _ hop => exec_dgrowComplete hop⟩

end Sys2Proof
end

section
/-!
SUPPORT. Work-lists and topk (12_irregular.md R390 to R401): the list that an instruction names, then what each instruction makes of it.
-/

namespace Sys2Proof

open Machine

section
variable {s s2 : State} {gid : Nat} {g : Group} {h : Head} {sh : Shape} {w : Wl}

theorem onList_found (hw : OnWorklist sh s gid g h w s2) (go : State → W64 → Wl → Effect) :
    onList h.a (plainCtx sh gid g h s.clock) s go = go s2 (g.getS (scalNum h.a)) w := by
  obtain ⟨off, s1, t, hheld, ho, hpoison, hareas, hsettle, rfl⟩ := hw
  rw [onList, plainCtx_ps, plainCtx_g, plainCtx_gid, parts_isEmpty_false ho.1, hheld, if_neg Bool.false_ne_true, if_neg Bool.false_ne_true,
    onScratch_found ho]
  simp only [hpoison, hareas, hsettle, Bool.false_eq_true, if_false]

theorem OnWorklist.noTx (hw : OnWorklist sh s gid g h w s2) : NoTx g h := by
  obtain ⟨_, _, _, -, ⟨-, hn, -⟩, -⟩ := hw
  exact hn

/-- An instruction on a list does what its body does with the list. -/
theorem outsideTx_onList (hw : OnWorklist sh s gid g h w s2) (go : Ctx → State → W64 → Wl → Effect) :
    outsideTx (fun c s => onList h.a c s (go c)) (plainCtx sh gid g h s.clock) s =
      go (plainCtx sh gid g h s.clock) s2 (g.getS (scalNum h.a)) w :=
  (outsideTx_eq hw.noTx _ s).trans (onList_found hw _)

/-- The lanes' items as the statements write them (R393, R395). -/
theorem items_srcB (sh : Shape) (g : Group) (h : Head) : (fun l => BitVec.ofNat 32 (srcB sh g h l)) = fun l => (readOp g (opndOf sh.b) h.b l).setWidth 32 := by
  funext l
  simp [srcB]

/-- wini on a scratchpad line that no other list operation holds, up to its judgement (R391). -/
theorem wini_body {off : Nat} {s1 : State} {tm : Team} (hheld : s.listHeld gid g.team = false)
    (ho : OnScratch s gid g h (g.getS (scalNum h.a)) 64 64 off s1 tm) (go : State → Nat → Team → Effect) :
    (if (plainCtx sh gid g h s.clock).ps.isEmpty then .done s
      else if s.listHeld (plainCtx sh gid g h s.clock).gid (plainCtx sh gid g h s.clock).g.team then .retry
      else onScratch (plainCtx sh gid g h s.clock) s (g.getS (scalNum h.a)) 64 64 go) = go s1 off tm := by
  rw [plainCtx_ps, plainCtx_g, plainCtx_gid, parts_isEmpty_false ho.1, hheld, if_neg Bool.false_ne_true, if_neg Bool.false_ne_true,
    onScratch_found ho]

end

/-- What wini does with header fields that are in order, at offset `off` (R390, R391). -/
def winiFrom (c : Ctx) (s : State) (off : Nat) (base : W64) (hd : Nat) : Effect :=
  match s.wlAreas c.g base hd with
  | some (cause, x) => .trap cause (c.ps.map fun l => (l, x))
  | none => match s.settleWl c hd with | none => .retry | some s1 => .done (s1.initList c.g.team off base hd)

theorem winiFrom_ready {c : Ctx} {s s1 : State} {off hd : Nat} {base : W64} (hareas : s.wlAreas c.g base hd = none)
    (hsettle : s.settleWl c hd = some s1) : winiFrom c s off base hd = .done (s1.initList c.g.team off base hd) := by
  simp only [winiFrom, hareas, hsettle]

theorem exec_wini_format {h : Head} {s s1 : State} {gid off : Nat} {g : Group} {tm : Team} :
    let v := paramValues g h
    Clear (winiShape h) s gid g h → s.listHeld gid g.team = false → OnScratch s gid g h (g.getS (scalNum h.a)) 64 64 off s1 tm →
    winiBad v.1 v.2.1 v.2.2.1 v.2.2.2 = true →
    exec (.wini h) s = .next (trapAt s gid g cFormat ((g.parts h.guard).map fun l => (l, g.getS (scalNum h.a)))) := by
  intro v hc hheld ho hbad
  exact issue_trap (sh := fun _ => winiShape h) hc ((outsideTx_eq ho.2.1 _ s).trans ((wini_body hheld ho _).trans (if_pos hbad)))

theorem exec_wini {h : Head} {s s1 s2 : State} {gid off hd : Nat} {g : Group} {tm : Team} :
    let v := paramValues g h
    Clear (winiShape h) s gid g h → s.listHeld gid g.team = false → OnScratch s gid g h (g.getS (scalNum h.a)) 64 64 off s1 tm →
    winiBad v.1 v.2.1 v.2.2.1 v.2.2.2 = false → winiHeader v.1 v.2.1 v.2.2.1 v.2.2.2 = hd →
    s1.wlAreas g (s1.spaceBase g.core 1) hd = none → s1.settleWl (plainCtx (winiShape h) gid g h s.clock) hd = some s2 →
    exec (.wini h) s = .next (ran (winiShape h) s gid g h (s2.initList g.team off (s1.spaceBase g.core 1) hd)) := by
  rintro v hc hheld ho hbad rfl hareas hsettle
  refine issue_done (sh := fun _ => winiShape h) hc ((outsideTx_eq ho.2.1 _ s).trans ((wini_body hheld ho _).trans
    ((if_neg (by rw [Bool.not_eq_true]; exact hbad)).trans (winiFrom_ready hareas hsettle))))

section
variable {s s2 : State} {gid : Nat} {g : Group} {h : Head} {w : Wl}

theorem exec_wpush_full (hc : Clear (wpushShape h) s gid g h) (hw : OnWorklist (wpushShape h) s gid g h w s2)
    (hfull : wlCap w.hd < w.items + (g.parts h.guard).length) :
    exec (.wpush h) s = .next (trapAt s gid g cWlFull ((g.parts h.guard).map fun l => (l, g.getS (scalNum h.a)))) :=
  issue_trap (sh := fun _ => wpushShape h) hc ((outsideTx_onList hw _).trans (if_pos hfull))

theorem exec_wpush {w1 : Wl} {s3 s4 : State} {xs : List W32} (hc : Clear (wpushShape h) s gid g h)
    (hw : OnWorklist (wpushShape h) s gid g h w s2) (hroom : w.items + (g.parts h.guard).length ≤ wlCap w.hd)
    (hrel : s2.releaseAll gid (g.parts h.guard) allColours 1 true = some s3)
    (hpush : s3.pushItems (wlEng (plainCtx (wpushShape h) gid g h s.clock) s3) (g.getS (scalNum h.a)) w
      ((g.parts h.guard).map fun l => BitVec.ofNat 32 (srcB (wpushShape h) g h l)) = .ok s4 w1 xs) :
    exec (.wpush h) s = .next (ran (wpushShape h) s gid g h
      ((s4.modTeam g.team fun t => t.scrStore w1.at' (leBytes 64 w1.header)).dropGot (wlEng (plainCtx (wpushShape h) gid g h s.clock) s3).op)) := by
  refine issue_done (sh := fun _ => wpushShape h) hc ((outsideTx_onList hw _).trans ((if_neg (Nat.not_lt.2 hroom)).trans ?_))
  rw [items_srcB] at hpush
  simp only [plainCtx_ps, plainCtx_gid, hrel]
  exact congrArg (wlEffect _ s3 · _) hpush

theorem exec_wpop {w1 : Wl} {s3 : State} {xs : List W32} (hc : Clear (wpopShape h) s gid g h) (hw : OnWorklist (wpopShape h) s gid g h w s2) :
    let n := min (g.parts h.guard).length w.items
    let got := (g.parts h.guard).take n
    s2.popItems (wlEng (plainCtx (wpopShape h) gid g h s.clock) s2) (g.getS (scalNum h.a)) w n = .ok s3 w1 xs →
    let s4 := s3.modTeam g.team fun t => t.scrStore w1.at' (leBytes 64 w1.header)
    exec (.wpop h) s = .next (ran (wpopShape h) s gid g h
      (((if n = 0 then s4 else s4.acquireAt g.core).modGroup gid fun g1 =>
        ((g1.modLanes got fun l ln =>
            writeOp g (opndOf (wpopShape h).d) h.d l ((xs.getD ((g.parts h.guard).findIdx (· == l)) 0).setWidth 64) ln).setFlags
          (g.parts h.guard) (h.mods.toNat % 8) fun l => got.contains l).setS (scalNum h.b) (BitVec.ofNat 64 n)).dropGot
        (wlEng (plainCtx (wpopShape h) gid g h s.clock) s2).op)) := by
  intro n got hpop s4
  exact issue_done (sh := fun _ => wpopShape h) hc ((outsideTx_onList hw _).trans (congrArg (wlEffect _ s2 · _) hpop))

theorem exec_wins_format (hc : Clear (winsShape h) s gid g h) (hw : OnWorklist (winsShape h) s gid g h w s2) (hset : wlHlog w.hd = 0) :
    exec (.wins h) s = .next (trapAt s gid g cFormat ((g.parts h.guard).map fun l => (l, g.getS (scalNum h.a)))) :=
  issue_trap (sh := fun _ => winsShape h) hc ((outsideTx_onList hw _).trans (if_pos hset))

/-- The set or the list has no room for the values that `acc` lists (R395). -/
theorem wins_full_iff {w : Wl} {acc : List (Nat × W32)} :
    ((!acc.isEmpty && decide (2 ^ wlHlog w.hd ≤ w.hcnt + acc.length)) || decide (wlCap w.hd < w.items + acc.length)) = true ↔
      (acc ≠ [] ∧ 2 ^ wlHlog w.hd ≤ w.hcnt + acc.length) ∨ wlCap w.hd < w.items + acc.length := by
  simp [Bool.or_eq_true, Bool.and_eq_true]

/-- What wins does once the set has been searched and its values inserted: `r` is the outcome of the insertion (R395). -/
def winsFrom (h : Head) (c : Ctx) (s0 : State) (va : W64) (w : Wl) (r : State × Probe × List (Nat × W32)) : Effect :=
  let lanes (cause : Nat) (a : W64) : Effect := .trap cause (c.ps.map fun l => (l, a))
  match r with
  | (_, .full, _) => lanes cWlFull va
  | (_, .poison, _) => .poison (c.ps.map fun l => (l, w.base + BitVec.ofNat 64 (wlHoff w.hd)))
  | (s1, _, acc) =>
    if (!acc.isEmpty && decide (2 ^ wlHlog w.hd ≤ w.hcnt + acc.length)) || decide (wlCap w.hd < w.items + acc.length) then
      lanes cWlFull va
    else
      wlEffect c s0 (s1.pushItems (wlEng c s1) va { w with hcnt := w.hcnt + acc.length } (acc.map Prod.snd)) fun s _ _ =>
        s.modGroup c.gid fun g => g.setFlags c.ps (clsNum h.d) fun l => (acc.lookup l).isSome

theorem winsFrom_of_inserted {c : Ctx} {s0 s1 : State} {va : W64} {w : Wl} {pr : Probe} {acc : List (Nat × W32)} (hf : pr ≠ .full)
    (hp : pr ≠ .poison) :
    winsFrom h c s0 va w (s1, pr, acc) =
      if (!acc.isEmpty && decide (2 ^ wlHlog w.hd ≤ w.hcnt + acc.length)) || decide (wlCap w.hd < w.items + acc.length) then
        .trap cWlFull (c.ps.map fun l => (l, va))
      else
        wlEffect c s0 (s1.pushItems (wlEng c s1) va { w with hcnt := w.hcnt + acc.length } (acc.map Prod.snd)) fun s _ _ =>
          s.modGroup c.gid fun g => g.setFlags c.ps (clsNum h.d) fun l => (acc.lookup l).isSome := by
  cases pr with
  | full => exact absurd rfl hf
  | poison => exact absurd rfl hp
  | free i => rfl
  | dup => rfl

theorem wins_body {s3 : State} (hw : OnWorklist (winsShape h) s gid g h w s2) (hset : wlHlog w.hd ≠ 0)
    (hrel : s2.releaseAll gid (g.parts h.guard) allColours 1 true = some s3) :
    ∃ body, (∀ s, exec (.wins h) s = issue (fun _ => winsShape h) h body s) ∧
      body (plainCtx (winsShape h) gid g h s.clock) s =
        winsFrom h (plainCtx (winsShape h) gid g h s.clock) s3 (g.getS (scalNum h.a)) w
          (s3.insertAll g.team w.hd ((g.parts h.guard).map fun l => (l, BitVec.ofNat 32 (srcB (winsShape h) g h l)))) := by
  refine ⟨_, fun _ => rfl, (outsideTx_onList hw _).trans ((if_neg hset).trans ?_)⟩
  simp only [plainCtx_ps, plainCtx_gid, hrel, srcB, BitVec.ofNat_toNat]
  rfl

theorem exec_wins_full {s3 s4 : State} {pr : Probe} {acc : List (Nat × W32)} (hc : Clear (winsShape h) s gid g h)
    (hw : OnWorklist (winsShape h) s gid g h w s2) (hset : wlHlog w.hd ≠ 0)
    (hrel : s2.releaseAll gid (g.parts h.guard) allColours 1 true = some s3)
    (hins : s3.insertAll g.team w.hd ((g.parts h.guard).map fun l => (l, BitVec.ofNat 32 (srcB (winsShape h) g h l))) = (s4, pr, acc))
    (hp : pr ≠ .poison)
    (hfull : pr = .full ∨ (acc ≠ [] ∧ 2 ^ wlHlog w.hd ≤ w.hcnt + acc.length) ∨ wlCap w.hd < w.items + acc.length) :
    exec (.wins h) s = .next (trapAt s gid g cWlFull ((g.parts h.guard).map fun l => (l, g.getS (scalNum h.a)))) := by
  obtain ⟨body, hi, hb⟩ := wins_body hw hset hrel
  rw [hi]
  refine issue_trap (sh := fun _ => winsShape h) hc (hb.trans ?_)
  rw [hins]
  by_cases hf : pr = .full
  · rw [hf]; rfl
  · rw [winsFrom_of_inserted hf hp, if_pos (wins_full_iff.2 (hfull.resolve_left hf))]; rfl

theorem exec_wins {w1 : Wl} {s3 s4 s5 : State} {pr : Probe} {acc : List (Nat × W32)} {xs : List W32} (hc : Clear (winsShape h) s gid g h)
    (hw : OnWorklist (winsShape h) s gid g h w s2) (hset : wlHlog w.hd ≠ 0)
    (hrel : s2.releaseAll gid (g.parts h.guard) allColours 1 true = some s3)
    (hins : s3.insertAll g.team w.hd ((g.parts h.guard).map fun l => (l, BitVec.ofNat 32 (srcB (winsShape h) g h l))) = (s4, pr, acc))
    (hf : pr ≠ .full) (hp : pr ≠ .poison) (hroom : acc ≠ [] → w.hcnt + acc.length < 2 ^ wlHlog w.hd)
    (hcap : w.items + acc.length ≤ wlCap w.hd)
    (hpush : s4.pushItems (wlEng (plainCtx (winsShape h) gid g h s.clock) s4) (g.getS (scalNum h.a)) { w with hcnt := w.hcnt + acc.length }
      (acc.map Prod.snd) = .ok s5 w1 xs) :
    exec (.wins h) s = .next (ran (winsShape h) s gid g h
      (((s5.modTeam g.team fun t => t.scrStore w1.at' (leBytes 64 w1.header)).modGroup gid fun g1 =>
        g1.setFlags (g.parts h.guard) (clsNum h.d) fun l => (acc.lookup l).isSome).dropGot
        (wlEng (plainCtx (winsShape h) gid g h s.clock) s3).op)) := by
  obtain ⟨body, hi, hb⟩ := wins_body hw hset hrel
  rw [hi]
  have hfits : ¬ ((!acc.isEmpty && decide (2 ^ wlHlog w.hd ≤ w.hcnt + acc.length)) || decide (wlCap w.hd < w.items + acc.length)) = true := by
    rw [wins_full_iff]
    rintro (⟨hne, hge⟩ | hgt)
    · exact absurd (hroom hne) (Nat.not_lt.2 hge)
    · exact absurd hcap (Nat.not_le.2 hgt)
  refine issue_done (sh := fun _ => winsShape h) hc (hb.trans ?_)
  rw [hins, winsFrom_of_inserted hf hp, if_neg hfits]
  exact congrArg (wlEffect _ s3 · _) hpush

theorem exec_wstat (hc : Clear (wstatShape h) s gid g h) (hw : OnWorklist (wstatShape h) s gid g h w s2) :
    exec (.wstat h) s = .next (ran (wstatShape h) s gid g h (s2.modGroup gid fun g1 => g1.setS (scalNum h.d)
      (BitVec.ofNat 64 (match h.mods.toNat with | 0 => w.items | 1 => w.hcnt | 2 => w.spilled | _ => wlCap w.hd)))) :=
  issue_done (sh := fun _ => wstatShape h) hc (outsideTx_onList hw _)

/-- topk writes each lane's selection (R400, R401). -/
theorem exec_topk :
    let n := topkN g h
    let words (l : Nat) : List W32 := topkWords (topkK h) (topkBest h.ty (h.mods.getLsbD 3) (topkK h)
      ((List.range n).map fun i => (g.lane l).row (rowOf g h.a l + i)))
    Clear (topkShape h g) s gid g h → 1 ≤ n → n ≤ 256 → (∀ r part rsv, h.a = .row r part rsv → r.toNat + n ≤ g.nrows) →
    exec (.topk h) s = .next (ran (topkShape h g) s gid g h (whereLanes g h s (s.modGroup gid fun g1 => g1.modLanes (g.parts h.guard) fun l ln =>
      { ln.setRows (rowOf g h.d l) (words l) with
        poison := ln.poison.filter fun q => !decide (rowOf g h.d l ≤ q ∧ q < rowOf g h.d l + (words l).length) }))) := by
  intro n words hc h1 h256 hspan
  have hcount : ¬ (n = 0 ∨ 256 < n) := by omega
  have hinside : ¬ (match h.a with | .row r _ _ => decide (g.nrows < r.toNat + n) | _ => false) = true := by
    cases ha : h.a with
    | row r part rsv =>
      have hle := hspan r part rsv ha
      rw [decide_eq_true_eq]
      omega
    | _ => exact Bool.false_ne_true
  exact issue_done (sh := topkShape h) hc (ite_whereLanes fun _ => (if_neg hcount).trans ((if_neg hinside).trans rfl))

end

/-- Settles O25: the list that A names is read, its operation run, and its header written. -/
theorem worklistResults : Obligations.WorklistResults :=
  fun _ _ _ _ => ⟨fun _ _ _ => exec_wini_format, fun _ _ => exec_wpush_full, fun _ _ => exec_wins_format,
    fun _ _ _ _ _ _ => exec_wins_full, fun _ _ _ _ _ => exec_wini, fun _ _ _ _ _ _ => exec_wpush, fun _ _ _ _ _ => exec_wpop,
    fun _ _ _ _ _ _ _ _ _ => exec_wins, fun _ _ => exec_wstat, exec_topk⟩

end Sys2Proof
end

section
/-!
SUPPORT. The system instructions, caps and pmc, and the instructions on translations (15_traps.md R456 to R480, 16_tenancy.md R498, R499,
08_memory.md R256, R280 to R286).
-/

namespace Sys2Proof

open Machine

/-! ## sys, bkpt and sret -/

section
variable {h : Head} {s : State} {gid : Nat} {g : Group}

theorem exec_sys :
    let sh : Shape := { sysShape 0 h with b := fScalRaw, region := true }
    Clear sh s gid g h → NoTx g h →
    exec (.sys h) s = .next
      (if (g.parts h.guard).isEmpty then ran sh s gid g h s
       else if g.sup then trapAt s gid g cSys (sameVal (g.parts h.guard) (readRaw g h.b))
       else (ran sh s gid g h s).takeTrap gid
         { cause := cSys, lanes := sameVal (g.parts h.guard) (readRaw g h.b), tpc := g.pc + headLen h }) := by
  intro sh hc hn
  by_cases he : (g.parts h.guard).isEmpty = true
  · rw [if_pos he]
    exact issue_done (sh := fun _ => sh) hc ((outsideTx_eq hn _ s).trans (if_pos he))
  · rw [if_neg he]
    exact issue_after (sh := fun _ => sh) hc ((outsideTx_eq hn _ s).trans (if_neg he))

theorem exec_bkpt :
    let sh : Shape := { sysShape 2 h with b := fImm, region := true }
    Clear sh s gid g h →
    exec (.bkpt h) s = .next
      (if (g.parts h.guard).isEmpty then ran sh s gid g h s
       else trapAt s gid g cBkpt (sameVal (g.parts h.guard) (readRaw g h.b))) := by
  intro sh hc
  by_cases he : (g.parts h.guard).isEmpty = true
  · rw [if_pos he]
    exact issue_done (sh := fun _ => sh) hc (if_pos he)
  · rw [if_neg he]
    exact issue_trap (sh := fun _ => sh) hc (if_neg he)

end

/-- Settles O26: each of the three acts where a lane participates and passes where none does. -/
theorem systemTrapResults : Obligations.SystemTrapResults := by
  intro h s gid g
  refine ⟨exec_sys, exec_bkpt, fun hc => ⟨fun he => ?_, fun hp hpc => ?_⟩⟩
  · exact issue_done (sh := fun _ => { sysShape 1 h with always := true, super := true }) hc (if_pos (List.isEmpty_iff.2 he))
  · rw [exec_sret hc hp, returnTrap_of_aligned hpc]

/-! ## sigchk and ireg -/

section
variable (g : Group)

@[simp] theorem checkNest_ractive : g.checkNest.ractive = g.ractive := by unfold Group.checkNest; split <;> rfl
@[simp] theorem checkNest_team : g.checkNest.team = g.team := by unfold Group.checkNest; split <;> rfl
@[simp] theorem checkNest_core : g.checkNest.core = g.core := by unfold Group.checkNest; split <;> rfl
@[simp] theorem checkNest_rentry : g.checkNest.rentry = g.rentry := by unfold Group.checkNest; split <;> rfl

end

section
variable {s : State} {gid : Nat} {g : Group} {h : Head} {sh : Shape} {imm : BitVec 19}

theorem sigCheck_match (hsig : g.checkNest.sig.extractLsb' 0 19 = imm) (herr : g.checkNest.nesterr = false) :
    sigCheck imm (plainCtx sh gid g h s.clock) s = .done (s.modGroup gid Group.resetSig) :=
  if_pos ⟨hsig, by simp [herr]⟩

theorem sigCheck_mismatch (hbad : ¬ (g.checkNest.sig.extractLsb' 0 19 = imm ∧ g.checkNest.nesterr = false)) (hidle : g.checkNest.ractive = true → g.checkNest.busy = []) :
    sigCheck imm (plainCtx sh gid g h s.clock) s =
      if g.checkNest.ractive && decide (g.checkNest.rcnt.toNat < g.checkNest.rrlim.toNat) then
        .stop (failOrRestart s gid g.checkNest (s.asidOf g.checkNest) fun s => s)
      else .after (s.modGroup gid fun g => (if g.ractive then g.endRegion else g).resetSig) cSig (sameVal g.wordLanes (sigTval g.checkNest)) := by
  have hbad' : ¬ (g.checkNest.sig.extractLsb' 0 19 = imm ∧ (!g.checkNest.nesterr) = true) := by simpa using hbad
  have hgo : ¬ (g.checkNest.ractive && !g.checkNest.busy.isEmpty) = true := by
    simpa using hidle
  exact (if_neg hbad').trans (if_neg hgo)

end

/-- A mismatch in an open region with restarts left, and nothing awaited, restarts it (R471). -/
theorem failOrRestart_restarts {s : State} {gid asid : Nat} {g : Group} {fail : State → State} (hr : g.ractive = true)
    (hlim : g.rcnt.toNat < g.rrlim.toNat) (hidle : g.busy = []) :
    failOrRestart s gid g asid fail =
      (s.setGroup gid (g.dropLoaded.restart s.clock)).report (dieOf g.core) 14 asid g.core (g.rentry.toNat % 2 ^ 52) := by
  simp only [failOrRestart, hr, hidle, List.isEmpty_nil, Bool.not_true, Bool.false_eq_true, if_false, ge_iff_le, Nat.not_le.2 hlim]

/-- Settles O27: sigchk by its mode, its match and its region. -/
theorem signatureResults : Obligations.SignatureResults := by
  intro h s gid g
  refine ⟨?_, completes_of (fun _ => rfl) fun s gid g _ => ite_whereLanes fun _ => rfl⟩
  intro imm himm sh g0 hc
  have hrun : ∀ s, exec (.sigchk h) s = issue (fun _ => sh) h (fun c s => if c.g.sup then .done s else sigCheck imm c s) s := by
    intro s
    show execSigchk h s = _
    simp only [execSigchk, himm]
    rfl
  obtain ⟨⟨⟨-, hg⟩, -⟩, -⟩ := id hc
  refine ⟨fun hs => ?_, fun hs hsig herr => ?_, fun hs hbad => ⟨fun hr hlim hidle => ?_, fun hno => ?_⟩⟩
  · rw [hrun]
    exact issue_done (sh := fun _ => sh) hc (if_pos hs)
  · rw [hrun]
    exact issue_done (sh := fun _ => sh) hc ((if_neg (ne_true_of_eq_false hs)).trans (sigCheck_match hsig herr))
  · have hrestarts : (g0.ractive && decide (g0.rcnt.toNat < g0.rrlim.toNat)) = true := by simp [hr, hlim]
    rw [hrun]
    refine issue_stop (sh := fun _ => sh) hc ((if_neg (ne_true_of_eq_false hs)).trans ((sigCheck_mismatch hbad fun _ => hidle).trans
      ((if_pos hrestarts).trans (congrArg Effect.stop ?_))))
    rw [failOrRestart_restarts hr hlim hidle]
    simp only [g0, State.asidOf, checkNest_team, checkNest_core, checkNest_rentry]
  · have hidle : g0.ractive = true → g0.busy = [] := fun hr => (hno.resolve_left (by simp [hr])).2
    have hfails : ¬ (g0.ractive && decide (g0.rcnt.toNat < g0.rrlim.toNat)) = true := by
      rw [Bool.and_eq_true, decide_eq_true_eq]
      rintro ⟨hr, hlt⟩
      exact absurd (hno.resolve_left (by simp [hr])).1 (Nat.not_le.2 hlt)
    have hreset : (s.modGroup gid fun g1 => (if g1.ractive then g1.endRegion else g1).resetSig) =
        s.modGroup gid fun g1 => (if g0.ractive then g1.endRegion else g1).resetSig := by
      rw [State.modGroup_of s hg, State.modGroup_of s hg, checkNest_ractive]
    rw [hrun, ← hreset]
    exact (issue_after (sh := fun _ => sh) hc ((if_neg (ne_true_of_eq_false hs)).trans ((sigCheck_mismatch hbad hidle).trans (if_neg hfails)))).trans
      (congrArg _ (if_neg (ne_true_of_eq_false hs)))

/-! ## halt -/

/-- Settles O28: the masked events of the die decide. -/
theorem haltResults : Obligations.HaltResults := by
  constructor
  · intro h s gid g sh hc
    by_cases he : (g.parts h.guard).isEmpty = true
    · rw [if_pos he]
      exact issue_done (sh := fun _ => sh) hc (if_pos he)
    · rw [if_neg he]
      by_cases hev : s.wakeEvents g.core ≠ 0
      · rw [if_pos hev]
        exact issue_done (sh := fun _ => sh) hc ((if_neg he).trans (if_pos hev))
      · rw [if_neg hev]
        exact issue_block (sh := fun _ => sh) hc ((if_neg he).trans (if_neg hev))
  · intro s gid g dst hg hw hev hlive
    show execHaltWake gid s = _
    simp only [execHaltWake, hg, hw, ne_eq, hev, not_false_eq_true, decide_true, hlive, Bool.not_false, Bool.and_self, if_true]

/-! ## Supervisor registers -/

/-- Settles O29: by the register that the field names, and its scope. -/
theorem supervisorRegisterResults : Obligations.SupervisorRegisterResults := by
  intro h
  refine ⟨completes_of (fun _ => rfl) fun s gid g _ => ite_whereLanes fun _ => ?_, completes_of (fun _ => rfl) fun s gid g _ => ite_whereLanes fun _ => ?_⟩
  · cases hr : crOf h h.a with
    | none => rfl
    | some r =>
      by_cases hl : (ctlLane r).isSome = true
      · simp only [hl, if_true, inLanes_toNat]; rfl
      · simp only [hl]; rfl
  · cases hr : crOf h h.d with
    | none => rfl
    | some r =>
      by_cases hl : (ctlLane r).isSome = true
      · simp only [hl, if_true]; rfl
      · simp only [hl]; rfl

/-! ## caps and pmc -/

/-- Settles O30: pmc's range and permission are the two tests of its effect. -/
theorem capabilityResults : Obligations.CapabilityResults := by
  intro h
  refine ⟨completes_of (fun _ => rfl) fun s gid g _ => ite_whereLanes fun _ => rfl, completes_of (fun _ => rfl) fun s gid g hpre => ite_whereLanes fun _ => ?_⟩
  obtain ⟨hin, hmay⟩ := hpre
  refine (if_neg (Nat.not_le.2 hin)).trans (if_pos ?_)
  simpa [Bool.or_eq_true, Bool.and_eq_true, and_assoc] using hmay

end Sys2Proof
end

section
/-!
SUPPORT. Translations, ownership and memory events (08_memory.md R256, R273 to R286, 17_programs_rows.md R500, R501, 15_traps.md R473).
-/

namespace Sys2Proof

open Machine

/-! ## Translations and ownership -/

theorem completes_ownset (h : Head) : Completes (.ownset h) (fun _ => ownsetShape h) h
    (fun s _ g => 1 ≤ (readNum g h.b).toNat ∧ (readNum g h.b).toNat ≤ 512 ∧ (readNum g h.a).toNat % 2 ^ 21 = 0 ∧
      ∀ k < (readNum g h.b).toNat, s.hasRegion ((readNum g h.a).toNat + k * 2 ^ 21) = true) fun s gid g =>
    whereLanes g h s (s.postToken gid
      (.ownset gid (scalNum h.d) (regionOf (readNum g h.a).toNat) (readNum g h.b).toNat (h.mods.extractLsb' 0 2).toNat (h.mods.getLsbD 2)) h.d) := by
  refine completes_of (fun _ => rfl) fun s gid g hpre => ite_whereLanes fun _ => ?_
  obtain ⟨h1, h512, halign, hregions⟩ := hpre
  have hcount : ¬ countBad (readNum g h.b) = true := by
    rw [countBad, decide_eq_true_eq]
    omega
  have hall : ((List.range (readNum g h.b).toNat).map fun k => (readNum g h.a).toNat + k * 2 ^ 21).find? (fun pa => !s.hasRegion pa) = none := by
    rw [List.find?_eq_none]
    intro pa hpa
    obtain ⟨k, hk, rfl⟩ := List.mem_map.1 hpa
    rw [hregions k (List.mem_range.1 hk)]
    exact Bool.false_ne_true
  simp only [plainCtx_g, hcount, halign, hall, ne_eq, not_true_eq_false, Bool.false_eq_true, if_false]
  rfl

theorem exec_tlbiComplete {s : State} {op gid dst : Nat} {drops : List TlbEntry} (hop : klookup s.ops op = some (.tlbi gid dst drops))
    (hgroups : (s.groups.any fun e => s.groupUses op drops e.2) = false)
    (hops : (s.ops.any fun e => decide (e.1 < op) && s.opUses e.1 drops e.2) = false) :
    exec (.tlbiComplete op) s = .next ((s.writeToken gid op dst 1).delOp op) := by
  show execTlbiComplete op s = _
  simp only [execTlbiComplete, hop, hgroups, hops, Bool.or_self, Bool.false_eq_true, if_false]

theorem exec_ownsetComplete {s : State} {op gid dst first count own : Nat} {ver : Bool}
    (hop : klookup s.ops op = some (.ownset gid dst first count own ver)) :
    let asid := match klookup s.groups gid with | some g => s.asidOf g | none => 0
    exec (.ownsetComplete op) s =
      .next ((((List.range count).map (first + ·)).foldl (fun t r => t.ownRegion own ver asid r) s).writeToken gid op dst 1 |>.delOp op) := by
  show execOwnsetComplete op s = _
  simp only [execOwnsetComplete, hop] <;> rfl

theorem exec_pageWalk {s : State} {core asid gid : Nat} {va : W64} {e : TlbEntry} {g : Group} (hg : klookup s.groups gid = some g)
    (hcore : g.core = core) (hasid : s.asidOf g = asid) (hva : va.toNat < 2 ^ 54) (hfind : s.find (.core core) asid va.toNat = .entry e true)
    (hwait : s.peekWaits (.core core) asid va.toNat .read = false) :
    exec (.pageWalk core asid va) s = .next (((s.walkTouch (dieOf core) asid va.toNat).countCore core 0x10 asid).installTlb (.core core) e) := by
  have hany : (s.groups.any fun e => e.2.core == core && s.asidOf e.2 == asid) = true :=
    List.any_eq_true.2 ⟨(gid, g), mem_of_klookup hg, by simp [hcore, hasid]⟩
  show execPageWalk core asid va s = _
  simp only [execPageWalk, hany, hva, hfind, hwait, decide_true, Bool.and_self, Bool.false_eq_true, if_true, if_false]

theorem exec_ownershipTransfer {s : State} {region asid : Nat} (hfor : s.transferFor region = some asid)
    (hneeds : s.needsTransfer true (region * 2 ^ 21) = true)
    (hhosts : ∀ e ∈ s.hosts, e.2.waitRd.isSome = true → e.2.inRegion region = false) :
    exec (.ownershipTransfer region) s = .next (s.transfer region asid) := by
  have hfree : (s.hosts.any fun e => e.2.waitRd.isSome && e.2.inRegion region) = false := by
    simpa [List.any_eq_false] using hhosts
  show execOwnershipTransfer region s = _
  simp only [execOwnershipTransfer, hfor, hneeds, hfree, Bool.not_false, Bool.and_self, if_true]

/-- Settles O31: each instruction's checks pass, and each event finds what it ends. -/
theorem translationResults : Obligations.TranslationResults :=
  ⟨fun _ => completes_of (fun _ => rfl) fun _ _ _ _ => ite_whereLanes fun _ => rfl, fun _ _ _ _ _ => exec_tlbiComplete,
    fun _ => completes_of (fun _ => rfl) fun _ _ _ _ => ite_whereLanes fun _ => rfl, completes_ownset,
    fun _ _ _ _ _ _ _ _ => exec_ownsetComplete, fun _ _ _ _ _ _ _ => exec_pageWalk, fun _ _ _ => exec_ownershipTransfer⟩

/-! ## Memory events -/

section
variable {s : State}

theorem exec_l2RequestDeferred {k : Nat} {r : L2Req} (hr : klookup s.mem.l2q k = some r) (hw : r.waiting = true)
    (hfull : s.sliceFull (r.sector * 256) = false) (hbehind : s.mem.l2q.any (r.behind k) = false) :
    let s1 := s.countHub (homeHub (r.sector * 256)) 0x22 (some r.asid) (s.hubClock - r.since)
    exec (.l2RequestDeferred k) s = .next { s1 with mem := { s1.mem with l2q := kput s.mem.l2q k { r with waiting := false } } } := by
  intro s1
  have hmem : s1.mem = s.mem := State.countHub_mem ..
  show execL2RequestDeferred k s = _
  simp only [execL2RequestDeferred, hr, hw, hfull, hbehind, Bool.not_false, Bool.and_self, if_true, hmem]
  rfl

theorem exec_l2Fill {sector slot gid : Nat} {g : Group} (hfor : s.fillFor sector slot = some gid) (hg : klookup s.groups gid = some g) :
    exec (.l2Fill sector slot) s = .next (s.fillSector sector slot (s.asidOf g)) := by
  show execL2Fill sector slot s = _
  simp only [execL2Fill, hfor, hg]

theorem exec_parityRecovery {p : ParityFault} (hwords : p.words.length = 64) (hparity : p.parity.length = 64) (hindex : p.index < 64)
    (hfails : wordFails p p.index = true) :
    exec (.parityRecovery p) s = .next
      (if wordRecovers p then s.report p.unit (parityChan p.array) p.asid p.src p.addr
       else (s.poisonAt p).report p.unit (parityChan p.array + 1) p.asid p.src p.addr) := by
  have hok : ¬ (p.words.length ≠ 64 ∨ p.parity.length ≠ 64 ∨ 64 ≤ p.index ∨ (!wordFails p p.index) = true) := by
    simp [hwords, hparity, hindex, hfails]
  refine (if_neg hok).trans ?_
  split <;> rfl

theorem exec_extent_offer {base size : Nat} (hfits : s.extentFits base size = true) :
    exec (.cxlExtentEvent (.offer base size)) s =
      .next (({ s with mem := { s.mem with extents := s.mem.extents ++ [{ base := base, size := size, st := 0 }] } } : State).allDies 4) :=
  if_pos hfits

theorem exec_extent_releaseReq {e : Extent} (he : e ∈ s.mem.extents) (hst : e.st = 0) :
    exec (.cxlExtentEvent (.releaseReq e.base)) s = .next ((s.setExtent e.base 0 1).allDies 4) :=
  if_pos (List.any_eq_true.2 ⟨e, he, by simp [hst]⟩)

end

/-- Settles O32: each event's conditions are those that it tests. -/
theorem memoryEventResults : Obligations.MemoryEventResults := fun _ =>
  ⟨fun _ _ => exec_l2RequestDeferred, fun _ _ _ _ => exec_l2Fill, fun _ => exec_parityRecovery, fun _ _ => exec_extent_offer,
    fun _ => exec_extent_releaseReq, fun _ => rfl⟩

end Sys2Proof
end

section
/-!
SUPPORT. Packets, flits, links and switch planes (13_engines.md R416 to R429).
-/

namespace Sys2Proof

open Machine

/-! ## Flits -/

section
variable {s : State} {k : Nat} {f : Flit}

theorem execFlitReceive_bad {r : RawFlit} (hup : linkUp (s.link k) = true) (hr : flitRead r = none) :
    exec (.flitReceive k r) s = .next (s.setLink k { (s.link k).addControl with
      crcerr := if (s.link k).crcerr = 255 then 255 else (s.link k).crcerr + 1 }) := by
  show execFlitReceive k r s = _
  simp only [execFlitReceive, hup, hr, Bool.not_true, Bool.false_eq_true, if_false]

theorem execFlitReceive_good {r : RawFlit} (hup : linkUp (s.link k) = true) (hr : flitRead r = some f) :
    exec (.flitReceive k r) s = .next (s.takeFlit k f) := by
  show execFlitReceive k r s = _
  simp only [execFlitReceive, hup, hr, Bool.not_true, Bool.false_eq_true, if_false]

theorem takeFlit_idle (hb : f.body = .idle) : s.takeFlit k f = s.setLink k ((s.link k).heard f) := by
  simp only [State.takeFlit, hb]

theorem takeFlit_ack (hb : f.body = .control) (hav : f.av = true) :
    s.takeFlit k f = (s.setLink k ((s.link k).heard f)).replayLink k := by
  simp only [State.takeFlit, hb, hav, if_true]

/-- A header or data flit is taken in sequence or asked for again. -/
theorem takeFlit_data (hb : f.body ≠ .idle ∧ f.body ≠ .control) :
    s.takeFlit k f =
      if f.seq ≠ (s.link k).rxNext then s.setLink k ((s.link k).heard f).addControl
      else match (((s.link k).heard f).accept f).2 with
        | some p => if s.packetHeld p then s else (s.setLink k (((s.link k).heard f).accept f).1).receive p
        | none => s.setLink k (((s.link k).heard f).accept f).1 := by
  obtain ⟨hidle, hcontrol⟩ := hb
  unfold State.takeFlit
  cases hf : f.body with
  | idle => exact absurd hf hidle
  | control => exact absurd hf hcontrol
  | _ => rfl

end

/-! ## Links -/

section
variable {s : State} {k lane : Nat}

/-- The link with one more lane lost. -/
def lostLane (x : Link) (lane : Nat) : Link := { x with lanebad := x.lanebad ||| BitVec.ofNat 16 (2 ^ lane) }

theorem execLinkLaneLoss_eq (hk : k < 18) (hlane : lane < 16) :
    exec (.linkLaneLoss k lane) s = .next
      (let x := lostLane (s.link k) lane
       let s1 := s.setLink k x
       let used : Nat := if x.state = 1 then x.target else x.state
       if x.state = 2 then s1.setLink k { x with state := 1, wasUp := true, target := halfState lane }
       else if x.state = 1 ∧ x.target = 2 then s1.setLink k { x with target := halfState lane }
       else if (used = 3 ∧ lane < 8) ∨ (used = 4 ∧ 8 ≤ lane) then s1.failLink k else s1) := by
  have hin : ¬ (18 ≤ k ∨ 16 ≤ lane) := by omega
  refine (if_neg hin).trans ?_
  simp only [apply_ite (f := Host.Outcome.next)]
  rfl

end

theorem exec_planePortReport {s : State} {k : Nat} {down : List Nat} (hup : linkUp (s.link k) = true) (hport : s.nodeOn = true → k < 15) :
    ∃ lost : List Outstanding, lost.Sublist s.net.outs ∧ (∀ o ∈ lost, o.via = k ∧ o.dst ∈ down) ∧
    (let s1 : State := { s with net := { s.net with down := kset [] s.net.down k down } }
     let q := (s1.link k).pull down
     exec (.planePortReport k down) s = .next (q.2.foldl (fun t p => t.reroute p)
       (lost.foldl (fun t o => t.settleOut o stRemote []) (s1.setLink k q.1)))) := by
  have hgo : ¬ (!linkUp (s.link k) || (s.nodeOn && decide (15 ≤ k))) = true := by
    simpa [hup] using hport
  refine ⟨_, ?_, ?_, if_neg hgo⟩
  · exact List.filter_sublist
  · intro o ho
    have hkept := (List.mem_filter.1 ho).2
    simp only [Bool.and_eq_true, beq_iff_eq, List.contains_iff_mem] at hkept
    exact ⟨hkept.1.1.1.1, hkept.1.1.1.2⟩

/-! ## Switch planes -/

section
variable {s : State} {plane : Nat} {g : McGroup}

section
variable {p : Packet} (hg : klookup s.net.groups p.group = some g) (hop : p.op = .contribution) (hlen : p.data.length = p.len)
  (hplane : g.pmask.getLsbD plane = true)
include hg hop hlen hplane

/-- A contribution to chunk key `e`, where one is open for it, or to a new one (R424). -/
theorem exec_switchContribution :
    let same (c : McChunk) : Bool := c.plane == plane && c.group == p.group && c.off == p.addr && c.len == p.len
      && decide (c.count < g.members.length)
    let put (k : Nat) (c : McChunk) : State := ({ s with net := { s.net with chunks := kput s.net.chunks k c } } : State).ackPiece p
    exec (.switchContribution plane p) s = .next (match s.net.chunks.find? (fun e => same e.2) with
      | some e => put e.1 { e.2 with sums := List.zipWith switchAdd e.2.sums (chunkElems g.elt p.data), count := e.2.count + 1 }
      | none => put (nextKey s.net.chunks)
          { plane := plane, group := p.group, off := p.addr, len := p.len, sums := chunkElems g.elt p.data, count := 1, key := p.key }) := by
  intro same put
  have hgo : ¬ (p.op ≠ .contribution ∨ p.data.length ≠ p.len ∨ (!g.pmask.getLsbD plane) = true) := by
    simp [hop, hlen, hplane]
  show execSwitchContribution plane p s = _
  simp only [execSwitchContribution, hg]
  rw [if_neg hgo]
  cases s.net.chunks.find? (fun e => same e.2) <;> rfl

end

theorem exec_switchChunkDeliver {k : Nat} {c : McChunk} (hc : klookup s.net.chunks k = some c) (hg : klookup s.net.groups c.group = some g)
    (hplane : c.plane = plane) (hfull : g.members.length ≤ c.count) (hheld : s.deliverHeld g c.off c.len = false) :
    exec (.switchChunkDeliver plane k) s = .next
      (({ s with net := { s.net with chunks := kerase s.net.chunks k } } : State).deliverTo g c.off c.key (chunkBytes g.elt c.sums)) := by
  have hgo : ¬ (c.plane ≠ plane ∨ c.count < g.members.length ∨ s.deliverHeld g c.off c.len = true) := by
    simp [hplane, hfull, hheld]
  show execSwitchChunkDeliver plane k s = _
  simp only [execSwitchChunkDeliver, hc, hg]
  exact if_neg hgo

theorem exec_switchBroadcastDeliver {p : Packet} (hg : klookup s.net.groups p.group = some g) (hop : p.op = .broadcast)
    (hlen : p.data.length = p.len) (hplane : g.pmask.getLsbD plane = true) (hheld : s.deliverHeld g p.addr p.len = false) :
    exec (.switchBroadcastDeliver plane p) s = .next ((s.deliverTo g p.addr p.key p.data).ackPiece p) := by
  have hgo : ¬ (p.op ≠ .broadcast ∨ p.data.length ≠ p.len ∨ (!g.pmask.getLsbD plane) = true ∨ s.deliverHeld g p.addr p.len = true) := by
    simp [hop, hlen, hplane, hheld]
  show execSwitchBroadcastDeliver plane p s = _
  simp only [execSwitchBroadcastDeliver, hg]
  exact if_neg hgo

end

/-- Settles O33: each event by the cases of its link, its flit or its chunk. -/
theorem fabricResults : Obligations.FabricResults := by
  refine ⟨?_, ?_, ?_, ?_, fun _ _ _ => exec_planePortReport, ?_⟩
  case refine_1 =>
    intro s p hheld
    exact congrArg Host.Outcome.next (if_neg (ne_true_of_eq_false hheld))
  case refine_2 =>
    intro s k r hup
    refine ⟨execFlitReceive_bad hup, fun f hr => ?_⟩
    intro y
    rw [execFlitReceive_good hup hr]
    refine ⟨fun hb => by rw [takeFlit_idle hb], fun hb hav => by rw [takeFlit_ack hb hav],
      fun hb hseq => by rw [takeFlit_data hb, if_pos hseq], fun hb hseq => ⟨fun hp => ?_, fun p hp hheld => ?_⟩⟩
    · rw [takeFlit_data hb, if_neg (not_not_intro hseq)]
      simp only [hp, y]
    · rw [takeFlit_data hb, if_neg (not_not_intro hseq)]
      simp only [hp, hheld, y, Bool.false_eq_true, if_false]
  case refine_3 =>
    intro s k lane hk hlane x
    rw [execLinkLaneLoss_eq hk hlane]
    refine ⟨fun h2 => ?_, fun h1 ht => ?_, fun h34 => ?_⟩
    · exact congrArg Host.Outcome.next (if_pos h2)
    · exact congrArg Host.Outcome.next ((if_neg (by rw [show (lostLane (s.link k) lane).state = 1 from h1]; omega)).trans (if_pos ⟨h1, ht⟩))
    · have h1 : ¬ x.state = 1 := by omega
      have h2 : ¬ x.state = 2 := by omega
      refine congrArg Host.Outcome.next ((if_neg h2).trans ((if_neg fun h => h1 h.1).trans ?_))
      rw [if_neg (show ¬ (lostLane (s.link k) lane).state = 1 from h1)]
      rfl
  case refine_4 =>
    intro s k far h1
    exact ⟨if_neg (not_not_intro h1), if_neg (not_not_intro h1)⟩
  case refine_5 =>
    intro s plane g
    refine ⟨fun p hg hop hlen hplane => ?_, fun _ _ => exec_switchChunkDeliver, fun _ => exec_switchBroadcastDeliver⟩
    intro same put
    rw [exec_switchContribution hg hop hlen hplane]
    refine ⟨fun hnone => ?_, fun e he => ?_⟩
    · rw [List.find?_eq_none.2 fun e he => ne_true_of_eq_false (hnone e he)]
    · rw [he]

end Sys2Proof
end

section
/-!
SUPPORT. The dispatcher, the pool's events and pre-emption (14_time.md R436 to R454, 03_lanes.md R74, 15_traps.md R461, 16_tenancy.md R483).
-/

namespace Sys2Proof

open Machine

/-! ## The clock at homes -/

/-- Either branch leaves the clock. -/
theorem ite_clock {c : Prop} [Decidable c] {a b : State} {n : Nat} (ha : a.clock = n) (hb : b.clock = n) : (if c then a else b).clock = n := by
  split <;> assumption

theorem foldl_clock {α : Type} (f : State → α → State) (hf : ∀ s x, (f s x).clock = s.clock) :
    ∀ (xs : List α) (s : State), (xs.foldl f s).clock = s.clock
  | [], _ => rfl
  | x :: xs, s => (foldl_clock f hf xs (f s x)).trans (hf s x)

section
variable (s : State)

@[simp] theorem dropSector_clock (sec : Nat) : (s.dropSector sec).clock = s.clock := by
  have h : (s.writeBack sec).clock = s.clock := by
    unfold State.writeBack
    repeat' split
    all_goals rfl
  exact h

@[simp] theorem dropLine_clock (line : Nat) : (s.dropLine line).clock = s.clock := by
  dsimp only [State.dropLine]
  generalize (List.range 4).map (4 * line + ·) = xs
  exact foldl_clock _ (fun t x => dropSector_clock t x) xs s

@[simp] theorem l2Room_clock (sec : Nat) : (s.l2Room sec).clock = s.clock := by
  unfold State.l2Room
  refine ite_clock rfl (ite_clock rfl ?_)
  split
  · exact dropLine_clock s _
  · rfl

@[simp] theorem fillSector_clock (sec slot asid : Nat) : (s.fillSector sec slot asid).clock = s.clock := by
  refine ite_clock rfl ?_
  split <;> simp

@[simp] theorem revoke_clock (pa : Nat) (core : Option Nat) (asid : Nat) : (s.revoke pa core asid).clock = s.clock := by
  simp only [State.revoke]
  repeat' split
  all_goals rfl

@[simp] theorem flushRegion_clock (r asid : Nat) : (s.flushRegion r asid).clock = s.clock := by
  simp only [State.flushRegion]
  rw [foldl_clock _ fun t x => dropSector_clock t x]
  exact foldl_clock _ (fun t (e : Nat × AtomLine) => revoke_clock t (e.1 * 256) none asid) _ s

@[simp] theorem transfer_clock (r asid : Nat) : (s.transfer r asid).clock = s.clock := by
  simp only [State.transfer, State.countHub_clock, flushRegion_clock]

@[simp] theorem touch_clock (who : Agent) (pa n : Nat) (w : Bool) : (s.touch who pa n w).clock = s.clock := by
  have h : (if s.needsTransfer (agentDevice who) pa then s.transfer (regionOf pa) (agentAsid who) else s).clock = s.clock :=
    ite_clock (transfer_clock s _ _) rfl
  simp only [State.touch, revoke_clock, State.abortHosts, h]

@[simp] theorem arrive_clock (who : Agent) (pa n slot : Nat) (w : Bool) : (s.arrive who pa n slot w).clock = s.clock := by
  unfold State.arrive
  refine ite_clock (touch_clock ..) (ite_clock ?_ ?_)
  · rw [fillSector_clock, touch_clock]
  · rw [State.report_clock, touch_clock]

end

theorem readSpan_clock (who : Agent) (slot : Nat) : ∀ (fuel : Nat) (s : State) (pa n : Nat), (s.readSpan who slot fuel pa n).1.clock = s.clock
  | 0, _, _, _ => rfl
  | fuel + 1, s, pa, n => by
    unfold State.readSpan
    split
    · rfl
    · dsimp only
      rw [readSpan_clock who slot fuel, State.readAt, arrive_clock]

@[simp] theorem poolReads_clock (s : State) (rs : List (Nat × Nat)) : (s.poolReads rs).clock = s.clock :=
  foldl_clock _ (fun s (r : Nat × Nat) => readSpan_clock poolAgent 0 _ s r.1 r.2) rs s

/-! ## The pool -/

section
variable {s : State}

theorem exec_mailboxDoorbell {s1 : State} {code id : Nat} (hidle : s.pool.mbstat.getLsbD 8 = false) (htraps : s.trapsWait = false)
    (hsub : s.submit .mailbox none 0 (kgetRun 0 s.pool.mbrec 0 128) = (s1, code, id)) :
    exec (.mailboxDoorbell 1) s = .next { s1 with pool := { s1.pool with
      mbstat := BitVec.ofNat 64 ((if code = 0 then id else (s.pool.mbstat.extractLsb' 32 32).toNat) * 2 ^ 32 + code) } } := by
  have hgo : ¬ ((1 : W64) ≠ 1 ∨ s.pool.mbstat.getLsbD 8 = true) := by
    rw [hidle]
    decide
  refine congrArg Host.Outcome.next ((if_neg hgo).trans ((if_neg (ne_true_of_eq_false htraps)).trans ?_))
  simp only [hsub]

theorem exec_dispatchPlace {task : Nat} {k : Task} {cores : List Nat} (hk : klookup s.pool.tasks task = some k)
    (hmay : s.mayPlace task = some cores) (hwaits : s.poolWaits (s.dispatchRuns k) false = false) :
    exec (.dispatchPlace task) s = .next ((s.poolReads (s.dispatchRuns k)).placeNext task k cores) := by
  show execDispatchPlace task s = _
  simp only [execDispatchPlace, hk, hwaits, hmay, Bool.false_eq_true, if_false]

/-- On pairs that need no scrub the teams are placed (R483). -/
theorem placeNext_clean {task n : Nat} {k : Task} {cores : List Nat} (hn : s.clock = n)
    (hclean : ∀ c ∈ cores, pairOf c ∉ s.pool.scrubs ∧ ∀ a, klookup s.pool.pairAsid (pairOf c) = some a → a = k.record.asid) :
    let s1 := (k.nextSlots.zip cores).foldl (fun t e => t.placeTeam task k e.1 e.2) s
    s.placeNext task k cores = { s1 with pool := { s1.pool with tasks := kmap s1.pool.tasks task fun k => { k with since := n } } } := by
  subst hn
  intro s1
  have hother : ((cores.map pairOf).filter fun p => (klookup s.pool.pairAsid p).any fun a => a != k.record.asid) = [] := by
    rw [List.filter_eq_nil_iff]
    intro p hp
    obtain ⟨c, hc, rfl⟩ := List.mem_map.1 hp
    cases ha : klookup s.pool.pairAsid (pairOf c) with
    | none => simp
    | some a => simp [(hclean c hc).2 a ha]
  have hscrub : ((cores.map pairOf).filter fun p => s.pool.scrubs.contains p) = [] := by
    rw [List.filter_eq_nil_iff]
    intro p hp
    obtain ⟨c, hc, rfl⟩ := List.mem_map.1 hp
    simpa using (hclean c hc).1
  simp only [State.placeNext, hother, hscrub, List.append_nil, List.isEmpty_nil, Bool.not_true, Bool.false_eq_true, if_false]
  rfl

/-- The first task in order that fits is placed, on pairs that need no scrub (R445, R446, R483). -/
theorem exec_dispatchPlace_clean {task : Nat} {k : Task} {cores : List Nat} (hk : klookup s.pool.tasks task = some k)
    (hmay : s.mayPlace task = some cores) (hwaits : s.poolWaits (s.dispatchRuns k) false = false) :
    let s0 := s.poolReads (s.dispatchRuns k)
    (∀ c ∈ cores, pairOf c ∉ s0.pool.scrubs ∧ ∀ a, klookup s0.pool.pairAsid (pairOf c) = some a → a = k.record.asid) →
    let s1 := (k.nextSlots.zip cores).foldl (fun t e => t.placeTeam task k e.1 e.2) s0
    exec (.dispatchPlace task) s =
      .next { s1 with pool := { s1.pool with tasks := kmap s1.pool.tasks task fun k => { k with since := s.clock } } } := by
  intro s0 hclean
  have hrun : exec (.dispatchPlace task) s = .next (s0.placeNext task k cores) := exec_dispatchPlace hk hmay hwaits
  have hclock : s0.clock = s.clock := poolReads_clock ..
  clear_value s0
  exact hrun.trans (congrArg Host.Outcome.next (placeNext_clean hclock hclean))

theorem exec_pairScrub {pair : Nat} (hmem : pair ∈ s.pool.scrubs) (hempty : ∀ e ∈ s.teams, pairOf e.2.core = pair → e.2.asid = 0) :
    exec (.pairScrub pair) s = .next { s with
      pool := { s.pool with scrubs := s.pool.scrubs.filter (fun p => p != pair), pairAsid := kerase s.pool.pairAsid pair }
      mem := { s.mem with
        fcache := s.mem.fcache.filter fun x => pairOf x.core != pair
        l1 := s.mem.l1.filter fun x => pairOf x.core != pair
        atom := s.mem.atom.map fun e => if e.2.owner.any (fun c => pairOf c == pair) then (e.1, { e.2 with owner := none }) else e
        tlb := s.mem.tlb.filter fun x => !(x.l1 && pairOf x.unit == pair) || pteG x.pte } } := by
  have hgo : ¬ (!s.pool.scrubs.contains pair || s.teams.any fun e => pairOf e.2.core == pair && e.2.asid != 0) = true := by
    rw [Bool.or_eq_true, not_or]
    exact ⟨by simpa using hmem, by simpa using hempty⟩
  exact if_neg hgo

theorem exec_agingStep {task : Nat} {k : Task} (hk : klookup s.pool.tasks task = some k) (hw : k.waits = true) (hl : 2 ≤ k.level)
    (hdue : k.since + s.usClocks (s.pkg.pquant.extractLsb' 32 32).toNat ≤ s.clock) :
    exec (.agingStep task) s = .next { s with pool := { s.pool with
      seq := s.pool.seq + 1
      tasks := kput s.pool.tasks task { k with level := k.level - 1, order := s.pool.seq + 1, since := s.clock } } } := by
  show execAgingStep task s = _
  simp only [execAgingStep, hk, hw, hl, hdue, and_self, decide_true, Bool.and_self, if_true]

section
variable {team : Nat} {t : Team} (ht : klookup s.teams team = some t)
include ht

theorem exec_teamRetire_done (hf : t.faulted = false) (hd : t.discard = false) (hended : ∀ e ∈ s.teamGroups team, e.2.ended = true)
    (hquiet : s.quiet team = true) (hops : s.teamOps team = []) :
    exec (.teamRetire team) s = .next
      (((((s.removeTeam team).leavePair t.core t.asid).putSlotOf t.task t.teamid .dead).ckLeft team none).endTask t.task) := by
  have hall : ((s.teamGroups team).all fun e => e.2.ended) = true := List.all_eq_true.2 hended
  show execTeamRetire team s = _
  simp only [execTeamRetire, ht, hf, hd, hall, hquiet, hops, Bool.or_self, List.isEmpty_nil, Bool.and_self, Bool.false_eq_true, if_false, if_true]

theorem exec_teamRetire_gone (hgone : t.faulted = true ∨ t.discard = true) :
    let s1 := (s.haltTeam team).stopDrains team
    let s2 := (s1.removeTeam team).leavePair t.core t.asid
    s1.settled team = true →
    exec (.teamRetire team) s = .next
      ((((if t.faulted then s2.putSlotOf t.task t.teamid .dead else s2.returnSlot t.task t.teamid .unplaced).ckLeft team none).noteReady).endTask
        t.task) := by
  intro s1 s2 hsettled
  have hgo : (t.faulted || t.discard) = true := by simpa [Bool.or_eq_true] using hgone
  show execTeamRetire team s = _
  simp only [execTeamRetire, ht]
  exact (if_pos hgo).trans (if_pos hsettled)

theorem exec_preemptHalt (hleaves : t.asked.isSome = true ∨ t.discard = true ∨ t.faulted = true) :
    exec (.preemptHalt team) s = .next (s.haltTeam team) := by
  have hgo : (t.asked.isSome || t.discard || t.faulted) = true := by simpa [Bool.or_eq_true, or_assoc] using hleaves
  show execPreemptHalt team s = _
  simp only [execPreemptHalt, ht, hgo, if_true]

theorem exec_imageWrite {addr bound : Nat} (hask : t.asked = some (addr, bound)) (hh : t.halted = true) (hf : t.faulted = false)
    (hd : t.discard = false) (hsettled : (s.stopDrains team).settled team = true) :
    let s1 := s.stopDrains team
    let im := s1.imageOf team t addr bound
    s1.poolWaits [(addr, im.len)] true = false →
    let s2 := ((s1.removeTeam team).leavePair t.core t.asid).writeRun poolAgent 0 addr (imageBytes im)
    exec (.imageWrite team) s =
      .next (((({ s2 with pkg := { s2.pkg with ckgen := BitVec.ofNat 64 im.gen } } : State).returnTeam im).ckLeft team (some im.gen)).endTask t.task) := by
  intro s1 im hwait s2
  have hgo : ¬ (!s1.settled team || s1.poolWaits [(addr, im.len)] true) = true := by
    rw [hsettled, hwait]
    exact Bool.false_ne_true
  show execImageWrite team s = _
  simp only [execImageWrite, ht, hask, hh, hf, hd, Bool.not_true, Bool.or_self, Bool.false_eq_true, if_false]
  exact if_neg hgo

end

theorem exec_hostTaskPost {task : Nat} {k : Task} (hk : klookup s.pool.tasks task = some k) (hhost : k.record.host = true) (hord : k.order ≠ 0)
    (hnew : k.posted = false) :
    let n := 2 ^ (s.pkg.htq.extractLsb' 0 4).toNat
    let put : BitVec 32 := s.pkg.htqptr.extractLsb' 0 32
    let get : BitVec 32 := s.pkg.htqptr.extractLsb' 32 32
    let pa := (s.pkg.htq.extractLsb' 12 40).toNat * 2 ^ 12 + 16 * (put.toNat % n)
    (put - get).toNat < n → s.poolWaits [(pa, 16)] true = false →
    let s1 := s.writeRun poolAgent 0 pa (leBytes 8 (task % 2 ^ 32) ++ leBytes 8 k.recAddr)
    exec (.hostTaskPost task) s = .next { s1 with
      pkg := { s1.pkg with htqptr := (get ++ (put + 1) : BitVec 64) }
      pool := { s1.pool with irq40 := true, tasks := kput s1.pool.tasks task { k with posted := true } } } := by
  intro n put get pa hroom hwait s1
  have hgo : ¬ (!k.record.host || k.order = 0 || k.posted || decide (n ≤ (put - get).toNat) || s.poolWaits [(pa, 16)] true) = true := by
    rw [hhost, hnew, hwait, decide_eq_false hord, decide_eq_false (Nat.not_le.2 hroom)]
    exact Bool.false_ne_true
  show execHostTaskPost task s = _
  simp only [execHostTaskPost, hk]
  exact if_neg hgo

theorem exec_htdone {value : W64} {k : Task} (hk : klookup s.pool.tasks (value.extractLsb' 0 32).toNat = some k) (hhost : k.record.host = true)
    (hposted : k.posted = true) : exec (.htdone value) s = .next (s.finishTask (value.extractLsb' 0 32).toNat) := by
  show Host.Outcome.next (s.hostDone value) = _
  simp only [State.hostDone, hk, hhost, hposted, Bool.and_self, if_true]

end

/-- Settles O34: the dispatcher and the pool's events, each under the conditions it tests. -/
theorem poolResults : Obligations.PoolResults := by
  exact ⟨fun _ _ _ _ => exec_mailboxDoorbell, fun _ _ _ _ => exec_dispatchPlace_clean, fun _ _ => exec_pairScrub, fun _ _ _ => exec_agingStep,
    fun s team t ht => ⟨exec_teamRetire_done ht, exec_teamRetire_gone ht⟩, fun _ _ _ => exec_hostTaskPost, fun _ _ _ => exec_htdone⟩

/-! ## Pre-emption and checkpoints -/

section
variable {s s1 : State}

theorem exec_dispatcherPreempt {task : Nat} {k : Task} {gone : List Nat} (hk : klookup s.pool.tasks task = some k) (hw : k.waits = true)
    (hplace : s.placesFor task k = none) (hbar : s.barred task k = false) (hheap : s.heapSize ≠ 0)
    (himages : ∀ i ∈ k.nextSlots, s.badImage (k.slots.getD i .dead) = false)
    (hvict : s.enoughVictims k [] (s.victims k.level) = some gone) (hask : s.askTeams gone = some s1) :
    exec (.dispatcherPreempt task) s = .next s1 := by
  have hgood : (k.nextSlots.any fun i => s.badImage (k.slots.getD i .dead)) = false := List.any_eq_false.2 fun i hi => ne_true_of_eq_false (himages i hi)
  show execDispatcherPreempt task s = _
  simp only [execDispatcherPreempt, hk, hw, hbar, hplace, hheap, hgood, hvict, hask, Bool.not_true, Bool.or_self, Option.isSome_none, decide_false,
    Bool.false_eq_true, if_false, Option.getD_some]

theorem exec_prmtGo {value : W64} (hgo : value.getLsbD 63 = true) (hheap : s.heapSize ≠ 0)
    (hask : ({ s with pkg := { s.pkg with prmt := (value &&& 0x1FFFF) ||| (s.pkg.prmt &&& 0x4000000000000000) } } : State).askTeams
      (s.teamsWhere fun t => value.getLsbD 16 || t.asid == (value.extractLsb' 0 16).toNat) = some s1) :
    exec (.prmtGo value) s = .next { s1 with pkg := { s1.pkg with prmt := value &&& 0x1FFFF } } := by
  have hstay : ¬ (!value.getLsbD 63) = true := by rw [hgo]; exact Bool.false_ne_true
  refine congrArg Host.Outcome.next ((if_pos hgo).trans ((if_neg hstay).trans ?_))
  rw [if_neg hheap, hask]

end

/-- Settles O35: requests, halts, images and checkpoints, each under the conditions it tests. -/
theorem preemptResults : Obligations.PreemptResults := by
  refine ⟨fun _ _ _ _ _ => exec_dispatcherPreempt, fun _ _ _ => exec_prmtGo, fun _ _ _ => exec_preemptHalt,
    fun _ _ _ _ _ ht => exec_imageWrite ht, ?_⟩
  intro s value hidle s1 man
  refine ⟨fun hop => ?_, fun hop => ?_⟩ <;> refine congrArg Host.Outcome.next ((if_pos hop).trans ?_) <;>
    simp only [State.writeCkctl, hidle, hop, Bool.false_eq_true, if_false] <;> rfl

end Sys2Proof
end

section
/-!
SUPPORT. Xaush, the alarm, the error logs, the package as a whole and accesses from outside (16_tenancy.md R490 to R494, 15_traps.md R475, R476,
01_package.md R18 to R26, 09_order.md R312).
-/

namespace Sys2Proof

open Machine

/-! ## Keys -/

/-- The command that OP and the written value name (R490). -/
def keyOp (op : Nat) (v : W64) : KOp := match op with | 0 => .clear | 1 => .plain | _ => .load ((v.extractLsb' 12 40).toNat * 2 ^ 12)

section
variable {s : State}

theorem kcommand_accepted {op : Nat} {v : W64} (hidle : s.xa.kbusy = none) (hslot : kargSlot s.xa.karg ≠ 0)
    (hop : ¬ (op = 3 ∨ (op = 2 ∧ (s.xa.erased = true ∨ v.extractLsb' 52 12 ≠ 0)))) :
    s.kcommand op v = { s with xa := { s.xa with kerr := false, kbusy := some (keyOp op v, s.xa.karg) } } := by
  have hbusy : ¬ s.xa.kbusy.isSome = true := by rw [hidle]; exact Bool.false_ne_true
  exact (if_neg hbusy).trans (if_neg (not_or.2 ⟨hslot, hop⟩))

/-- KCMD_COMPLETE of a command whose blob, if it has one, can be read. -/
theorem exec_kcmdComplete {k : KOp} {arg : W64} (hbusy : s.xa.kbusy = some (k, arg)) (hwait : s.poolWaits (blobRun k) false = false) :
    exec .kcmdComplete s = .next
      (let s1 := (s.flushSlot (kargSlot arg)).poolReads (blobRun k)
       match k with
       | .clear => s1.endKcmd (kargSlot arg) {}
       | .plain => s1.endKcmd (kargSlot arg) { kind := 1, owner := arg.extractLsb' 16 16, shared := arg.getLsbD 32 }
       | .load blob => s1.loadKey (kargSlot arg) arg blob) := by
  show execKcmdComplete s = _
  simp only [execKcmdComplete, hbusy, hwait, Bool.false_eq_true, if_false]
  cases k <;> rfl

theorem loadKey_eq {slot blob : Nat} {arg : W64} (hl : s.xa.erased = false) :
    s.loadKey slot arg blob =
      match unwrapKey Config.provisioningKey (s.homeBytes blob 72) with
      | some (d, a) =>
        let n := s.keyNumber (a ++ d : BitVec 512)
        ({ s with xa := { s.xa with keys := kput s.xa.keys n (a ++ d : BitVec 512) } } : State).endKcmd slot
          { kind := 2, owner := arg.extractLsb' 16 16, shared := arg.getLsbD 32, key := n, dkey := d, akey := a }
      | none => { s with xa := { s.xa with kbusy := none, kerr := true } } := by
  simp only [State.loadKey, hl, Bool.false_eq_true, if_false]
  cases unwrapKey Config.provisioningKey (s.homeBytes blob 72) <;> rfl

end

/-- Settles O36: a command is accepted while Xaush is idle, and completes with its slot's new state. -/
theorem keyResults : Obligations.KeyResults := by
  intro s
  refine ⟨fun hidle hslot => ?_, fun arg => ?_, fun v => ?_⟩
  · intro busy
    refine ⟨congrArg _ (kcommand_accepted (op := 0) (v := 0) hidle hslot (by simp)),
      congrArg _ (kcommand_accepted (op := 1) (v := 0) hidle hslot (by simp)), fun v hl hv => ?_⟩
    exact congrArg _ (kcommand_accepted (op := 2) hidle hslot (by simp [hl, hv]))
  · intro slot s1
    refine ⟨fun hb => ?_, fun hb => ?_, fun blob hb hwait hl => ?_⟩
    · have h1 : s1 = (s.flushSlot slot).poolReads (blobRun .clear) := by simp only [s1, hb]
      rw [exec_kcmdComplete hb rfl, h1]
    · have h1 : s1 = (s.flushSlot slot).poolReads (blobRun .plain) := by simp only [s1, hb]
      rw [exec_kcmdComplete hb rfl, h1]
    · have h1 : s1 = (s.flushSlot slot).poolReads (blobRun (.load blob)) := by simp only [s1, hb]
      rw [exec_kcmdComplete hb hwait]
      show Host.Outcome.next (((s.flushSlot slot).poolReads (blobRun (.load blob))).loadKey slot arg blob) = _
      rw [← h1, loadKey_eq hl] <;> rfl
  · refine congrArg Host.Outcome.next ?_
    simp only [State.writeKprov, Bool.and_eq_true, Bool.not_eq_true', Option.isNone_iff_eq_none, and_assoc]

/-! ## The alarm and the error logs -/

section
variable {s : State}

theorem exec_alarmContain {e : XEvent} {rest : List (Nat × XEvent)} (hq : s.xa.queue = (1, e) :: rest) (hl : s.xa.erased = false)
    (hrest : ∀ x ∈ rest, x.1 ≠ 2) (ha : e.asid ≠ some 0) :
    exec .alarmContain s = .next (({ s with xa := { s.xa with queue := rest } } : State).contain e.asid) := by
  have hany : (rest.any fun x => x.1 == 2) = false := List.any_eq_false.2 fun x hx => by simpa using hrest x hx
  have hasid : (e.asid == some 0) = false := by simpa using ha
  show execAlarmContain s = _
  simp only [execAlarmContain, hq, hl, hany, hasid, ne_eq, not_true_eq_false, Bool.or_self, Bool.false_eq_true, if_false]

theorem exec_alarmErase {e : XEvent} {rest : List (Nat × XEvent)} (hq : s.xa.queue = (2, e) :: rest) :
    exec .alarmErase s = .next ({ s with xa := { s.xa with queue := rest } } : State).erase := by
  show execAlarmErase s = _
  simp only [execAlarmErase, hq, if_true]

theorem exec_errorLogArbitrate {unit : Nat} (hu : unit < 6) (hp : (kget {} s.logs unit).pend ≠ []) :
    let x := kget {} s.logs unit
    let x1 := x.pend.foldl (fun x e => x.take e.1 e.2) x
    let s1 : State := { s with logs := kput s.logs unit x1 }
    exec (.errorLogArbitrate unit) s = .next (if x1.put = x.put then s1 else (logDies unit).foldl (fun t d => t.setEvent d 2) s1) := by
  have hgo : ¬ (6 ≤ unit ∨ (kget {} s.logs unit).pend.isEmpty = true) := by
    rw [not_or, List.isEmpty_iff]
    exact ⟨Nat.not_le.2 hu, hp⟩
  exact if_neg hgo

end

/-- Settles O37: each source, action and register of the alarm, and the arbiter's turn. -/
theorem alarmResults : Obligations.AlarmResults := fun _ =>
  ⟨fun _ => rfl, fun hl => congrArg Host.Outcome.next (if_pos hl), fun _ _ => exec_alarmContain, fun _ _ => exec_alarmErase, fun _ => rfl, fun _ => rfl,
    fun _ => exec_errorLogArbitrate⟩

/-! ## The package -/

section
variable {s : State}

theorem bootImage_eq (img : BootImage) :
    let ok : State := ({ s with xa := { s.xa with
      stage := s.xa.stage + 1, held := false
      meas := kset 0 s.xa.meas s.xa.stage (Config.sha384Extend (kget 0 s.xa.meas s.xa.stage) (measuredBytes img s.xa.stage)) } } : State).runStage img
    let bad : State := { (s.xlog (32 + s.xa.stage + 1)).resetDies with xa := { (s.xlog (32 + s.xa.stage + 1)).xa with held := true } }
    s.bootImage img = if Config.signatureOk (measuredBytes img s.xa.stage) img.signature then ok else bad := by
  intro ok bad
  unfold State.bootImage
  cases hsig : Config.signatureOk (measuredBytes img s.xa.stage) img.signature <;> simp only [hsig] <;> rfl

theorem exec_bootStage {img : BootImage} (hl : s.xa.held = false) (hs : s.xa.stage < 3) : exec (.bootStage img) s = .next (s.bootImage img) :=
  (if_neg (ne_true_of_eq_false hl)).trans (if_pos hs)

theorem exec_bootStage_last {img : BootImage} (hl : s.xa.held = false) (hs : s.xa.stage = 3) :
    exec (.bootStage img) s = .next { s with xa := { s.xa with stage := 4 } } :=
  (if_neg (ne_true_of_eq_false hl)).trans ((if_neg (by omega)).trans (if_pos hs))

end

/-- Settles O38: boot by the stage and its signature; the other events under their one test. -/
theorem platformResults : Obligations.PlatformResults := by
  intro s
  refine ⟨rfl, fun img hs => ?_, fun img => exec_bootStage_last, fun h => if_pos h, fun h => if_pos h, rfl, ⟨_, _, rfl⟩,
    fun w hw => congrArg Host.Outcome.next (if_pos hw), rfl⟩
  intro ok bad t
  exact ⟨fun hl => (exec_bootStage hl hs).trans (congrArg Host.Outcome.next (bootImage_eq img)),
    congrArg Host.Outcome.next ((if_pos hs).trans (bootImage_eq img))⟩

/-! ## Accesses from outside -/

section
variable {s : State} {a : HostAccess}

theorem exec_registerWrite (addr : Nat) (v : W64) : exec (.registerWrite addr v) s = .next
    (if 2 ^ 52 ≤ addr then s.mailboxWrite (addr - 2 ^ 52) v
     else if isDevReg addr = true ∧ addr % 8 = 0 then s.setDevWord (offsetOf addr) v
     else if addr = 0x87 then s.modPkg fun x => { x with htq := v &&& 0x000FFFFFFFFFF00F }
     else if addr = 0x88 then s.modPkg fun x => { x with htqptr := htqptrAfter x.htqptr v }
     else s) := by
  show execRegisterWrite addr v s = _
  unfold execRegisterWrite
  split_ifs <;> rfl

/-- The result of an access that must be of a host core when `who` is one (R312). -/
theorem hostOut_plain {n : Nat}
    (hfree : match a.kind with | .fence _ _ _ _ | .store => True | _ => s.hostHeld (.host n) a = false ∧ s.hostMac a = false) :
    s.hostOut a n = s.hostPlain a := by
  unfold State.hostOut
  cases hk : a.kind with
  | fence _ _ _ _ => rfl
  | store => rfl
  | _ =>
    rw [hk] at hfree
    obtain ⟨hheld, hmac⟩ := hfree
    simp only [hheld, hmac, Bool.false_eq_true, if_false]

theorem exec_hostAccess_outside (hok : hostAccessOk a = true) (hag : ∀ n, a.agent ≠ .host n) (hheld : s.hostHeld .outside a = false)
    (hmac : s.hostMac a = false) : exec (.hostAccess a) s = .next (s.hostPlain a) := by
  show execHostAccess a s = _
  unfold execHostAccess
  rw [if_neg (by rw [hok]; exact Bool.false_ne_true)]
  cases ha : a.agent with
  | host n => exact absurd ha (hag n)
  | _ => simp only [hheld, hmac, Bool.false_eq_true, if_false]

section
variable {n : Nat} (hok : hostAccessOk a = true) (hag : a.agent = .host n) (hw : (s.host n).waitRd = none)
include hok hag hw

theorem exec_hostAccess_core (htx : (s.host n).txOpen = false) :
    let s1 := if s.hostDrains a n then s.drainHostAll n else s
    (s.hostDrains a n = true → (s1.host n).stq = []) →
    (match a.kind with | .fence _ _ _ _ | .store => True | _ => s1.hostHeld (.host n) a = false ∧ s1.hostMac a = false) →
    exec (.hostAccess a) s = .next (s1.hostPlain a) := by
  intro s1 hq hfree
  show execHostAccess a s = _
  simp only [execHostAccess, hok, hag, hw, htx, Bool.not_true, Option.isSome_none, Bool.false_eq_true, if_false]
  by_cases hd : s.hostDrains a n = true
  · have h1 : s1 = s.drainHostAll n := if_pos hd
    rw [h1] at hq hfree ⊢
    rw [if_pos hd, afterStores_of_drained (hq hd), hostOut_plain hfree]
  · have h1 : s1 = s := if_neg hd
    rw [h1] at hfree ⊢
    rw [if_neg hd, hostOut_plain hfree]

theorem exec_hostAccess_tx (htx : (s.host n).txOpen = true) (hkind : a.kind = .load ∨ a.kind = .store) (hdev : isDevReg a.pa = false)
    (hlock : s.lockExcludes (.host n) a.pa (hostWrites a) = false) (hheld : s.hostHeld (.host n) a = false) (hmac : s.hostMac a = false) :
    exec (.hostAccess a) s = .next (s.hostInTx a n) := by
  have hin : s.hostTx a n = s.hostInTx a n := by
    unfold State.hostTx
    rcases hkind with hk | hk <;> rw [hk] <;> simp only [hdev, hlock, hheld, hmac, Bool.false_eq_true, if_false]
  show execHostAccess a s = _
  simp only [execHostAccess, hok, hag, hw, htx, hin, Bool.not_true, Option.isSome_none, Bool.false_eq_true, if_false, if_true]

end
end

/-- Settles O39: events and registers directly; an access by its agent, its core's transaction and what it drains. -/
theorem outsideResults : Obligations.OutsideResults := fun _ =>
  ⟨fun _ hd => congrArg Host.Outcome.next (if_pos hd), exec_registerWrite, fun _ => rfl, fun _ hok =>
    ⟨exec_hostAccess_outside hok, fun _ hag hw => ⟨exec_hostAccess_core hok hag hw, exec_hostAccess_tx hok hag hw⟩⟩⟩

end Sys2Proof
end

section
/-!
SUPPORT. What a turn runs (03_lanes.md R78, R79; 01_package.md R20): device instructions issue, host instructions act on their core, and events
always happen.
-/

namespace Sys2Proof

open Machine

/-! ## The three kinds of instruction -/

/-- A device instruction issues (R78). -/
theorem exec_eq_issue {i : Instr} (hi : (deviceParts i).isSome = true) :
    ∃ (sh : Group → Shape) (h : Head) (body : Ctx → State → Effect), ∀ s, exec i s = issue sh h body s := by
  cases i <;> first | exact absurd hi Bool.false_ne_true | exact ⟨_, _, _, fun _ => rfl⟩

theorem hostStep_next {s : State} {n : Nat} (hc : s.cur = .host n) (f : Nat → HostCore → State) : ∃ t, hostStep s f = .next t := by
  simp only [hostStep, hc]
  split <;> exact ⟨_, rfl⟩

/-- A host instruction acts on its core (R346). -/
theorem exec_host {i : Instr} (hi : (hostBits i).isSome = true) {s : State} {n : Nat} (hc : s.cur = .host n) : ∃ t, exec i s = .next t := by
  cases i <;> first
    | exact absurd hi Bool.false_ne_true
    | (simp only [exec, execXtbeg, execXtend, execXtabort, execXtstat, execXspawn]
       exact hostStep_next hc _)

theorem ite_next {c : Prop} [Decidable c] {a b : Host.Outcome State Fault Refusal} (ha : ∃ t, a = .next t) (hb : ∃ t, b = .next t) :
    ∃ t, (if c then a else b) = .next t := by split <;> assumption

theorem exec_ownershipTransfer_next (region : Nat) (s : State) : ∃ t, exec (.ownershipTransfer region) s = .next t := by
  show ∃ t, execOwnershipTransfer region s = .next t
  unfold execOwnershipTransfer
  split
  · exact ite_next ⟨_, rfl⟩ ⟨_, rfl⟩
  · exact ⟨_, rfl⟩

theorem exec_flitReceive_next (link : Nat) (f : RawFlit) (s : State) : ∃ t, exec (.flitReceive link f) s = .next t := by
  show ∃ t, execFlitReceive link f s = .next t
  unfold execFlitReceive
  refine ite_next ⟨_, rfl⟩ ?_
  split <;> exact ⟨_, rfl⟩

/-- An event happens, whatever the state. -/
theorem exec_event {i : Instr} (hi : isEvent i = true) (s : State) : ∃ t, exec i s = .next t := by
  cases i <;> first
    | exact absurd hi Bool.false_ne_true
    | exact ⟨_, rfl⟩
    | exact exec_ownershipTransfer_next ..
    | exact exec_flitReceive_next ..
    | (simp only [exec, execBootStage, execClockStepDown, execClockStepUp, execRemoteDepositArrive, execAwaitSatisfied, execLoadDataReturn, execCflushComplete,
      execBarRelease, execBarrierPhaseComplete, execBwaitSatisfied, execContentionEnterFar, execContentionReturnNear, execFenceComplete,
      execTbegResume, execFallbackLockGrant, execTendCommit, execXtendCommit, execHostTxAbort, execHazardRelease, execCardUnitWrite,
      execCardComplete, execRemotePathLost, execJcloseFree, execJmulBarrierSatisfied, execJoinOpStart, execJoinOpComplete, execFetchOpStart,
      execFetchOpComplete, execDgrowComplete, execHaltWake, execTlbiComplete, execOwnsetComplete, execPageWalk, execL2RequestDeferred, execL2Fill,
      execGatherDirectReturn, execParityRecovery,  execCxlExtentEvent,  execLinkLaneLoss,
      execLinkRetrainComplete, execPlanePortReport, execSwitchContribution, execSwitchChunkDeliver, execSwitchBroadcastDeliver, execDispatchPlace,
      execPairScrub, execAgingStep, execTeamRetire, execHostTaskPost, execDispatcherPreempt, execPreemptHalt, execImageWrite,
      execErrorLogArbitrate, execKcmdComplete, execAlarmContain, execAlarmErase, execRegisterWrite, execHostAccess]
       repeat' split
       all_goals exact ⟨_, rfl⟩)

end Sys2Proof
end

section
/-!
PROOF. A step runs what its turn names (03_lanes.md R78, R79; 01_package.md R20): O40, O44.
-/

namespace Sys2Proof

open Machine

/-! ## What a turn runs -/

theorem step_eq {s s0 : State} {t : Turn} (ht : s.nextTurn = (t, s0)) : step s = runTurn t s0 := by rw [step, ht]

/-- A quarter's turn is the issue of the group that is picked (R79). -/
theorem step_quarter {s s0 : State} {core q t gid : Nat} {g : Group} (ht : s.nextTurn = (.quarter core q, s0)) (hs : s0.stopped = false)
    (hp : s0.pick core q = some (t, gid, g)) : step s = s0.groupTurn t gid g := by
  simp only [step_eq ht, runTurn, hs, Bool.false_eq_true, if_false, State.quarterTurn, hp]

/-- A host core that runs and waits for nothing fetches its next word, unless the sector fails its MAC. -/
theorem hostTurn_fetches {s0 s2 : State} {n : Nat} {w : W32} {i : Instr} (hr : (s0.host n).running = true) (hw : (s0.host n).waitRd = none)
    (hm : let s1 := (s0.advanceTo (s0.clock + 1)).actAs (.host n)
      let pa := (s0.host n).pc.toNat
      hostWindow pa = false ∨ isDevReg pa = true ∨ s1.hasStorage pa = false ∨ s1.look (sectorOf pa) 0 ≠ .mac)
    (hf : ((s0.advanceTo (s0.clock + 1)).actAs (.host n)).hostFetch n = some (s2, w)) (hd : decodeHost w = some i) :
    s0.hostTurn n = exec i s2 := by
  simp only [State.hostTurn, hr, hw, Option.isSome_none, Bool.not_true, Bool.or_self, Bool.false_eq_true, if_false]
  rw [if_neg, hf]
  · simp only [State.hostWord, hd]
  · intro h
    simp only [Bool.and_eq_true, Bool.not_eq_true', beq_iff_eq] at h
    obtain ⟨⟨⟨hwin, hdev⟩, hst⟩, hmac⟩ := h
    rcases hm with hm | hm | hm | hm
    · exact Bool.false_ne_true (hm.symm.trans hwin)
    · exact Bool.false_ne_true (hdev.symm.trans hm)
    · exact Bool.false_ne_true (hm.symm.trans hst)
    · exact hm hmac

/-- An event that may happen runs, with no agent acting. -/
theorem runTurn_event {s0 : State} {i : Instr} (h : s0.mayHappen i = true) : runTurn (.event i) s0 = exec i (s0.actAs .idle) := if_pos h

/-- Settles O40: each kind of turn runs the instruction that its fetch decodes to, or its event. -/
theorem stepRunsDecodedInstruction : Obligations.StepRunsDecodedInstruction := by
  refine ⟨fun s s0 s2 core q t gid g ws i r ht hs hp hf hd => ?_, fun s s0 s2 n w i ht hs hr hw => ?_, fun s s0 i ht he ha hh hu => ?_⟩
  · rw [step_quarter ht hs hp]
    simp only [State.groupTurn, hf, hd]
    cases exec i s2 <;> rfl
  · intro s1 pa hm hf hd
    have hs0 : s0.plat.tripped = false := (Bool.or_eq_false_iff.mp hs).1
    rw [step_eq ht]
    simp only [runTurn, hs0, Bool.false_eq_true, if_false]
    exact hostTurn_fetches hr hw hm hf hd
  · rw [step_eq ht]
    refine runTurn_event ?_
    simp only [State.mayHappen, he, hu, Bool.and_true, Bool.true_and, Bool.and_eq_true, Bool.or_eq_true, Bool.not_eq_true']
    exact ⟨ha, hh⟩

/-! ## After a thermal trip -/

theorem nextTurn_eq (s : State) : s.nextTurn.2 = { s with sched := s.nextTurn.2.sched } := by
  unfold State.nextTurn
  split <;> rfl

/-- After a thermal trip a turn runs nothing but the events that the package may still take (R20). -/
theorem runTurn_tripped {t : Turn} {s0 : State} (h : s0.plat.tripped = true) :
    runTurn t s0 = .next s0 ∨ ∃ i, t = .event i ∧ afterTrip i = true ∧ runTurn t s0 = exec i (s0.actAs .idle) := by
  cases t with
  | event i =>
    by_cases hi : s0.mayHappen i = true
    · refine .inr ⟨i, rfl, ?_, runTurn_event hi⟩
      simp only [State.mayHappen, h, Bool.not_true, Bool.false_or, Bool.and_eq_true] at hi
      exact hi.1.1.2
    · exact .inl (if_neg hi)
  | quarter core q => exact .inl (if_pos (by simp [State.stopped, h]))
  | host n => exact .inl (if_pos h)
  | tick | drain | drainHost | sendFlit | evictL1 | evictL2 | evictTlb | evictFetch | performLane | landLane | upsetRow | upsetCnt | upsetMem | poolStep =>
    exact .inl (if_pos (by simp [h]))

/-- The state differs in its schedule, its agent and the management controller's fields alone. -/
abbrev SidebandOnly (s t : State) : Prop :=
  t = { s with sched := t.sched, cur := t.cur, free := t.free,
               plat := { s.plat with temp := t.plat.temp, power := t.plat.power, limit := t.plat.limit, mctp := t.plat.mctp } }

/-- What runs after a trip is the management controller's answers, or the cold reset that ends it (R20, R21). -/
theorem exec_afterTrip {i : Instr} (hi : afterTrip i = true) {s t : State} (h : exec i s = .next t) : SidebandOnly s t ∨ i = .coldReset := by
  cases i <;> first | exact absurd hi Bool.false_ne_true | skip
  case coldReset => exact .inr rfl
  case mctpReadSensors => cases h; exact .inl rfl
  case mctpReadEventLog => cases h; exact .inl rfl
  case mctpSetPowerLimit w =>
    cases h
    left
    by_cases hw : w < 2400
    · rw [if_pos hw]
    · rw [if_neg hw]

/-- Settles O44: a tripped package runs the management controller's answers and the cold reset alone. -/
theorem thermalTripHalts : Obligations.ThermalTripHalts := by
  refine ⟨fun s => ⟨_, rfl, rfl, rfl⟩, fun s t hs ht => ?_⟩
  obtain ⟨u, s0, hu⟩ : ∃ u s0, s.nextTurn = (u, s0) := ⟨_, _, rfl⟩
  have h0 : s0 = { s with sched := s0.sched } := by simpa only [hu] using nextTurn_eq s
  have h0t : s0.plat.tripped = true := by rw [h0]; exact hs
  rw [step_eq hu] at ht
  rcases runTurn_tripped (t := u) h0t with h | ⟨i, rfl, hi, h⟩
  · cases h.symm.trans ht
    left
    rw [h0]
  · rw [h] at ht
    rcases exec_afterTrip hi ht with hside | rfl
    · left
      rw [SidebandOnly, h0] at hside
      exact hside
    · exact .inr ⟨s0, hu, ht⟩

end Sys2Proof
end

section
/-!
PROOF. Words that raise ILLEGAL_OP or PRIV at issue (02_code.md R34, R58 to R60): O48, O49.
-/

namespace Sys2Proof

open Machine

/-! ## Reserved guards and types -/

/-- A device instruction issues with the head it was decoded to. -/
theorem exec_issues {i : Instr} {major : BitVec 8} {minor : BitVec 4} {h : Head} (hi : deviceParts i = some (major, minor, h)) :
    ∃ (sh : Group → Shape) (body : Ctx → State → Effect), ∀ s, exec i s = issue sh h body s := by
  cases i <;> first
    | (cases hi; exact ⟨_, _, fun _ => rfl⟩)
    | exact absurd (congrArg Option.isSome hi) Bool.false_ne_true

theorem tyReserved_of_not_wf {t : Ty} (h : t.wf = false) : tyReserved t = true := by
  cases t <;> first | rfl | exact absurd h Bool.noConfusion

/-- The reserved guard and the reserved types break R58 in every instruction, without a value of their own as TVAL. -/
theorem illegal_of_reserved {h : Head} (hr : h.guard.wf = false ∨ h.ty.wf = false) (sh : Shape) (g : Group) : illegal sh g h = .bad none := by
  unfold illegal
  by_cases hg : h.guard.wf = false
  · have hg' : (!(h.guard.inv && h.guard.flag == 0)) = false := hg
    rw [hg']
    rfl
  · rw [tyReserved_of_not_wf (hr.resolve_left hg)]
    cases !(h.guard.inv && h.guard.flag == 0) && !(sh.always && h.guard.flag != 0) with
    | false => rfl
    | true => rw [Bool.not_true, Bool.and_false]; rfl

/-- Settles O48: a reserved guard or type breaks an encoding rule whatever the instruction. -/
theorem illegalWords : Obligations.IllegalWords := by
  intro i major minor h s gid g hi hr ha hd
  obtain ⟨sh, body, hx⟩ := exec_issues hi
  rw [hx, issue_bad ha hd (illegal_of_reserved hr (sh g) g), Option.getD_none]

/-! ## Supervisor instructions in user mode -/

/-- A legal supervisor-only instruction in user mode comes to the check of its mode (R59). -/
theorem issue_priv {sh : Group → Shape} {h : Head} {body : Ctx → State → Effect} {s : State} {gid : Nat} {g : Group} (ha : Acting s gid g)
    (hd : NoneDue g) (hill : illegal (sh g) g h = .ok) (hsup : (sh g).super = true) (hu : g.sup = false) :
    issue sh h body s = .next (settle (sh g) (privEffect (sh g) gid g h s body).1 g s (privEffect (sh g) gid g h s body).2) := by
  have hdrop := dropPending_of_noneDue (s := s) (gid := gid) hd
  obtain ⟨hcur, hg⟩ := ha
  obtain ⟨hdmr, hrf, hlate, hpoison⟩ := hd
  have hrf' : (!g.rfPend.isEmpty && !g.rfHold) = false := by rcases hrf with h | h <;> simp [h]
  have heff : effectOf (sh g) gid g h s body = privEffect (sh g) gid g h s body := by
    simp only [effectOf, hdmr, hrf', hlate, hpoison, hill, hsup, hu, Bool.false_eq_true, if_false, Bool.not_false, Bool.and_self, if_true]
  simp only [issue, hcur, hg, heff, hdrop]

/-- The PRIV that a group's word raises. -/
abbrev privTrap (s : State) (gid : Nat) (g : Group) : Host.Outcome State Fault Refusal := .next (trapAt s gid g cPriv (sameVal g.wordLanes g.pc))

/-- An instruction of which no value is judged raises PRIV at once (R59). -/
theorem issue_priv_of_unjudged {sh : Group → Shape} {h : Head} {body : Ctx → State → Effect} {s : State} {gid : Nat} {g : Group}
    (ha : Acting s gid g) (hd : NoneDue g) (hill : illegal (sh g) g h = .ok) (hsup : (sh g).super = true) (hu : g.sup = false)
    (hj : (sh g).judged = []) : issue sh h body s = privTrap s gid g := by
  rw [issue_priv ha hd hill hsup hu]
  simp only [privEffect, hj, List.isEmpty_nil, if_true]
  rfl

/-- The context in which a value of a supervisor-only instruction is judged (R55, R60). -/
def judgeCtx (sh : Shape) (gid : Nat) (g : Group) (h : Head) (s : State) : Ctx :=
  if g.gctl.getLsbD 0 then plainCtx sh gid g h s.clock else readCtx sh gid g h s (earlyPends g s.clock (itemsRead sh g h))

/-- The group whose values are judged. -/
def judgeGroup (sh : Shape) (gid : Nat) (g : Group) (h : Head) (s : State) : Group :=
  if g.gctl.getLsbD 0 then g else (readCtx sh gid g h s (earlyPends g s.clock (itemsRead sh g h))).g

theorem judgeCtx_g (sh : Shape) (gid : Nat) (g : Group) (h : Head) (s : State) : (judgeCtx sh gid g h s).g = judgeGroup sh gid g h s := by
  unfold judgeCtx judgeGroup
  split <;> rfl

theorem judgeCtx_ps (sh : Shape) (gid : Nat) (g : Group) (h : Head) (s : State) :
    (judgeCtx sh gid g h s).ps = (judgeGroup sh gid g h s).parts h.guard := by
  unfold judgeCtx judgeGroup readCtx
  split
  · rfl
  · split <;> rfl

/-- A judged value is not read where it is itself early under CHK. -/
abbrev unreadJudged (sh : Shape) (g : Group) (h : Head) (t : Nat) : Bool :=
  g.gctl.getLsbD 0 && judgedEarly sh (earlyPends g t (itemsRead sh g h))

/-- Where a value is judged, ILLEGAL_OP comes before PRIV (R60), unless the value is not read. -/
theorem issue_priv_of_judged {sh : Group → Shape} {h : Head} {body : Ctx → State → Effect} {s : State} {gid : Nat} {g : Group}
    (ha : Acting s gid g) (hd : NoneDue g) (hill : illegal (sh g) g h = .ok) (hsup : (sh g).super = true) (hu : g.sup = false)
    (hj : (sh g).judged ≠ []) (hw : s.issueWaits (sh g) gid g h = false) : issue sh h body s =
      .next (settle (sh g) (plainCtx (sh g) gid g h s.clock) g s
        (if unreadJudged (sh g) g h s.clock then .trap cPriv (sameVal g.wordLanes g.pc)
         else causeFirst [cIllegal] (body (judgeCtx (sh g) gid g h s) s) (.trap cPriv (sameVal g.wordLanes g.pc)))) := by
  have hj' : (sh g).judged.isEmpty = false := by simpa using hj
  rw [issue_priv ha hd hill hsup hu]
  simp only [privEffect, hj', hw, Bool.false_eq_true, if_false, unreadJudged]
  split <;> rfl

/-! ## ownset -/

/-- The checks and the effect of ownset (R286). -/
def ownsetBody (h : Head) (c : Ctx) (s : State) : Effect :=
  if c.ps.isEmpty then .done s
  else
    let a := readNum c.g h.a
    let n := readNum c.g h.b
    if countBad n then .trap cIllegal (sameVal c.ps n)
    else if a.toNat % 2 ^ 21 ≠ 0 then .trap cAlign (sameVal c.ps a)
    else match ((List.range n.toNat).map fun k => a.toNat + k * 2 ^ 21).find? fun pa => !s.hasRegion pa with
      | some pa => .trap cAccess (sameVal c.ps (BitVec.ofNat 64 pa))
      | none =>
        .done (s.postToken c.gid
          (.ownset c.gid (scalNum h.d) (regionOf a.toNat) n.toNat (h.mods.extractLsb' 0 2).toNat (h.mods.getLsbD 2)) h.d)

theorem exec_ownset (h : Head) (s : State) : exec (.ownset h) s = issue (fun _ => ownsetShape h) h (ownsetBody h) s := rfl

/-- With a count in range, or where no lane participates, ownset has no ILLEGAL_OP of its own to raise. -/
theorem causeFirst_ownsetBody_priv {h : Head} {c : Ctx} (s : State) (other : Effect) (hc : c.ps = [] ∨ countBad (readNum c.g h.b) = false) :
    causeFirst [cIllegal] (ownsetBody h c s) other = other := by
  unfold ownsetBody
  by_cases hp : c.ps.isEmpty = true
  · rw [if_pos hp]; rfl
  · have hb : ¬ countBad (readNum c.g h.b) = true := by
      rcases hc with hc | hc
      · exact absurd (List.isEmpty_iff.2 hc) hp
      · exact Bool.eq_false_iff.1 hc
    rw [if_neg hp, if_neg hb]
    split
    · rfl
    · split <;> rfl

theorem causeFirst_ownsetBody_illegal {h : Head} {c : Ctx} (s : State) (other : Effect) (hp : c.ps ≠ []) (hb : countBad (readNum c.g h.b) = true) :
    causeFirst [cIllegal] (ownsetBody h c s) other = .trap cIllegal (sameVal c.ps (readNum c.g h.b)) := by
  unfold ownsetBody
  rw [if_neg (by simpa using hp), if_pos hb]
  rfl

/-- Settles O49: only ownset judges a value before its mode; every other supervisor instruction raises PRIV at once. -/
theorem privilegedInUserMode : Obligations.PrivilegedInUserMode := by
  intro h s gid g p hp ha hd hill hu
  have unjudged : ∀ {sh : Shape} {body : Ctx → State → Effect}, illegal sh g h = .ok → sh.super = true → sh.judged = [] →
      issue (fun _ => sh) h body s = privTrap s gid g := fun hi hs hj => issue_priv_of_unjudged (sh := fun _ => _) ha hd hi hs hu hj
  simp only [List.mem_cons, List.not_mem_nil, or_false] at hp
  rcases hp with rfl | rfl | rfl | rfl | rfl | rfl | rfl
  case inr.inr.inr.inr.inr.inr =>
    intro early unread g1
    have hg1 : g1 = judgeGroup (ownsetShape h) gid g h s := rfl
    have hun : unread = unreadJudged (ownsetShape h) g h s.clock := rfl
    refine ⟨fun hcase => ?_, fun hj hw hu' hps hb => ?_⟩
    · by_cases hj : (ownsetShape h).judged = []
      · exact unjudged hill rfl hj
      obtain ⟨hw, hcase⟩ := hcase.resolve_left hj
      rw [exec_ownset, issue_priv_of_judged (sh := fun _ => ownsetShape h) ha hd hill rfl hu hj hw, ← hun]
      by_cases hr : unread = true
      · rw [if_pos hr]; rfl
      · rw [if_neg hr, causeFirst_ownsetBody_priv]
        · rfl
        · rw [judgeCtx_ps, judgeCtx_g, ← hg1]
          exact hcase.resolve_left hr
    · rw [exec_ownset, issue_priv_of_judged (sh := fun _ => ownsetShape h) ha hd hill rfl hu hj hw, ← hun,
        if_neg (Bool.eq_false_iff.1 hu'), causeFirst_ownsetBody_illegal]
      · rw [judgeCtx_ps, judgeCtx_g, ← hg1]; rfl
      · rw [judgeCtx_ps, ← hg1]; exact hps
      · rw [judgeCtx_g, ← hg1]; exact hb
  all_goals exact ⟨fun _ => unjudged hill rfl rfl, fun hj => absurd rfl hj⟩

end Sys2Proof
end

section
/-!
PROOF. Trap entry, register by register (15_traps.md R455): O45.
-/

namespace Sys2Proof

open Machine

/-! ## TMASK -/

theorem getLsbD_laneBit (k l : Nat) (hl : l < 64) : (BitVec.ofNat 64 (2 ^ k)).getLsbD l = decide (k = l) := by
  rw [BitVec.getLsbD_ofNat, Nat.testBit_two_pow, decide_eq_true hl, Bool.true_and]

/-- TMASK has the bits of the handler lanes (R455). -/
theorem getLsbD_laneMask {l : Nat} (hl : l < 64) (ls : List Nat) : (laneMask ls).getLsbD l = decide (l ∈ ls) := by
  have fold : ∀ (ls : List Nat) (m : W64),
      (ls.foldl (fun m l => m ||| BitVec.ofNat 64 (2 ^ l)) m).getLsbD l = (m.getLsbD l || decide (l ∈ ls)) := by
    intro ls
    induction ls with
    | nil => intro m; simp
    | cons k r ih =>
      intro m
      rw [List.foldl_cons, ih, BitVec.getLsbD_or, getLsbD_laneBit k l hl]
      simp only [List.mem_cons, Bool.or_assoc, eq_comm (a := k), Bool.decide_or]
  exact (fold ls 0).trans (by rw [show (0 : W64) = 0#64 from rfl, BitVec.getLsbD_zero, Bool.false_or])

theorem isSome_lookup (l : Nat) : ∀ xs : List (Nat × W64), (xs.lookup l).isSome = decide (l ∈ xs.map Prod.fst)
  | [] => rfl
  | (k, v) :: r => by
    by_cases h : l = k
    · simp [List.lookup, h]
    · have hb : (l == k) = false := beq_false_of_ne h
      simp [List.lookup, hb, isSome_lookup l r, h]

/-! ## The lanes -/

/-- A trapped lane's transaction aside, its registers are as they were (R329). -/
theorem doomTrapped_lane_fields (tr : Trap) (g : Group) (l : Nat) : let ln := (doomTrapped tr g).lane l
    ln.cnt = (g.lane l).cnt ∧ ln.sr = (g.lane l).sr ∧ ln.parked = (g.lane l).parked ∧ ln.eligible = (g.lane l).eligible := by
  rw [lane_doomTrapped]
  exact ⟨rfl, rfl, rfl, rfl⟩

theorem eligibles_doomTrapped (tr : Trap) (g : Group) : (doomTrapped tr g).eligibles = g.eligibles :=
  List.filter_congr fun l _ => (doomTrapped_lane_fields tr g l).2.2.2

theorem length_doomTrapped (tr : Trap) (g : Group) : (doomTrapped tr g).lanes.length = g.lanes.length := List.length_mapIdx

theorem length_enterTrap (g : Group) (tr : Trap) (b : W64) : (g.enterTrap tr b).lanes.length = g.lanes.length := List.length_mapIdx

/-- What entry makes of an eligible lane (R455): a handler lane or a parked one. -/
def entered (tr : Trap) (l : Nat) (ln : Lane) : Lane :=
  match tr.lanes.lookup l with
  | some v => { { ln with tnest := ln.cnt, tsrst := ln.sr }.setCnt 0 with tcause := BitVec.ofNat 8 tr.cause, tval := v }
  | none => { { ln with tnest := ln.cnt, tsrst := ln.sr } with parked := true }

/-- Entry changes the eligible lanes alone. -/
theorem lane_enterTrap (g : Group) (tr : Trap) (b : W64) (l : Nat) :
    (g.enterTrap tr b).lane l = if l ∈ g.eligibles ∧ l < g.lanes.length then entered tr l (g.lane l) else g.lane l := by
  have hf : g.enterTrap tr b = { g.enterTrap tr b with lanes := (g.modLanes g.eligibles (entered tr)).lanes } := rfl
  have hl : (g.enterTrap tr b).lane l = (g.modLanes g.eligibles (entered tr)).lane l := by rw [hf]; rfl
  rw [hl, lane_modLanes]

theorem entered_saves (tr : Trap) (l : Nat) (ln : Lane) : (entered tr l ln).tnest = ln.cnt ∧ (entered tr l ln).tsrst = ln.sr := by
  unfold entered
  split <;> exact ⟨rfl, rfl⟩

theorem entered_of_some {tr : Trap} {l : Nat} {v : W64} (hv : tr.lanes.lookup l = some v) (ln : Lane) : let e := entered tr l ln
    e.tcause = BitVec.ofNat 8 tr.cause ∧ e.tval = v ∧ e.cnt = 0 ∧ e.parked = ln.parked := by
  simp only [entered, hv, Lane.setCnt, and_self]

theorem entered_of_none {tr : Trap} {l : Nat} (hv : tr.lanes.lookup l = none) (ln : Lane) :
    (entered tr l ln).parked = true ∧ (entered tr l ln).cnt = ln.cnt := by
  simp only [entered, hv]
  exact ⟨trivial, trivial⟩

theorem not_parked_of_eligible {g : Group} {l : Nat} (h : l ∈ g.eligibles) : (g.lane l).parked = false := by
  have h' := (List.mem_filter.1 h).2
  simp only [Lane.eligible, Bool.and_eq_true, Bool.not_eq_true'] at h'
  exact h'.2

/-! ## Which entry is taken -/

/-- The state of the die is what it was when the trap is taken. -/
theorem trapFrom_die (s : State) (gid : Nat) (g : Group) (tr : Trap) (d : Nat) : (trapFrom s gid g tr).die d = s.die d := by
  rw [trapFrom_eq]; rfl

/-- Whether the traps of a group's team are enabled (R455). -/
def trapsEnabled (s : State) (g : Group) : Bool := match klookup s.teams g.team with | some t => t.trapsOn | none => true

/-- The three ways a trap can go (R455). -/
theorem takeTrap_eq {s : State} {gid : Nat} {g : Group} (hg : klookup s.groups gid = some g) (tr : Trap) : s.takeTrap gid tr =
    if g.sup then (trapFrom s gid g tr).doubleTrap gid (doomTrapped tr g) (s.asidOf g)
    else if !trapsEnabled s g then (trapFrom s gid g tr).teamFault g.team
    else (trapFrom s gid g tr).setGroup gid ((doomTrapped tr g).enterTrap tr ((trapFrom s gid g tr).die (dieOf g.core)).tvbase) := by
  simp only [State.takeTrap, hg]
  rfl

/-- In user mode a trap is a team fault where the team's traps are disabled, else an entry (R455). -/
theorem takeTrap_of_user {s : State} {gid : Nat} {g : Group} (hg : klookup s.groups gid = some g) (hu : g.sup = false) (tr : Trap) :
    s.takeTrap gid tr =
      if trapsEnabled s g then
        (trapFrom s gid g tr).setGroup gid ((doomTrapped tr g).enterTrap tr (s.die (dieOf g.core)).tvbase)
      else (trapFrom s gid g tr).teamFault g.team := by
  rw [takeTrap_eq hg, if_neg (Bool.eq_false_iff.1 hu), trapFrom_die]
  cases trapsEnabled s g <;> rfl

/-- Settles O45: an entry saves and sets the registers of the eligible lanes and of the group, and changes no other lane. -/
theorem trapEntry : Obligations.TrapEntry := by
  intro s gid g tr hg g0 s0
  refine ⟨fun hs => takeTrap_of_sup hg hs tr, ?_, fun hu hon => ?_⟩
  · rintro hu ⟨t, ht, hoff⟩
    have hoff' : ¬ trapsEnabled s g = true := by simp only [trapsEnabled, ht, hoff, Bool.false_eq_true, not_false_eq_true]
    rw [takeTrap_of_user hg hu, if_neg hoff']
  have hon' : trapsEnabled s g = true := by
    unfold trapsEnabled
    split
    case h_1 t ht => exact hon t ht
    case h_2 => rfl
  refine ⟨g0.enterTrap tr (s.die (dieOf g.core)).tvbase, ?_, rfl, ?_, fun l hl hlt => ?_, fun l hl => ?_, rfl, rfl, fun l hl => ?_, rfl, rfl, rfl,
    rfl, rfl⟩
  · rw [takeTrap_of_user hg hu, if_pos hon']
  · rw [length_enterTrap, length_doomTrapped]
  · obtain ⟨hcnt, hsr, hpark, -⟩ := doomTrapped_lane_fields tr g l
    rw [lane_enterTrap, if_pos ⟨(eligibles_doomTrapped tr g).symm ▸ hl, (length_doomTrapped tr g).symm ▸ hlt⟩]
    obtain ⟨hnest, hsrst⟩ := entered_saves tr l (g0.lane l)
    refine ⟨hnest.trans hcnt, hsrst.trans hsr, fun v hv => ?_, fun hv => ?_⟩
    · obtain ⟨hc, ht, hz, hp⟩ := entered_of_some hv (g0.lane l)
      exact ⟨hc, ht, hz, (hp.trans hpark).trans (not_parked_of_eligible hl)⟩
    · obtain ⟨hp, hc⟩ := entered_of_none hv (g0.lane l)
      exact ⟨hp, hc.trans hcnt⟩
  · rw [lane_enterTrap, if_neg fun h => hl (eligibles_doomTrapped tr g ▸ h.1)]
  · exact (getLsbD_laneMask hl _).trans (isSome_lookup l tr.lanes).symm

end Sys2Proof
end

section
/-!
SUPPORT. The computing instructions as one family (02_code.md R35, 06_pipes.md R184, R186): each issues the shared `compute` or `test` and has no other
rule of issue than its operands'.
-/

namespace Sys2Proof

open Machine

/-- Nothing but its operands holds or traps an instruction of this shape at issue (R54, R59, R121, R474). -/
structure PlainShape (sh : Shape) : Prop where
  form : sh.form = true ∨ ∃ o, sh.d = .op o ∧ o.scal = false
  super : sh.super = false
  access : sh.access = false
  mute : sh.mute = false
  poisonLast : sh.poisonLast = false
  region : sh.region = false
  afterTend : sh.afterTend = false
  skipIx : sh.skipIx = none

/-- The instruction computes a function of its sources (R184). -/
structure IsCompute (p : (Head → Instr) × (Head → Shape)) (h : Head) : Prop where
  issues : ∃ f : Ctx → Nat → Nat → Nat → Nat, ∀ s, exec (p.1 h) s = issue (fun _ => p.2 h) h (fun c s => compute (fun _ => p.2 h) (f c) c s) s
  plain : PlainShape (p.2 h)

/-- The instruction tests its sources (R186). -/
structure IsTest (p : (Head → Instr) × (Head → Group → Shape)) (h : Head) : Prop where
  issues : ∃ f : Ctx → Nat → Nat → Bool, ∀ s, exec (p.1 h) s = issue (p.2 h) h (fun c s => test (p.2 h) (f c) c s) s
  plain : ∀ g, PlainShape (p.2 h g)

theorem isCompute_integer : ∀ p ∈ computeForms.take 18, ∀ h, IsCompute p h := by
  intro p hp h
  simp only [computeForms, List.cons_append, List.nil_append, List.take_succ_cons, List.take_zero, List.mem_cons, List.not_mem_nil, or_false] at hp
  rcases hp with rfl | rfl | rfl | rfl | rfl | rfl | rfl | rfl | rfl | rfl | rfl | rfl | rfl | rfl | rfl | rfl | rfl | rfl
  all_goals exact ⟨⟨_, fun _ => rfl⟩, ⟨.inl rfl, rfl, rfl, rfl, rfl, rfl, rfl, rfl⟩⟩

theorem isCompute_bits : ∀ p ∈ (computeForms.drop 18).take 10, ∀ h, IsCompute p h := by
  intro p hp h
  simp only [computeForms, List.cons_append, List.nil_append, List.drop_succ_cons, List.drop_zero, List.take_succ_cons, List.take_zero, List.mem_cons,
    List.not_mem_nil, or_false] at hp
  rcases hp with rfl | rfl | rfl | rfl | rfl | rfl | rfl | rfl | rfl | rfl
  case inr.inr.inr.inr.inr.inr.inr.inr.inl => exact ⟨⟨_, fun _ => rfl⟩, ⟨.inr ⟨_, rfl, rfl⟩, rfl, rfl, rfl, rfl, rfl, rfl, rfl⟩⟩
  case inr.inr.inr.inr.inr.inr.inr.inr.inr => exact ⟨⟨_, fun _ => rfl⟩, ⟨.inr ⟨_, rfl, rfl⟩, rfl, rfl, rfl, rfl, rfl, rfl, rfl⟩⟩
  all_goals exact ⟨⟨_, fun _ => rfl⟩, ⟨.inl rfl, rfl, rfl, rfl, rfl, rfl, rfl, rfl⟩⟩

theorem isCompute_float : ∀ p ∈ (computeForms.drop 18).drop 10, ∀ h, IsCompute p h := by
  intro p hp h
  simp only [computeForms, List.cons_append, List.nil_append, List.drop_succ_cons, List.drop_zero, List.mem_cons, List.not_mem_nil, or_false] at hp
  rcases hp with rfl | rfl | rfl | rfl | rfl | rfl | rfl | rfl | rfl | rfl | rfl | rfl | rfl | rfl | rfl
  all_goals exact ⟨⟨_, fun _ => rfl⟩, ⟨.inl rfl, rfl, rfl, rfl, rfl, rfl, rfl, rfl⟩⟩

theorem isCompute {p : (Head → Instr) × (Head → Shape)} (hp : p ∈ computeForms) (h : Head) : IsCompute p h := by
  rw [← List.take_append_drop 18 computeForms, ← List.take_append_drop 10 (computeForms.drop 18), List.mem_append, List.mem_append] at hp
  rcases hp with hp | hp | hp
  · exact isCompute_integer p hp h
  · exact isCompute_bits p hp h
  · exact isCompute_float p hp h

theorem isTest {p : (Head → Instr) × (Head → Group → Shape)} (hp : p ∈ testForms) (h : Head) : IsTest p h := by
  simp only [testForms, List.mem_cons, List.not_mem_nil, or_false] at hp
  rcases hp with rfl | rfl | rfl
  all_goals exact ⟨⟨_, fun _ => rfl⟩, fun _ => ⟨.inl rfl, rfl, rfl, rfl, rfl, rfl, rfl, rfl⟩⟩

/-- Whatever its lanes, a computation is done. -/
theorem compute_isDone (sh : Group → Shape) (f : Nat → Nat → Nat → Nat) (c : Ctx) (s : State) : ∃ t, compute sh f c s = .done t := by
  unfold compute
  simp only []
  split
  · exact ⟨_, rfl⟩
  · split <;> exact ⟨_, rfl⟩

end Sys2Proof
end

section
/-!
PROOF. How a computing instruction waits and traps at issue, and what it leaves as it was (02_code.md R54, R55, R121; 15_traps.md R471, R474): O50,
O51.
-/

namespace Sys2Proof

open Machine

/-! ## Waiting and stalling at issue -/

/-- The instruction is legal in its mode, and no cause is due for its group: what is left are its items and its operands (R60). -/
structure Admitted (sh : Shape) (s : State) (gid : Nat) (g : Group) (h : Head) : Prop where
  acting : Acting s gid g
  due : NoneDue g
  legal : illegal sh g h = .ok
  user : sh.super = false

/-- An admitted instruction that its items hold waits with nothing changed (R54). -/
theorem issue_waits {sh : Group → Shape} {h : Head} {body : Ctx → State → Effect} {s : State} {gid : Nat} {g : Group}
    (ha : Admitted (sh g) s gid g h) (hw : s.issueWaits (sh g) gid g h = true) : issue sh h body s = .next s := by
  obtain ⟨⟨hcur, hg⟩, hdue, hill, hsup⟩ := ha
  have hdrop := dropPending_of_noneDue (s := s) (gid := gid) hdue
  obtain ⟨hdmr, hrf, hlate, hpoison⟩ := hdue
  have hrf' : (!g.rfPend.isEmpty && !g.rfHold) = false := by rcases hrf with h | h <;> simp [h]
  have heff : effectOf (sh g) gid g h s body = (plainCtx (sh g) gid g h s.clock, .retry) := by
    simp only [effectOf, hdmr, hrf', hlate, hpoison, hill, hsup, hw, Bool.false_and, Bool.false_eq_true, if_false, if_true]
  simp only [issue, hcur, hg, heff, hdrop, settle]

/-- An admitted instruction that meets an earlier result early under CHK stalls, where its own effect is no ILLEGAL_OP (R55). -/
theorem issue_stalls {sh : Group → Shape} {h : Head} {body : Ctx → State → Effect} {s : State} {gid : Nat} {g : Group} {early : List Pend}
    (ha : Admitted (sh g) s gid g h) (hw : s.issueWaits (sh g) gid g h = false) (hm : (sh g).mute = false)
    (he : earlyPends g s.clock (itemsRead (sh g) g h ++ itemsWritten (sh g) g h) = early) (hne : early ≠ []) (hchk : g.gctl.getLsbD 0 = true)
    (hp : g.parts h.guard ≠ []) (hb : ∀ c, ∃ t, body c s = .done t) :
    issue sh h body s = .next (trapAt s gid g cStall (sameVal (if guardEarly h early then g.wordLanes else g.parts h.guard) g.pc)) := by
  obtain ⟨⟨hcur, hg⟩, hdue, hill, hsup⟩ := ha
  have hdrop := dropPending_of_noneDue (s := s) (gid := gid) hdue
  obtain ⟨hdmr, hrf, hlate, hpoison⟩ := hdue
  have hrf' : (!g.rfPend.isEmpty && !g.rfHold) = false := by rcases hrf with h | h <;> simp [h]
  have hpend : g.pend.isEmpty = false := by
    by_contra hc
    have hnil : g.pend = [] := by simpa using hc
    exact hne (he ▸ by simp [earlyPends, hnil])
  obtain ⟨q, qs, rfl⟩ : ∃ q qs, early = q :: qs := List.exists_cons_of_ne_nil hne
  have hps : (g.parts h.guard).isEmpty = false := by simpa using hp
  have hstall : stalls (sh g) (plainCtx (sh g) gid g h s.clock) (q :: qs) = true := by
    simp [stalls, plainCtx, hp]
  obtain ⟨t, ht⟩ := hb (plainCtx (sh g) gid g h s.clock)
  have heff : effectOf (sh g) gid g h s body = (plainCtx (sh g) gid g h s.clock,
      .trap cStall (sameVal (if guardEarly h (q :: qs) then g.wordLanes else g.parts h.guard) g.pc)) := by
    simp only [effectOf, hdmr, hrf', hlate, hpoison, hill, hsup, hw, hpend, he, hchk, hm, hstall, Bool.false_and, Bool.not_false, Bool.and_self,
      Bool.false_eq_true, if_false, if_true, stallEffect, ht, causeFirst, ite_self]
    simp only [plainCtx, hps, Bool.false_or]
    rfl
  simp only [issue, hcur, hg, heff, hdrop, settle]
  rfl

/-! ## INDEX_BOUND and POISON -/

/-- A ready instruction whose own effect is no cause of its own raises INDEX_BOUND where an operand leaves its window (R121). -/
theorem effectIn_index {sh : Shape} {c : Ctx} {s : State} {body : Ctx → State → Effect} (hi : indexFails sh c.g c.h c.ps ≠ [])
    (hb : ∃ t, body c s = .done t) : effectIn sh c s body = .trap cIndex (indexFails sh c.g c.h c.ps) := by
  obtain ⟨t, ht⟩ := hb
  obtain ⟨f, fs, hf⟩ := List.exists_cons_of_ne_nil hi
  simp only [effectIn, hf, ht, causeFirst]

/-- With its operands in their windows it consumes the poison of its sources (R474). -/
theorem effectIn_poison {sh : Shape} {c : Ctx} {s : State} {body : Ctx → State → Effect} (hm : sh.mute = false) (hl : sh.poisonLast = false)
    (hi : indexFails sh c.g c.h c.ps = []) (hp : poisonFails sh c.g c.h c.ps ≠ []) (hb : ∃ t, body c s = .done t) :
    effectIn sh c s body = .poison (poisonFails sh c.g c.h c.ps) := by
  obtain ⟨t, ht⟩ := hb
  obtain ⟨f, fs, hf⟩ := List.exists_cons_of_ne_nil hp
  simp only [effectIn, hi, hm, hl, Bool.or_self, Bool.false_eq_true, if_false, hf, ht, causeFirst]

/-- Consumed poison goes through the group's restart region, where the shape opens none of its own (R471). -/
theorem settle_poison {sh : Shape} (hr : sh.region = false) (c : Ctx) (g : Group) (s : State) (ls : List (Nat × W64)) :
    settle sh c g s (.poison ls) = failOrRestart s c.gid g (s.asidOf g) fun s =>
      trapAt (s.modGroup c.gid fun g => { g with poisPend := [] }) c.gid g cPoison ls := by
  have hg : { g with ractive := g.ractive && !sh.region } = g := by rw [hr, Bool.not_false, Bool.and_true]
  simp only [settle, hg]

section
variable {s : State} {gid : Nat} {g : Group} {asid : Nat} {fail : State → State}

theorem failOrRestart_of_closed (ha : g.ractive = false) : failOrRestart s gid g asid fail = fail s := by
  simp [failOrRestart, ha]

theorem failOrRestart_of_busy (ha : g.ractive = true) (hb : g.busy ≠ []) : failOrRestart s gid g asid fail = s := by
  simp [failOrRestart, ha, hb]

theorem failOrRestart_of_left (ha : g.ractive = true) (hb : g.busy = []) (hr : g.rcnt.toNat < g.rrlim.toNat) : failOrRestart s gid g asid fail =
    (s.setGroup gid (g.dropLoaded.restart s.clock)).report (dieOf g.core) 14 asid g.core (g.rentry.toNat % 2 ^ 52) := by
  simp only [failOrRestart, ha, hb, List.isEmpty_nil, Bool.not_true, Bool.false_eq_true, if_false]
  exact if_neg (Nat.not_le.2 hr)

theorem failOrRestart_of_used (ha : g.ractive = true) (hb : g.busy = []) (hr : g.rrlim.toNat ≤ g.rcnt.toNat) : failOrRestart s gid g asid fail =
    fail (s.modGroup gid Group.endRegion) := by
  simp only [failOrRestart, ha, hb, List.isEmpty_nil, Bool.not_true, Bool.false_eq_true, if_false]
  exact if_pos hr

end

/-- The items of a plain shape alone hold it at issue. -/
theorem issueWaits_of_plain {sh : Shape} (hs : PlainShape sh) (s : State) (gid : Nat) (g : Group) (h : Head) :
    s.issueWaits sh gid g h = busyHit sh g h := by
  simp only [State.issueWaits, waitsAtIssue, hs.access, hs.afterTend, Bool.false_and, Bool.or_false]

/-- Settles O50: with a shape that adds no rule of issue, only busy items, early results, windows and poison stand before a computation. -/
theorem interlockAndStall : Obligations.InterlockAndStall := by
  intro p hp h s gid g sh ps early
  obtain ⟨⟨f, hx⟩, hs⟩ := isCompute hp h
  replace hs : PlainShape sh := hs
  obtain ⟨body, hissue, hdone⟩ : ∃ body, exec (p.1 h) s = issue (fun _ => sh) h body s ∧ ∀ c, ∃ t, body c s = .done t :=
    ⟨_, hx s, fun c => compute_isDone _ _ c s⟩
  have hwait : s.issueWaits sh gid g h = busyHit sh g h := issueWaits_of_plain hs s gid g h
  clear_value sh
  refine ⟨fun ha hd hill => ⟨fun hb => ?_, fun hb he hchk hps => ?_⟩, fun hr => ⟨fun hi => ?_, fun hi hpo => ?_⟩⟩
  · exact hissue.trans (issue_waits (sh := fun _ => sh) ⟨ha, hd, hill, hs.super⟩ (hwait.trans hb))
  · exact hissue.trans (issue_stalls (sh := fun _ => sh) ⟨ha, hd, hill, hs.super⟩ (hwait.trans hb) hs.mute rfl he hchk hps hdone)
  · rw [hissue, issue_ready (sh := fun _ => sh) hr, effectIn_index (c := plainCtx sh gid g h s.clock) hi (hdone _)]
    rfl
  · have hissue : exec (p.1 h) s = .next (failOrRestart s gid g (s.asidOf g) fun s =>
        trapAt (s.modGroup gid fun g => { g with poisPend := [] }) gid g cPoison (poisonFails sh g h ps)) := by
      rw [hissue, issue_ready (sh := fun _ => sh) hr, effectIn_poison (c := plainCtx sh gid g h s.clock) hs.mute hs.poisonLast hi hpo (hdone _), settle_poison hs.region]
      rfl
    rw [hissue]
    refine ⟨fun ha => ?_, fun ha hb => ?_, fun ha hb hr => ?_, fun ha hb hr => ?_⟩
    · rw [failOrRestart_of_closed ha]
    · rw [failOrRestart_of_busy ha hb]
    · rw [failOrRestart_of_left ha hb hr]
    · rw [failOrRestart_of_used ha hb hr]

end Sys2Proof
end
section
/-!
PROOF. What a computing instruction leaves as it was (02_code.md R34, R35, R49, R50, R122; 06_pipes.md R186): O51.
-/

namespace Sys2Proof

open Machine

/-! ## Post-increment -/

/-- Post-increment changes the lanes alone. -/
theorem postInc_eq (ixs ls : List Nat) (g : Group) : postInc g ixs ls = { g with lanes := (postInc g ixs ls).lanes } := by
  induction ixs generalizing g with
  | nil => rfl
  | cons k r ih =>
    rw [postInc, ih]
    rfl

/-- A legal scalar destination leaves no operand that post-increments (R47). -/
theorem postIxs_of_scal {sh : Shape} {g : Group} {h : Head} (hs : PlainShape sh) (hl : illegal sh g h = .ok) (hd : isScal h.d = true) :
    postIxs h = [] ∧ sh.form = true ∧ isUniform sh h = true := by
  obtain ⟨hfd, hfa, hfb⟩ := fields_of_legal hl
  obtain ⟨n, rsv, hn⟩ : ∃ n rsv, h.d = .scal n rsv := by
    cases hx : h.d <;> simp_all [isScal]
  have hform : sh.form = true := by
    rcases hs.form with hform | ⟨o, ho, hscal⟩
    · exact hform
    · rw [ho, hn] at hfd
      simp [fldVerdict, opndVerdict, Verdict.and_eq_ok, must_eq_ok, hscal] at hfd
  have huni : isUniform sh h = true := by
    simp only [illegal, Verdict.and_eq_ok] at hl
    obtain ⟨-, -, -, -, -, -, -, hf, -⟩ := hl
    simpa [formVerdict, must_eq_ok, hform, hd] using hf
  have direct : ∀ (fl : Fld) (f : Operand), (match fl with | .op _ => isScal f || isImm f | _ => true) = true → fldVerdict g false fl f = .ok →
      ∀ ix post disp part, f ≠ .ind ix post disp part := by
    rintro fl f hu hv ix post disp part rfl
    cases fl with
    | op o => exact absurd hu Bool.false_ne_true
    | zero => simp [fldVerdict, must, isZero] at hv
    | cls k => simp [fldVerdict] at hv
  obtain ⟨ha, hb⟩ : (match sh.a with | .op _ => isScal h.a || isImm h.a | _ => true) = true ∧
      (match sh.b with | .op _ => isScal h.b || isImm h.b | _ => true) = true := by
    simp only [isUniform, hd, Bool.true_and, Bool.and_eq_true] at huni
    exact huni
  refine ⟨?_, hform, huni⟩
  have hia := direct sh.a h.a ha hfa
  have hib := direct sh.b h.b hb hfb
  simp only [postIxs, hn]
  rfl

/-! ## What an effect writes -/

/-- `w` differs from `g` in the lanes that take part and in a scalar destination alone (R35, R49). -/
structure WritesOnly (g : Group) (h : Head) (w : Group) : Prop where
  fields : w = { g with lanes := w.lanes, scal := w.scal }
  scalars : ∀ k, ¬ (isScal h.d = true ∧ k = scalNum h.d) → w.getS k = g.getS k
  lanes : ∀ l, l ∉ g.parts h.guard ∨ isScal h.d = true → w.lane l = g.lane l

theorem WritesOnly.refl (g : Group) (h : Head) : WritesOnly g h g := ⟨rfl, fun _ _ => rfl, fun _ _ => rfl⟩

theorem WritesOnly.setS {h : Head} (hd : isScal h.d = true) (g : Group) (v : W64) : WritesOnly g h (g.setS (scalNum h.d) v) where
  fields := by
    unfold Group.setS
    split <;> rfl
  scalars := fun k hk => getS_setS g _ k v fun he => hk ⟨hd, he⟩
  lanes := fun l _ => by
    unfold Group.setS
    split <;> rfl

theorem WritesOnly.modLanes {h : Head} (hd : isScal h.d = false) (g : Group) (f : Nat → Lane → Lane) :
    WritesOnly g h (g.modLanes (g.parts h.guard) f) where
  fields := rfl
  scalars := fun _ _ => rfl
  lanes := fun l hl => by
    have hnot : l ∉ g.parts h.guard := hl.resolve_right (by simp [hd])
    rw [lane_modLanes, if_neg fun hc => hnot hc.1]

/-- The group after an instruction that went on: what its effect wrote, the post-increment, and the registers of its issue. -/
structure RanGroup (g : Group) (h : Head) (w g1 : Group) : Prop where
  fields : g1 = { g with pc := g.pc + headLen h, lanes := g1.lanes, scal := g1.scal, sig := g1.sig, readyAt := g1.readyAt, pend := g1.pend,
                         wait := .none, held := none }
  scalars : ∀ k, ¬ (isScal h.d = true ∧ k = scalNum h.d) → g1.getS k = g.getS k
  lanes : ∀ l, l ∉ g.parts h.guard ∨ isScal h.d = true → g1.lane l = g.lane l
  offs : ∀ l k, k ∉ postIxs h → (g1.lane l).off k = (w.lane l).off k
  rest : ∀ l, g1.lane l = { w.lane l with offs := (g1.lane l).offs }

/-- State `t` is `s` with its group gone to `w`, as the next change of the group finds it. -/
abbrev LeavesGroup (s t : State) (gid : Nat) (w : Group) : Prop := ∀ f : Group → Group, t.modGroup gid f = s.setGroup gid (f w)

theorem leavesGroup_refl {s : State} {gid : Nat} {g : Group} (hg : klookup s.groups gid = some g) : LeavesGroup s s gid g :=
  fun f => State.modGroup_of s hg f

theorem leavesGroup_modGroup {s : State} {gid : Nat} {g : Group} (hg : klookup s.groups gid = some g) (w : Group → Group) :
    LeavesGroup s (s.modGroup gid w) gid (w g) := fun f => by rw [State.modGroup_of s hg, modGroup_setGroup]

/-- A plain instruction whose effect writes its destination leaves a group of that kind. -/
theorem ran_group {sh : Shape} {s t : State} {gid : Nat} {g w : Group} {h : Head} (hs : PlainShape sh)
    (hc : Clear sh s gid g h) (ht : LeavesGroup s t gid w) (hw : WritesOnly g h w) :
    ∃ g1, ran sh s gid g h t = s.setGroup gid g1 ∧ RanGroup g h w g1 := by
  obtain ⟨⟨-, -, hill, -, -, hearly⟩, -, -⟩ := hc
  obtain ⟨q, pd, sg, hset⟩ := settle_frame (sh := sh) (gid := gid) (n := s.free) (g := g) (g1 := w) (h := h) (t := s.clock)
    (pc := g.pc + headLen h) hs.region (earlyPends_right hearly) hs.skipIx
  obtain ⟨g1, hg1⟩ : ∃ g1, g1 = settleGroup sh (plainCtx sh gid g h s.clock) s.free g w (g.pc + headLen h) := ⟨_, rfl⟩
  refine ⟨g1, (ht _).trans (congrArg _ hg1.symm), ?_⟩
  rw [hset] at hg1
  subst hg1
  obtain ⟨hfields, hscal, hlanes⟩ := hw
  have hpost := postInc_eq (postIxs h) (g.parts h.guard) { w with pend := pd }
  have hlane := fun l => postInc_lane (postIxs h) (g.parts h.guard) { w with pend := pd } l
  refine ⟨?_, fun k hk => ?_, fun l hl => ?_, fun l k hk => ?_, fun l => ?_⟩
  · rw [hpost, hfields]
  · rw [← hscal k hk, hpost]
    rfl
  · rcases hl with hl | hl
    · exact ((hlane l).1 hl).trans (hlanes l (.inl hl))
    · have hnil := (postIxs_of_scal hs hill hl).1
      rw [← hlanes l (.inr hl), hnil]
      rfl
  · exact (hlane l).2.2 k hk
  · exact (hlane l).2.1

/-! ## Results and tests -/

/-- In lanes, a legal plain instruction with a scalar destination is in uniform form (R47). -/
theorem not_scal_of_lanes {sh : Shape} {g : Group} {h : Head} (hs : PlainShape sh) (hl : illegal sh g h = .ok)
    (hu : ¬ (sh.form && isUniform sh h) = true) : isScal h.d = false := by
  by_contra hd
  obtain ⟨-, hform, huni⟩ := postIxs_of_scal hs hl (Bool.not_eq_false _ ▸ hd)
  exact hu (by rw [hform, huni]; rfl)

theorem isScal_of_uniform {sh : Shape} {h : Head} (hu : (sh.form && isUniform sh h) = true) : isScal h.d = true := by
  simp only [isUniform, Bool.and_eq_true] at hu
  exact hu.2.1.1

/-- What an effect through D leaves (R35, R47): nothing where no lane participates, a scalar in uniform form, else the participating lanes. -/
theorem writes_of_cases {sh : Shape} {s : State} {gid : Nat} {g : Group} {h : Head} (hs : PlainShape sh) (hg : klookup s.groups gid = some g)
    (hl : illegal sh g h = .ok) (v : W64) (f : Nat → Lane → Lane) {P : Group → Prop} (h0 : P g) (h1 : P (g.setS (scalNum h.d) v))
    (h2 : P (g.modLanes (g.parts h.guard) f)) :
    ∃ w, LeavesGroup s (if (g.parts h.guard).isEmpty then s
        else if sh.form && isUniform sh h then s.modGroup gid fun g1 => g1.setS (scalNum h.d) v
        else s.modGroup gid fun g1 => g1.modLanes (g.parts h.guard) f) gid w ∧ WritesOnly g h w ∧ P w := by
  by_cases hp : (g.parts h.guard).isEmpty = true
  · exact ⟨g, by rw [if_pos hp]; exact leavesGroup_refl hg, .refl g h, h0⟩
  · rw [if_neg hp]
    by_cases hu : (sh.form && isUniform sh h) = true
    · rw [if_pos hu]
      exact ⟨_, leavesGroup_modGroup hg _, .setS (isScal_of_uniform hu) g v, h1⟩
    · rw [if_neg hu]
      exact ⟨_, leavesGroup_modGroup hg _, .modLanes (not_scal_of_lanes hs hl hu) g f, h2⟩

theorem setS_lane (g : Group) (k : Nat) (v : W64) (l : Nat) : (g.setS k v).lane l = g.lane l := by
  unfold Group.setS
  split <;> rfl

/-- Outside its destination's rows a lane keeps its rows, and all but rows and poison (R43, R44). -/
def RowsOnly (sh : Shape) (g : Group) (h : Head) (w : Group) : Prop :=
  (∀ l r, r < rowOf g h.d l ∨ rowOf g h.d l + opndRows (opndOf sh.d) ≤ r → (w.lane l).row r = (g.lane l).row r) ∧
  ∀ l, w.lane l = { g.lane l with rows := (w.lane l).rows, poison := (w.lane l).poison }

theorem rowsOnly_of_lanes {sh : Shape} {g : Group} {h : Head} {w : Group} (hw : ∀ l, w.lane l = g.lane l) : RowsOnly sh g h w :=
  ⟨fun l r _ => by rw [hw], fun l => by rw [hw]⟩

theorem rowsOnly_writeOp (sh : Shape) (g : Group) (h : Head) (ls : List Nat) (v : Nat → W64) :
    RowsOnly sh g h (g.modLanes ls fun l ln => writeOp g (opndOf sh.d) h.d l (v l) ln) := by
  refine ⟨fun l r hr => ?_, fun l => ?_⟩ <;> rw [lane_modLanes] <;> split
  · exact laneWrite_row _ _ _ _ _ _ hr
  · rfl
  · exact laneWrite_eq _ _ _ _ _ _
  · rfl

/-- But for its destination's flag a lane is as it was (R186). -/
def FlagOnly (g : Group) (h : Head) (w : Group) : Prop :=
  (∀ l k, k ≠ clsNum h.d → (w.lane l).flag k = (g.lane l).flag k) ∧ ∀ l, w.lane l = { g.lane l with flags := (w.lane l).flags }

theorem flagOnly_of_lanes {g : Group} {h : Head} {w : Group} (hw : ∀ l, w.lane l = g.lane l) : FlagOnly g h w :=
  ⟨fun l k _ => by rw [hw], fun l => by rw [hw]⟩

theorem flag_setFlag_of_ne {k n : Nat} (hk : k ≠ n) (ln : Lane) (v : Bool) : (ln.setFlag n v).flag k = ln.flag k := by
  have hbit : (BitVec.ofNat 8 (2 ^ n)).getLsbD k = false := by
    rw [BitVec.getLsbD_ofNat, Nat.testBit_two_pow, decide_eq_false (Ne.symm hk), Bool.and_false]
  unfold Lane.setFlag Lane.flag
  by_cases hn : n = 0
  · rw [if_pos hn]
  rw [if_neg hn]
  by_cases h8 : k < 8
  · cases v <;> simp only [Bool.false_eq_true, if_false, if_true, BitVec.getLsbD_or, BitVec.getLsbD_and, BitVec.getLsbD_not, hbit, h8, decide_true,
      Bool.not_false, Bool.and_true, Bool.or_false]
  · have hout : ∀ x : BitVec 8, x.getLsbD k = false := fun x => BitVec.getLsbD_of_ge x k (Nat.not_lt.1 h8)
    simp only [hout]

theorem flagOnly_setFlag (g : Group) (h : Head) (ls : List Nat) (v : Nat → Bool) :
    FlagOnly g h (g.modLanes ls fun l ln => ln.setFlag (clsNum h.d) (v l)) := by
  refine ⟨fun l k hk => ?_, fun l => ?_⟩ <;> rw [lane_modLanes] <;> split
  · exact flag_setFlag_of_ne hk _ _
  · rfl
  · unfold Lane.setFlag
    split <;> rfl
  · rfl

/-- Settles O51: a computation writes its destination, the post-increment its index registers, and the issue its own registers. -/
theorem computeFrame : Obligations.ComputeFrame := by
  refine ⟨fun p hp h s gid g hc => ?_, fun p hp h s gid g hc => ?_⟩
  · obtain ⟨⟨f, hx⟩, hs⟩ := isCompute hp h
    obtain ⟨v, hrun⟩ : ∃ v, exec (p.1 h) s = .next (ran (p.2 h) s gid g h (writeResult (p.2 h) g h v s gid)) :=
      ⟨_, (hx s).trans (issue_done (sh := fun _ => p.2 h) hc (compute_done (p.2 h) (f _) s gid g h s.clock))⟩
    generalize p.2 h = sh at *
    obtain ⟨w, hleaves, hw, hrows, hrest⟩ := writes_of_cases hs hc.1.1.2 hc.1.2.2.1 (scalWrite (opndOf sh.d).ty (v 0))
      (fun l ln => writeOp g (opndOf sh.d) h.d l (v l) ln) (P := RowsOnly sh g h) (rowsOnly_of_lanes fun _ => rfl)
      (rowsOnly_of_lanes fun _ => setS_lane ..) (rowsOnly_writeOp ..)
    obtain ⟨g1, hran, hfields, hscal, hlanes, hoffs, hlane⟩ := ran_group hs hc hleaves hw
    refine ⟨g1, hrun.trans (congrArg _ hran), hfields, hscal, hlanes, fun l r hr => ?_, fun l k hk => ?_, fun l => ?_⟩
    · rw [hlane, ← hrows l r hr]
      rfl
    · rw [hoffs l k hk, hrest]
      rfl
    · rw [hlane, hrest]
  · obtain ⟨⟨f, hx⟩, hs⟩ := isTest hp h
    obtain ⟨v, hrun⟩ : ∃ v, exec (p.1 h) s = .next (ran (p.2 h g) s gid g h (writeTest (p.2 h g) g h v s gid)) :=
      ⟨_, (hx s).trans (issue_done hc (test_done (p.2 h) (f _) s gid g h s.clock))⟩
    replace hs := hs g
    generalize p.2 h g = sh at *
    obtain ⟨w, hleaves, hw, hflags, hrest⟩ := writes_of_cases hs hc.1.1.2 hc.1.2.2.1 (if v 0 then 1 else 0)
      (fun l ln => ln.setFlag (clsNum h.d) (v l)) (P := FlagOnly g h) (flagOnly_of_lanes fun _ => rfl)
      (flagOnly_of_lanes fun _ => setS_lane ..) (flagOnly_setFlag ..)
    obtain ⟨g1, hran, hfields, hscal, hlanes, hoffs, hlane⟩ := ran_group hs hc hleaves hw
    refine ⟨g1, hrun.trans (congrArg _ hran), hfields, hscal, hlanes, fun l k hk => ?_, fun l k hk => ?_, fun l => ?_⟩
    · rw [hlane, ← hflags l k hk]
      rfl
    · rw [hoffs l k hk, hrest]
      rfl
    · rw [hlane, hrest]

end Sys2Proof
end

section
/-!
PROOF. Instructions that reach registers of their own group only leave memory and the other agents as they were (02_code.md R60; 15_traps.md R455,
R459): O52.
-/

namespace Sys2Proof

open Machine

/-! ## Requests at the slices -/

/-- What waits at the slices in `t` waited there in `s`, in the same order. -/
abbrev L2Shrinks (s t : State) : Prop := List.Sublist t.mem.l2q s.mem.l2q

theorem l2Shrinks_of_mem {s t : State} (h : t.mem = s.mem) : L2Shrinks s t := by
  rw [L2Shrinks, h]

theorem OnlyGroup.mem_eq {gid : Nat} {s t : State} (h : OnlyGroup gid s t) : t.mem = s.mem := by
  rw [h.1]

theorem teamFault_mem (s : State) (t : Nat) : (s.teamFault t).mem = s.mem := by
  unfold State.teamFault
  split <;> rfl

theorem doubleTrap_mem (s : State) (gid : Nat) (g : Group) (asid : Nat) : (s.doubleTrap gid g asid).mem = s.mem := by
  cases hs : g.service with
  | true => rw [doubleTrap_of_service hs]; rfl
  | false => rw [doubleTrap_of_team hs, teamFault_mem]; rfl

theorem trapFrom_mem (s : State) (gid : Nat) (g : Group) (tr : Trap) : (trapFrom s gid g tr).mem = s.mem := by
  rw [trapFrom_eq]; rfl

/-- A trap is taken without memory (R455). -/
theorem takeTrap_mem (s : State) (gid : Nat) (tr : Trap) : (s.takeTrap gid tr).mem = s.mem := by
  cases hg : klookup s.groups gid with
  | none => simp only [State.takeTrap, hg]
  | some g =>
    rw [takeTrap_eq hg]
    split
    · rw [doubleTrap_mem, trapFrom_mem]
    · split
      · rw [teamFault_mem, trapFrom_mem]
      · exact trapFrom_mem s gid g tr

/-- A trap takes back what its instruction had queued (R501). -/
theorem l2Shrinks_trapAt (s : State) (gid : Nat) (g : Group) (cause : Nat) (lanes : List (Nat × W64)) :
    L2Shrinks s (trapAt s gid g cause lanes) := by
  have hdrop : L2Shrinks s (s.dropSent gid g) := by
    unfold State.dropSent
    split
    · exact List.filter_sublist
    · exact List.Sublist.refl _
  have hmem : (trapAt s gid g cause lanes).mem = (s.dropSent gid g).mem := takeTrap_mem _ _ _
  rw [L2Shrinks, hmem]
  exact hdrop

theorem l2Shrinks_failOrRestart {s : State} {gid : Nat} {g : Group} {asid : Nat} {fail : State → State} (hf : ∀ s, L2Shrinks s (fail s)) :
    L2Shrinks s (failOrRestart s gid g asid fail) := by
  unfold failOrRestart
  split
  · exact hf s
  · split
    · exact List.Sublist.refl _
    · split
      · exact hf (s.modGroup gid Group.endRegion)
      · exact l2Shrinks_of_mem rfl

theorem l2Shrinks_settle {sh : Shape} {c : Ctx} {g : Group} {s s1 : State} {e : Effect} (h1 : s1.mem = s.mem) (he : EffectOnly c.gid s e) :
    L2Shrinks s (settle sh c g s1 e) := by
  have from1 : ∀ {t : State}, L2Shrinks s1 t → L2Shrinks s t := fun ht => by rwa [L2Shrinks, ← h1]
  have of_only : ∀ {t : State} (f : Group → Group), OnlyGroup c.gid s t → L2Shrinks s (t.modGroup c.gid f) :=
    fun _ ht => l2Shrinks_of_mem (State.modGroup_mem .. |>.trans (OnlyGroup.mem_eq ht))
  cases e with
  | done t => exact of_only _ he
  | jump t pc => exact of_only _ he
  | trap cause lanes => exact from1 (l2Shrinks_trapAt ..)
  | poison lanes => exact from1 (l2Shrinks_failOrRestart fun s => l2Shrinks_trapAt (s.modGroup c.gid _) ..)
  | after t cause lanes =>
    have ht : t.mem = s.mem := OnlyGroup.mem_eq he
    simp only [settle]
    split
    · exact from1 (l2Shrinks_trapAt ..)
    · exact l2Shrinks_of_mem ((takeTrap_mem ..).trans ht)
  | retry => exact from1 (List.Sublist.refl _)
  | block t w => exact of_only _ he
  | stop t => exact l2Shrinks_of_mem (OnlyGroup.mem_eq he)

/-- An instruction whose effect reaches its own group queues nothing at a slice. -/
theorem issue_l2Shrinks {sh : Group → Shape} {h : Head} {body : Ctx → State → Effect} {s t : State} {gid : Nat} (hc : s.cur = .group gid)
    (hb : ∀ c s, EffectOnly c.gid s (body c s)) (hi : issue sh h body s = .next t) : L2Shrinks s t := by
  cases hg : klookup s.groups gid with
  | none => simp only [issue, hc, hg] at hi; cases hi
  | some g =>
    simp only [issue, hc, hg] at hi
    obtain ⟨hgid, heff⟩ := effectOf_only (sh := sh g) (g := g) (h := h) (s := s) (body := body) (gid := gid) fun c hc => hc ▸ hb c s
    cases hi
    exact l2Shrinks_settle (OnlyGroup.mem_eq (dropPending_only s gid g)) (hgid.symm ▸ heff)

/-! ## Instructions of their own group -/

/-- The instruction issues with an effect that reaches its own group only. -/
def OwnGroup (i : Instr) : Prop :=
  ∃ (sh : Group → Shape) (h : Head) (body : Ctx → State → Effect), (∀ s, exec i s = issue sh h body s) ∧ ∀ c s, EffectOnly c.gid s (body c s)

/-- What such an instruction leaves as it was, its traps included. -/
theorem OwnGroup.keeps {i : Instr} (hi : OwnGroup i) {s t : State} {gid : Nat} (hc : s.cur = .group gid) (ht : exec i s = .next t) :
    KeepsMemory gid s t ∧ L2Shrinks s t := by
  obtain ⟨sh, h, body, hx, hb⟩ := hi
  rw [hx] at ht
  exact ⟨issue_keeps hc hb ht, issue_l2Shrinks hc hb ht⟩

/-- What is done only where a lane participates (R35). -/
theorem ifLanes_only {c : Ctx} {s : State} {e : Effect} {p : Prop} [Decidable p] (h : EffectOnly c.gid s e) :
    EffectOnly c.gid s (if p then .done s else e) := by
  split
  · exact OnlyGroup.refl ..
  · exact h

theorem ite_only {gid : Nat} {s : State} {a b : Effect} {p : Prop} [Decidable p] (ha : EffectOnly gid s a) (hb : EffectOnly gid s b) :
    EffectOnly gid s (if p then a else b) := by
  split <;> assumption

theorem ownGroup_compute {p : (Head → Instr) × (Head → Shape)} (hp : p ∈ computeForms) (h : Head) : OwnGroup (p.1 h) := by
  obtain ⟨⟨f, hx⟩, -⟩ := isCompute hp h
  exact ⟨_, h, _, hx, fun c s => compute_only (fun _ => p.2 h) (f c) c s⟩

theorem ownGroup_test {p : (Head → Instr) × (Head → Group → Shape)} (hp : p ∈ testForms) (h : Head) : OwnGroup (p.1 h) := by
  obtain ⟨⟨f, hx⟩, -⟩ := isTest hp h
  exact ⟨_, h, _, hx, fun c s => test_only (p.2 h) (f c) c s⟩

section
variable (h : Head)

/-! ### Results in lanes or in a scalar -/

theorem ownGroup_iaddc : OwnGroup (.iaddc h) := ⟨_, h, _, fun _ => rfl, fun _ _ => ifLanes_only (ite_only (onGroup_only ..) (onGroup_only ..))⟩

theorem convert_only (minor : Nat) (sr : Bool) (c : Ctx) (s : State) : EffectOnly c.gid s (convert minor h sr c s) := by
  unfold convert
  repeat' split
  all_goals first | exact OnlyGroup.refl .. | exact onGroup_only ..

theorem ownGroup_cvt : OwnGroup (.cvt h) := ⟨_, h, _, fun _ => rfl, fun _ _ => convert_only ..⟩
theorem ownGroup_cvtsr : OwnGroup (.cvtsr h) := ⟨_, h, _, fun _ => rfl, fun _ _ => convert_only ..⟩
theorem ownGroup_qpack : OwnGroup (.qpack h) := ⟨_, h, _, fun _ => rfl, fun _ _ => onGroup_only ..⟩
theorem ownGroup_qunpack : OwnGroup (.qunpack h) := ⟨_, h, _, fun _ => rfl, fun _ _ => onGroup_only ..⟩
theorem ownGroup_qscale : OwnGroup (.qscale h) := ⟨_, h, _, fun _ => rfl, fun _ _ => orPoison_only _ _ _ _ (onGroup_only ..)⟩
theorem ownGroup_qdot : OwnGroup (.qdot h) := ⟨_, h, _, fun _ => rfl, fun _ _ => onGroup_only ..⟩
theorem ownGroup_sel : OwnGroup (.sel h) := ⟨_, h, _, fun _ => rfl, fun _ _ => ifLanes_only (ite_only (onGroup_only ..) (onGroup_only ..))⟩
theorem ownGroup_sget : OwnGroup (.sget h) := ⟨_, h, _, fun _ => rfl, fun _ _ => ifLanes_only (ite_only (onGroup_only ..) (onGroup_only ..))⟩
theorem ownGroup_sset : OwnGroup (.sset h) := ⟨_, h, _, fun _ => rfl, fun _ _ => ifLanes_only (ite_only (onGroup_only ..) (onGroup_only ..))⟩
theorem ownGroup_xst : OwnGroup (.xst h) := ⟨_, h, _, fun _ => rfl, fun _ _ => ifLanes_only (ite_only (onGroup_only ..) (onGroup_only ..))⟩
theorem ownGroup_xadd : OwnGroup (.xadd h) := ⟨_, h, _, fun _ => rfl, fun _ _ => onGroup_only ..⟩
theorem ownGroup_xset : OwnGroup (.xset h) := ⟨_, h, _, fun _ => rfl, fun _ _ => ifLanes_only (ite_only trivial (onGroup_only ..))⟩
theorem ownGroup_xld : OwnGroup (.xld h) := ⟨_, h, _, fun _ => rfl, fun _ _ => ifLanes_only (ite_only trivial (onGroup_only ..))⟩
theorem ownGroup_cvta : OwnGroup (.cvta h) := ⟨_, h, _, fun _ => rfl, fun _ _ => ifLanes_only (ite_only (onGroup_only ..) (onGroup_only ..))⟩
theorem ownGroup_isap : OwnGroup (.isap h) := ⟨_, h, _, fun _ => rfl, fun _ _ => ifLanes_only (ite_only (onGroup_only ..) (onGroup_only ..))⟩
theorem ownGroup_tstat : OwnGroup (.tstat h) := ⟨_, h, _, fun _ => rfl, fun _ _ => ifLanes_only (onGroup_only ..)⟩
theorem ownGroup_ireg : OwnGroup (.ireg h) := ⟨_, h, _, fun _ => rfl, fun _ _ => ifLanes_only (onGroup_only ..)⟩

/-! ### Across lanes -/

theorem ownGroup_shfl : OwnGroup (.shfl h) := ⟨_, h, _, fun _ => rfl, fun _ _ => orPoison_only _ _ _ _ (onGroup_only ..)⟩
theorem ownGroup_shflx : OwnGroup (.shflx h) := ⟨_, h, _, fun _ => rfl, fun _ _ => orPoison_only _ _ _ _ (onGroup_only ..)⟩
theorem ownGroup_bcast : OwnGroup (.bcast h) :=
  ⟨_, h, _, fun _ => rfl, fun _ _ => ifLanes_only (orPoison_only _ _ _ _ (onGroup_only ..))⟩
theorem ownGroup_vote : OwnGroup (.vote h) := ⟨_, h, _, fun _ => rfl, fun _ _ => ifLanes_only (ite_only (onGroup_only ..) (onGroup_only ..))⟩
theorem ownGroup_firstc : OwnGroup (.firstc h) := by
  refine ⟨_, h, _, fun _ => rfl, fun c s => ?_⟩
  dsimp only
  split
  · exact OnlyGroup.refl ..
  · exact ite_only (onGroup_only ..) (orPoison_only _ _ _ _ (onGroup_only ..))
theorem ownGroup_gred : OwnGroup (.gred h) := by
  refine ⟨_, h, _, fun _ => rfl, fun c s => ?_⟩
  split
  · exact onGroup_only ..
  · exact OnlyGroup.refl ..
theorem ownGroup_scan : OwnGroup (.scan h) := ⟨_, h, _, fun _ => rfl, fun _ _ => onGroup_only ..⟩
theorem ownGroup_compact : OwnGroup (.compact h) := ⟨_, h, _, fun _ => rfl, fun _ _ => onGroup_only ..⟩
theorem ownGroup_awaitc : OwnGroup (.awaitc h) :=
  ⟨_, h, _, fun _ => rfl, fun _ _ => ifLanes_only (ite_only (onGroup_only ..) (OnlyGroup.refl ..))⟩

/-! ### Control -/

theorem leaveLanes_only (c : Ctx) (s : State) (n : Nat) : EffectOnly c.gid s (leaveLanes c s n) := by
  unfold leaveLanes
  exact onGroup_only ..

theorem ownGroup_nop : OwnGroup (.nop h) := ⟨_, h, _, fun _ => rfl, fun _ _ => OnlyGroup.refl ..⟩
theorem ownGroup_bra : OwnGroup (.bra h) := ⟨_, h, _, fun _ => rfl, fun _ _ => ifLanes_only (OnlyGroup.refl ..)⟩
theorem ownGroup_brx : OwnGroup (.brx h) := ⟨_, h, _, fun _ => rfl, fun _ _ => ifLanes_only (goTo_only _ _ _ _ _ (OnlyGroup.refl ..))⟩
theorem ownGroup_call : OwnGroup (.call h) := ⟨_, h, _, fun _ => rfl, fun _ _ => ifLanes_only (goTo_only _ _ _ _ _ (OnlyGroup.mod ..))⟩
theorem ownGroup_ret : OwnGroup (.ret h) :=
  ⟨_, h, _, fun _ => rfl, fun _ _ => ite_only (goTo_only _ _ _ _ _ (OnlyGroup.refl ..)) (OnlyGroup.refl ..)⟩
theorem ownGroup_ifc : OwnGroup (.ifc h) := ⟨_, h, _, fun _ => rfl, fun _ _ => structured_only _ _ _ _ (jumpIfNone_only ..)⟩
theorem ownGroup_elsec : OwnGroup (.elsec h) := ⟨_, h, _, fun _ => rfl, fun _ _ => jumpIfNone_only ..⟩
theorem ownGroup_endif : OwnGroup (.endif h) := ⟨_, h, _, fun _ => rfl, fun _ _ => onGroup_only ..⟩
theorem ownGroup_loopc : OwnGroup (.loopc h) := ⟨_, h, _, fun _ => rfl, fun _ _ => structured_only _ _ _ _ (onGroup_only ..)⟩
theorem ownGroup_endloop : OwnGroup (.endloop h) := ⟨_, h, _, fun _ => rfl, fun _ _ => ite_only (onGroup_only ..) (OnlyGroup.mod ..)⟩
theorem ownGroup_brk : OwnGroup (.brk h) := ⟨_, h, _, fun _ => rfl, fun _ _ => leaveLanes_only ..⟩
theorem ownGroup_cont : OwnGroup (.cont h) := ⟨_, h, _, fun _ => rfl, fun _ _ => leaveLanes_only ..⟩
theorem ownGroup_sys : OwnGroup (.sys h) :=
  ⟨_, h, _, fun _ => rfl, outsideTx_only _ fun _ _ => ifLanes_only (OnlyGroup.refl ..)⟩
theorem ownGroup_bkpt : OwnGroup (.bkpt h) := ⟨_, h, _, fun _ => rfl, fun _ _ => ifLanes_only trivial⟩

end

theorem ownGroup_registers : ∀ i ∈ ([.iaddc, .cvt, .cvtsr, .qpack, .qunpack, .qscale, .qdot, .sel, .sget, .sset, .xset, .xld, .xst, .xadd] :
    List (Head → Instr)), ∀ h, OwnGroup (i h) := by
  simp only [List.forall_mem_cons, List.not_mem_nil, false_implies, implies_true, and_true]
  exact ⟨ownGroup_iaddc, ownGroup_cvt, ownGroup_cvtsr, ownGroup_qpack, ownGroup_qunpack, ownGroup_qscale, ownGroup_qdot, ownGroup_sel, ownGroup_sget,
    ownGroup_sset, ownGroup_xset, ownGroup_xld, ownGroup_xst, ownGroup_xadd⟩

theorem ownGroup_cross : ∀ i ∈ ([.shfl, .shflx, .bcast, .vote, .firstc, .gred, .scan, .compact, .awaitc] : List (Head → Instr)),
    ∀ h, OwnGroup (i h) := by
  simp only [List.forall_mem_cons, List.not_mem_nil, false_implies, implies_true, and_true]
  exact ⟨ownGroup_shfl, ownGroup_shflx, ownGroup_bcast, ownGroup_vote, ownGroup_firstc, ownGroup_gred, ownGroup_scan, ownGroup_compact,
    ownGroup_awaitc⟩

theorem ownGroup_control : ∀ i ∈ ([.nop, .bra, .brx, .call, .ret, .ifc, .elsec, .endif, .loopc, .endloop, .brk, .cont, .cvta, .isap, .sys, .bkpt,
    .ireg, .tstat] : List (Head → Instr)), ∀ h, OwnGroup (i h) := by
  simp only [List.forall_mem_cons, List.not_mem_nil, false_implies, implies_true, and_true]
  exact ⟨ownGroup_nop, ownGroup_bra, ownGroup_brx, ownGroup_call, ownGroup_ret, ownGroup_ifc, ownGroup_elsec, ownGroup_endif, ownGroup_loopc,
    ownGroup_endloop, ownGroup_brk, ownGroup_cont, ownGroup_cvta, ownGroup_isap, ownGroup_sys, ownGroup_bkpt, ownGroup_ireg, ownGroup_tstat⟩

theorem ownGroup_of_registerForms {i : Head → Instr} (hi : i ∈ registerForms) (h : Head) : OwnGroup (i h) := by
  simp only [registerForms, List.mem_append, List.mem_map] at hi
  rcases hi with (((⟨p, hp, rfl⟩ | ⟨p, hp, rfl⟩) | hi) | hi) | hi
  · exact ownGroup_compute hp h
  · exact ownGroup_test hp h
  · exact ownGroup_registers i hi h
  · exact ownGroup_cross i hi h
  · exact ownGroup_control i hi h

/-- Settles O52: every such instruction issues with an effect on its own group, and issue itself touches no memory. -/
theorem registerInstructionsKeepMemory : Obligations.RegisterInstructionsKeepMemory := by
  intro i hi h s t gid hc ht
  obtain ⟨hkeeps, hl2⟩ := (ownGroup_of_registerForms hi h).keeps hc ht
  have hhome := hkeeps.home
  obtain ⟨hfields, hgroups, hscratch, -, -⟩ := hkeeps
  exact ⟨hfields, hl2, hgroups, hscratch, hhome⟩

end Sys2Proof
end

section
/-!
PROOF. On direct rows, 32-bit integer and logic results are those of 32-bit words (06_pipes.md R188, R190, R194): O53.
-/

namespace Sys2Proof

open Machine

/-! ## Integers and words -/

/-- i32 and n32, the integer types of a word (R38). -/
abbrev WordInt (t : Ty) : Prop := t = .i32 ∨ t = .n32

theorem WordInt.elem {t : Ty} (h : WordInt t) : tyElem t = (32, 1) ∧ tyWidth t = 32 := by
  rcases h with rfl | rfl <;> exact ⟨rfl, rfl⟩

theorem ofNat_wrapInt (z : Int) : BitVec.ofNat 32 (wrapInt 32 z) = BitVec.ofInt 32 z := by
  apply BitVec.eq_of_toNat_eq
  rw [BitVec.toNat_ofNat, BitVec.toNat_ofInt, wrapInt]
  omega

theorem intOf_i32 (x : W32) : intOf .i32 32 x.toNat = x.toInt := by
  show toSigned 32 x.toNat = x.toInt
  have hx := x.isLt
  rw [toSigned, BitVec.toInt_eq_toNat_cond]
  split <;> split <;> omega

theorem intOf_n32 (x : W32) : intOf .n32 32 x.toNat = (x.toNat : Int) := by
  show ((x.toNat % 2 ^ 32 : Nat) : Int) = x.toNat
  rw [Nat.mod_eq_of_lt x.isLt]

/-- A word is the integer that its type reads in it, modulo 2^32. -/
theorem ofInt_intOf {t : Ty} (h : WordInt t) (x : W32) : BitVec.ofInt 32 (intOf t 32 x.toNat) = x := by
  rcases h with rfl | rfl
  · rw [intOf_i32, BitVec.ofInt_toInt]
  · rw [intOf_n32, BitVec.ofInt_natCast, BitVec.ofNat_toNat, BitVec.setWidth_eq]

/-- An integer operation on words without saturation is the exact integer modulo 2^32 (R188). -/
theorem ofNat_intOp {h : Head} (ht : WordInt h.ty) (op : Int → Int → Int → Int) (x y : W32) : BitVec.ofNat 32 (intOp h false op x.toNat y.toNat 0) =
    BitVec.ofInt 32 (op (intOf h.ty 32 x.toNat) (intOf h.ty 32 y.toNat) (intOf h.ty 32 0)) := by
  have hx : x.toNat % 2 ^ 32 = x.toNat := Nat.mod_eq_of_lt x.isLt
  have hy : y.toNat % 2 ^ 32 = y.toNat := Nat.mod_eq_of_lt y.isLt
  simp only [intOp, ht.elem.1, mapElems, intElem, hx, hy, Bool.false_eq_true, if_false, Nat.mul_zero, Nat.add_zero, Nat.zero_mod]
  rw [← ofNat_wrapInt]
  apply BitVec.eq_of_toNat_eq
  rw [BitVec.toNat_ofNat, BitVec.toNat_ofNat, Nat.mod_mod]

section
variable {h : Head} (ht : WordInt h.ty) (x y : W32)
include ht

theorem word_add : BitVec.ofNat 32 (intOp h false (fun a b _ => a + b) x.toNat y.toNat 0) = x + y := by
  rw [ofNat_intOp ht, BitVec.ofInt_add, ofInt_intOf ht, ofInt_intOf ht]

theorem word_sub : BitVec.ofNat 32 (intOp h false (fun a b _ => a - b) x.toNat y.toNat 0) = x - y := by
  rw [ofNat_intOp ht, Int.sub_eq_add_neg, BitVec.ofInt_add, BitVec.ofInt_neg, ofInt_intOf ht, ofInt_intOf ht, BitVec.sub_eq_add_neg]

theorem word_mul : BitVec.ofNat 32 (intOp h false (fun a b _ => a * b) x.toNat y.toNat 0) = x * y := by
  rw [ofNat_intOp ht, BitVec.ofInt_mul, ofInt_intOf ht, ofInt_intOf ht]

/-- The comparison of words as their type reads them. -/
theorem word_lt : (intOf h.ty 32 x.toNat < intOf h.ty 32 y.toNat) ↔ if h.ty = .i32 then x.slt y = true else x.ult y = true := by
  rcases ht with h1 | h1 <;> rw [h1]
  · rw [if_pos rfl, intOf_i32, intOf_i32, BitVec.slt_iff_toInt_lt]
  · rw [if_neg (by decide), intOf_n32, intOf_n32, BitVec.ult_iff_toNat_lt]
    omega

theorem word_min : BitVec.ofNat 32 (intOp h false (fun a b _ => min a b) x.toNat y.toNat 0) =
    if h.ty = .i32 then (if x.slt y then x else y) else (if x.ult y then x else y) := by
  have key := word_lt ht x y
  rw [ofNat_intOp ht]
  by_cases hlt : intOf h.ty 32 x.toNat < intOf h.ty 32 y.toNat
  · rw [min_eq_left hlt.le, ofInt_intOf ht]
    have := key.1 hlt
    split <;> simp_all
  · rw [min_eq_right (not_lt.1 hlt), ofInt_intOf ht]
    have := fun hc => hlt (key.2 hc)
    split <;> simp_all

theorem word_max : BitVec.ofNat 32 (intOp h false (fun a b _ => max a b) x.toNat y.toNat 0) =
    if h.ty = .i32 then (if x.slt y then y else x) else (if x.ult y then y else x) := by
  have key := word_lt ht x y
  rw [ofNat_intOp ht]
  by_cases hlt : intOf h.ty 32 x.toNat < intOf h.ty 32 y.toNat
  · rw [max_eq_right hlt.le, ofInt_intOf ht]
    have := key.1 hlt
    split <;> simp_all
  · rw [max_eq_left (not_lt.1 hlt), ofInt_intOf ht]
    have := fun hc => hlt (key.2 hc)
    split <;> simp_all

end

/-! ## Logic, shifts and rotations -/

theorem word_and (x y : W32) : BitVec.ofNat 32 (x.toNat &&& y.toNat) = x &&& y := by
  rw [← BitVec.toNat_and, BitVec.ofNat_toNat, BitVec.setWidth_eq]

theorem word_or (x y : W32) : BitVec.ofNat 32 (x.toNat ||| y.toNat) = x ||| y := by
  rw [← BitVec.toNat_or, BitVec.ofNat_toNat, BitVec.setWidth_eq]

theorem word_xor (x y : W32) : BitVec.ofNat 32 (x.toNat ^^^ y.toNat) = x ^^^ y := by
  rw [← BitVec.toNat_xor, BitVec.ofNat_toNat, BitVec.setWidth_eq]

theorem word_not (x : W32) : BitVec.ofNat 32 (2 ^ 32 - 1 - x.toNat) = ~~~x := by
  rw [← BitVec.toNat_not, BitVec.ofNat_toNat, BitVec.setWidth_eq]

theorem word_andn (x y : W32) : BitVec.ofNat 32 (x.toNat &&& (2 ^ 32 - 1 - y.toNat)) = x &&& ~~~y := by
  rw [← BitVec.toNat_not, word_and]

theorem word_shl (x y : W32) : BitVec.ofNat 32 (if y.toNat % 2 ^ 32 < 32 then x.toNat * 2 ^ (y.toNat % 2 ^ 32) % 2 ^ 32 else 0) = x <<< y := by
  apply BitVec.eq_of_toNat_eq
  rw [Nat.mod_eq_of_lt y.isLt, BitVec.toNat_ofNat, BitVec.shiftLeft_eq', BitVec.toNat_shiftLeft, Nat.shiftLeft_eq]
  by_cases hn : y.toNat < 32
  · rw [if_pos hn, Nat.mod_mod]
  · have hz : x.toNat * 2 ^ y.toNat % 2 ^ 32 = 0 :=
      Nat.mod_eq_zero_of_dvd (Dvd.dvd.mul_left (pow_dvd_pow 2 (not_lt.1 hn)) _)
    rw [if_neg hn, hz]

theorem word_shr (x y : W32) : BitVec.ofNat 32 (if y.toNat % 2 ^ 32 < 32 then x.toNat / 2 ^ (y.toNat % 2 ^ 32) else 0) = x >>> y := by
  apply BitVec.eq_of_toNat_eq
  have hx := x.isLt
  rw [Nat.mod_eq_of_lt y.isLt, BitVec.toNat_ofNat, BitVec.ushiftRight_eq', BitVec.toNat_ushiftRight, Nat.shiftRight_eq_div_pow]
  by_cases hn : y.toNat < 32
  · rw [if_pos hn, Nat.mod_eq_of_lt (lt_of_le_of_lt (Nat.div_le_self ..) hx)]
  · have hpow : 2 ^ 32 ≤ 2 ^ y.toNat := Nat.pow_le_pow_right (by decide) (not_lt.1 hn)
    rw [if_neg hn, Nat.div_eq_of_lt (lt_of_lt_of_le hx hpow)]

theorem word_sar (x y : W32) : BitVec.ofNat 32 (sarValue 32 x.toNat (y.toNat % 2 ^ 32)) = x.sshiftRight y.toNat := by
  have hs : toSigned 32 x.toNat = x.toInt := intOf_i32 x
  have hshift : x.sshiftRight y.toNat = BitVec.ofInt 32 (x.toInt / 2 ^ y.toNat) := by
    have hdiv : x.toInt / 2 ^ y.toNat = x.toInt >>> y.toNat := by rw [Int.shiftRight_eq_div_pow]; norm_cast
    rw [hdiv]
    rfl
  rw [Nat.mod_eq_of_lt y.isLt, sarValue, hs, hshift]
  by_cases hn : y.toNat < 32
  · rw [if_pos hn, ofNat_wrapInt]
  · have hpow : (2 : Int) ^ 32 ≤ 2 ^ y.toNat := pow_le_pow_right₀ (by decide) (not_lt.1 hn)
    have hlo := BitVec.le_toInt x
    have hhi := BitVec.toInt_lt (x := x)
    rw [if_neg hn]
    by_cases hneg : x.toInt < 0
    · have hdiv : x.toInt / 2 ^ y.toNat = -1 := Int.ediv_eq_neg_one_of_neg_of_le hneg (by omega)
      rw [if_pos hneg, hdiv]
      rfl
    · have hdiv : x.toInt / 2 ^ y.toNat = 0 := Int.ediv_eq_zero_of_lt (not_lt.1 hneg) (by omega)
      rw [if_neg hneg, hdiv]
      rfl

theorem word_rot (x y : W32) : BitVec.ofNat 32 (rotValue 32 x.toNat (y.toNat % 2 ^ 32)) = x.rotateLeft (y.toNat % 32) := by
  apply BitVec.eq_of_toNat_eq
  have hx := x.isLt
  have hk : y.toNat % 32 < 32 := Nat.mod_lt _ (by decide)
  rw [Nat.mod_eq_of_lt y.isLt, BitVec.toNat_ofNat, BitVec.toNat_rotateLeft, rotValue, Nat.mod_mod, Nat.shiftLeft_eq, Nat.shiftRight_eq_div_pow]
  generalize y.toNat % 32 = k at hk
  have hsplit : 2 ^ 32 = 2 ^ k * 2 ^ (32 - k) := by rw [← pow_add, Nat.add_sub_cancel' hk.le]
  have hhigh : x.toNat * 2 ^ k % 2 ^ 32 = 2 ^ k * (x.toNat % 2 ^ (32 - k)) := by
    rw [hsplit, Nat.mul_comm x.toNat, Nat.mul_mod_mul_left]
  have hlow : x.toNat / 2 ^ (32 - k) < 2 ^ k := Nat.div_lt_of_lt_mul (by rwa [Nat.mul_comm, ← hsplit])
  have hlow' : x.toNat / 2 ^ (32 - k) < 2 ^ 32 := lt_of_le_of_lt (Nat.div_le_self ..) hx
  have hhigh' : x.toNat * 2 ^ k % 2 ^ 32 < 2 ^ 32 := Nat.mod_lt _ (by decide)
  have hor : x.toNat * 2 ^ k % 2 ^ 32 + x.toNat / 2 ^ (32 - k) = x.toNat * 2 ^ k % 2 ^ 32 ||| x.toNat / 2 ^ (32 - k) := by
    rw [hhigh, Nat.two_pow_add_eq_or_of_lt hlow]
  rw [hor, Nat.mod_eq_of_lt (Nat.or_lt_two_pow hhigh' hlow')]

/-! ## Rows -/

/-- An operand that is a row of 32 bits (R43). -/
abbrev WordOpnd (o : Opnd) : Prop := tyWidth o.ty = 32 ∧ o.dup = false

theorem WordOpnd.not_pair {o : Opnd} (h : WordOpnd o) : (tyPair o.ty || o.dup) = false := by
  rw [tyPair, h.1, h.2]
  rfl

theorem readOp_word {o : Opnd} (ho : WordOpnd o) (g : Group) (n : BitVec 11) (l : Nat) :
    (readOp g o (.row n 0 0) l).toNat = ((g.lane l).row (rowKey g n.toNat)).toNat := by
  show (laneRead o.ty o.dup 0 (g.lane l) (rowKey g n.toNat)).toNat = _
  rw [laneRead, ho.not_pair, ho.1]
  exact BitVec.toNat_setWidth_of_le (by decide)

theorem row_writeOp_word {o : Opnd} (ho : WordOpnd o) (g : Group) (n : BitVec 11) (l : Nat) (v : W64) (ln : Lane) :
    (writeOp g o (.row n 0 0) l v ln).row (rowKey g n.toNat) = v.setWidth 32 := by
  show (laneWrite o.ty o.dup 0 ln (rowKey g n.toNat) v).row (rowKey g n.toNat) = _
  rw [laneWrite, ho.not_pair, ho.1]
  exact kget_kset_self ..

theorem flag_setFlag_self {k : Nat} (hk : 0 < k) (h8 : k < 8) (ln : Lane) (v : Bool) : (ln.setFlag k v).flag k = v := by
  have hbit : (BitVec.ofNat 8 (2 ^ k)).getLsbD k = true := by
    rw [BitVec.getLsbD_ofNat, Nat.testBit_two_pow, decide_eq_true h8, decide_eq_true rfl, Bool.and_true]
  have h0 : (k == 0) = false := beq_false_of_ne hk.ne'
  rw [Lane.setFlag, if_neg hk.ne', Lane.flag, h0, Bool.false_or]
  cases v <;> simp only [Bool.false_eq_true, if_false, if_true, BitVec.getLsbD_or, BitVec.getLsbD_and, BitVec.getLsbD_not, hbit, h8, decide_true,
    Bool.not_true, Bool.and_false, Bool.or_true]

/-- In a form that is not uniform an effect through D acts on each participating lane (R35). -/
theorem lanes_of_ran {sh : Shape} {h : Head} {s u : State} {gid : Nat} {g : Group} (hs : PlainShape sh) (hc : Clear sh s gid g h)
    (hd : isScal h.d = false) (f : Nat → Lane → Lane) :
    ∃ g1, ran sh s gid g h (if (g.parts h.guard).isEmpty then s
        else if sh.form && isUniform sh h then u
        else s.modGroup gid fun g1 => g1.modLanes (g.parts h.guard) f) = s.setGroup gid g1 ∧
      ∀ l ∈ g.parts h.guard, g1.lane l = { f l (g.lane l) with offs := (g1.lane l).offs } := by
  have hg : klookup s.groups gid = some g := hc.1.1.2
  have hnu : ¬ (sh.form && isUniform sh h) = true := by simp [isUniform, hd]
  by_cases hp : (g.parts h.guard).isEmpty = true
  · obtain ⟨g1, hran, -⟩ := ran_group hs hc (leavesGroup_refl hg) (.refl g h)
    rw [if_pos hp]
    refine ⟨g1, hran, fun l hl => ?_⟩
    rw [List.isEmpty_iff.1 hp] at hl
    exact absurd hl List.not_mem_nil
  · obtain ⟨g1, hran, hg1⟩ := ran_group hs hc (leavesGroup_modGroup hg fun g1 => g1.modLanes (g.parts h.guard) f) (.modLanes hd g f)
    rw [if_neg hp, if_neg hnu]
    refine ⟨g1, hran, fun l hl => ?_⟩
    have hrest := hg1.rest l
    rwa [lane_modLanes, if_pos ⟨hl, parts_lt hl⟩] at hrest

/-- In each participating lane row `d` of the group that `i` leaves holds `f` of rows `a` and `b`. -/
def WordResult (i : Instr) (s : State) (gid : Nat) (g : Group) (gd : Guard) (d a b : BitVec 11) (f : W32 → W32 → W32) : Prop :=
  ∃ t g1, exec i s = .next t ∧ klookup t.groups gid = some g1 ∧ ∀ l ∈ g.parts gd,
    (g1.lane l).row (rowKey g d.toNat) = f ((g.lane l).row (rowKey g a.toNat)) ((g.lane l).row (rowKey g b.toNat))

/-- The operands D and A, and B where it is one, are rows of 32 bits, and D is written only. -/
structure WordShape (sh : Shape) : Prop where
  plain : PlainShape sh
  use : sh.dUse = .write
  d : WordOpnd (opndOf sh.d)
  a : WordOpnd (opndOf sh.a)
  b : WordOpnd (opndOf sh.b)

section
variable {h : Head} {s : State} {gid : Nat} {g : Group} {d a b : BitVec 11}

/-- A computation with direct rows of 32 bits as operands writes its function of the words (R35, R43). -/
theorem wordResult_of_computes (hd : h.d = .row d 0 0) (ha : h.a = .row a 0 0) (hb : h.b = .row b 0 0) {i : Instr} {sh : Shape}
    {v : Group → Nat → Nat → Nat → Nat} {f : W32 → W32 → W32} (hi : Computes i sh h v) (hs : WordShape sh)
    (hv : ∀ x y : W32, BitVec.ofNat 32 (v g x.toNat y.toNat 0) = f x y) (hc : Clear sh s gid g h) : WordResult i s gid g h.guard d a b f := by
  obtain ⟨g1, hran, hlane⟩ := lanes_of_ran (u := s.modGroup gid fun g1 => g1.setS (scalNum h.d) (scalWrite (opndOf sh.d).ty (resultOf sh g h (v g) 0)))
    hs.plain hc (by rw [hd]; rfl) fun l ln => writeOp g (opndOf sh.d) h.d l (resultOf sh g h (v g) l) ln
  refine ⟨_, g1, (hi s gid g hc trivial).trans (congrArg _ hran), klookup_kput_self .., fun l hl => ?_⟩
  have hres : (resultOf sh g h (v g) l).setWidth 32 = BitVec.ofNat 32 (v g (srcA sh g h l) (srcB sh g h l) 0) := by
    rw [resultOf, hs.use]
    exact BitVec.setWidth_ofNat_of_le (by decide) _
  rw [hlane l hl]
  show (writeOp g (opndOf sh.d) h.d l (resultOf sh g h (v g) l) (g.lane l)).row (rowKey g d.toNat) = _
  rw [hd, row_writeOp_word hs.d, hres, srcA, srcB, ha, hb, readOp_word hs.a, readOp_word hs.b, hv]

/-- A test of direct rows of 32 bits writes its outcome on the words to D's flag (R186). -/
theorem wordTest_of_tests (hd : h.d = .row d 0 0) (ha : h.a = .row a 0 0) (hb : h.b = .row b 0 0) (hne : 0 < d.toNat) (hd8 : d.toNat < 8)
    {i : Instr} {sh : Shape} {v : Group → Nat → Nat → Bool} (hi : Tests i (fun _ => sh) h v) (hs : PlainShape sh)
    (hoa : WordOpnd (opndOf sh.a)) (hob : WordOpnd (opndOf sh.b)) (hc : Clear sh s gid g h) :
    ∃ t g1, exec i s = .next t ∧ klookup t.groups gid = some g1 ∧ ∀ l ∈ g.parts h.guard, (g1.lane l).flag d.toNat =
      v g ((g.lane l).row (rowKey g a.toNat)).toNat ((g.lane l).row (rowKey g b.toNat)).toNat := by
  let out (l : Nat) : Bool := v g (srcA sh g h l) (srcB sh g h l)
  obtain ⟨g1, hran, hlane⟩ := lanes_of_ran (u := s.modGroup gid fun g1 => g1.setS (scalNum h.d) (if out 0 then 1 else 0)) hs hc (by rw [hd]; rfl)
    fun l ln => ln.setFlag (clsNum h.d) (out l)
  refine ⟨_, g1, (hi s gid g hc trivial).trans (congrArg _ hran), klookup_kput_self .., fun l hl => ?_⟩
  rw [hlane l hl]
  show ((g.lane l).setFlag (clsNum h.d) (v g (srcA sh g h l) (srcB sh g h l))).flag d.toNat = _
  rw [srcA, srcB, hd, ha, hb, readOp_word hoa, readOp_word hob]
  exact flag_setFlag_self hne hd8 _ _

end

/-! ## The statement -/

theorem wordShape_int {h : Head} (hw : tyWidth h.ty = 32) (major minor : Nat) (ok : Bool) : WordShape (intShape major minor h ok) :=
  ⟨⟨.inl rfl, rfl, rfl, rfl, rfl, rfl, rfl, rfl⟩, rfl, ⟨hw, rfl⟩, ⟨hw, rfl⟩, ⟨hw, rfl⟩⟩

theorem wordShape_sat {h : Head} (hw : tyWidth h.ty = 32) (minor : Nat) (ok : Bool) : WordShape (satShape minor h ok) :=
  ⟨⟨.inl rfl, rfl, rfl, rfl, rfl, rfl, rfl, rfl⟩, rfl, ⟨hw, rfl⟩, ⟨hw, rfl⟩, ⟨hw, rfl⟩⟩

theorem wordShape_mul {h : Head} (hw : tyWidth h.ty = 32) (minor : Nat) : WordShape (mulShape minor h) :=
  ⟨⟨.inl rfl, rfl, rfl, rfl, rfl, rfl, rfl, rfl⟩, rfl, ⟨hw, rfl⟩, ⟨hw, rfl⟩, ⟨hw, rfl⟩⟩

theorem wordShape_not {h : Head} (hw : tyWidth h.ty = 32) : WordShape (notShape h) :=
  ⟨⟨.inl rfl, rfl, rfl, rfl, rfl, rfl, rfl, rfl⟩, rfl, ⟨hw, rfl⟩, ⟨hw, rfl⟩, ⟨rfl, rfl⟩⟩

/-- A legal flag number is below 8 (R115). -/
theorem flag_lt_of_legal {h : Head} {g : Group} {d : BitVec 11} (hd : h.d = .row d 0 0) (hl : illegal (icmpShape h) g h = .ok) : d.toNat < 8 := by
  have hcls : (icmpShape h).d = .cls 8 := by
    show flagOrScal h = .cls 8
    rw [flagOrScal, hd]
    rfl
  have hf := (fields_of_legal hl).1
  rw [hcls, hd] at hf
  simp only [fldVerdict, must_eq_ok, Bool.and_eq_true, decide_eq_true_eq] at hf
  exact hf.2

/-- icmp reads a word as its type does (R194). -/
theorem intOf_word {t : Ty} (ht : WordInt t) (x : W32) : intOf t (tyWidth t) x.toNat = if t = .i32 then x.toInt else (x.toNat : Int) := by
  rw [ht.elem.2]
  rcases ht with rfl | rfl
  · exact intOf_i32 x
  · exact intOf_n32 x

/-- Settles O53: the results of R188 and R190 at width 32 are the operations on words. -/
theorem wordArithmeticInRows : Obligations.WordArithmeticInRows := by
  intro h s gid g d a b hd ha hb val
  have result : ∀ {i : Instr} {sh : Shape} {v : Group → Nat → Nat → Nat → Nat} {f : W32 → W32 → W32}, Computes i sh h v → WordShape sh →
      (∀ x y : W32, BitVec.ofNat 32 (v g x.toNat y.toNat 0) = f x y) → val i sh f := fun hi hs hv => wordResult_of_computes hd ha hb hi hs hv
  obtain ⟨hadd, hsub, hmul, -, -, hmin, hmax, -, -, hand, hor, hxor, hnot, handn, hshl, hshr, hsar, hrot⟩ := integerAndLogicResults h
  obtain ⟨-, -, -, -, -, -, hcmp, -⟩ := bitAndCompareResults h
  refine ⟨fun hm ht => ?_, fun ht => ?_, fun ht hne hc => ?_⟩
  · have hsat : satBit h = false := by rw [satBit, hm]; rfl
    have hw := (WordInt.elem ht).2
    rw [hsat] at hadd hsub
    exact ⟨result hadd (wordShape_sat hw _ _) (word_add ht), result hsub (wordShape_sat hw _ _) (word_sub ht),
      result hmul (wordShape_mul hw _) (word_mul ht), result hmin (wordShape_int hw _ _ _) (word_min ht),
      result hmax (wordShape_int hw _ _ _) (word_max ht)⟩
  · have hw : tyWidth h.ty = 32 := by rcases ht with ht | ht | ht <;> rw [ht] <;> rfl
    rw [hw] at hnot handn hshl hshr hsar hrot
    have hsh := fun minor => wordShape_int hw 0x11 minor (tyLog h.ty)
    exact ⟨result hand (hsh 0) word_and, result hor (hsh 1) word_or, result hxor (hsh 2) word_xor, result hnot (wordShape_not hw) fun x _ => word_not x,
      result handn (hsh 4) word_andn, result hshl (hsh 5) word_shl, result hshr (hsh 6) word_shr, result hsar (hsh 7) word_sar,
      result hrot (hsh 8) word_rot⟩
  · have hw := (WordInt.elem ht).2
    obtain ⟨t, g1, hexec, hlook, hflag⟩ := wordTest_of_tests hd ha hb hne (flag_lt_of_legal hd hc.1.2.2.1) hcmp
      ⟨.inl rfl, rfl, rfl, rfl, rfl, rfl, rfl, rfl⟩ ⟨hw, rfl⟩ ⟨hw, rfl⟩ hc
    refine ⟨t, g1, hexec, hlook, fun l hl => ?_⟩
    rw [hflag l hl, intOf_word ht, intOf_word ht]

end Sys2Proof
end

section
/-!
PROOF. A first fetch reads the bytes at the pc and leaves memory as it was (02_code.md R29, R33): O41.
-/

namespace Sys2Proof

open Machine

/-! ## Words and the instruction they make -/

theorem leNat_append (a b : List Byte) : leNat (a ++ b) = leNat a + 256 ^ a.length * leNat b := by
  induction a with
  | nil => simp [leNat]
  | cons x r ih =>
    simp only [List.cons_append, leNat, ih, List.length_cons, pow_succ]
    ring

theorem length_wordBytes (ws : List W32) : (wordBytes ws).length = 4 * ws.length := by
  simp [wordBytes, List.length_flatMap, Nat.mul_comm]

theorem leNat_wordBytes_cons (w : W32) (ws : List W32) : leNat (wordBytes (w :: ws)) = 2 ^ 32 * leNat (wordBytes ws) + w.toNat := by
  have hw : leNat (leBytes 4 w.toNat) = w.toNat := by
    rw [leNat_leBytes]
    exact Nat.mod_eq_of_lt w.isLt
  show leNat (leBytes 4 w.toNat ++ wordBytes ws) = _
  rw [leNat_append, hw, leBytes_length]
  ring

/-- Bit 63 of the instruction word is bit 31 of its second word (R28). -/
theorem getLsbD_wordBytes (w0 w1 w2 : W32) (ws : List W32) :
    (BitVec.ofNat 96 (leNat ((wordBytes (w0 :: w1 :: w2 :: ws)).take 12))).getLsbD 63 = w1.getLsbD 31 := by
  have htake : (wordBytes (w0 :: w1 :: w2 :: ws)).take 12 = wordBytes [w0, w1, w2] := rfl
  rw [htake, BitVec.getLsbD_ofNat, leNat_wordBytes_cons, leNat_wordBytes_cons, Nat.testBit_two_pow_mul_add _ w0.isLt,
    Nat.testBit_two_pow_mul_add _ w1.isLt]
  rfl

/-- Three words, or with a block seven, are an instruction and nothing more (R29). -/
theorem decode_wordBytes {ws : List W32} (h : (ws.length = 3 ∧ takesBlock ws = false) ∨ (ws.length = 7 ∧ takesBlock ws = true)) :
    ∃ i, decodeBytes (wordBytes ws) = some (i, []) ∧ (deviceParts i).isSome = true := by
  obtain ⟨w0, w1, w2, r, rfl⟩ : ∃ w0 w1 w2 r, ws = w0 :: w1 :: w2 :: r := by
    match ws, h with
    | [], h => simp at h
    | [_], h => simp at h
    | [_, _], h => simp at h
    | w0 :: w1 :: w2 :: r, _ => exact ⟨w0, w1, w2, r, rfl⟩
  have hbit := getLsbD_wordBytes w0 w1 w2 r
  have hlen := length_wordBytes (w0 :: w1 :: w2 :: r)
  have hdrop : ∀ n, (wordBytes (w0 :: w1 :: w2 :: r)).length = n → (wordBytes (w0 :: w1 :: w2 :: r)).drop n = [] :=
    fun n hn => List.drop_eq_nil_of_le hn.le
  unfold decodeBytes
  rcases h with ⟨hl, hb⟩ | ⟨hl, hb⟩
  · have hb' : w1.getLsbD 31 = false := hb
    rw [hl] at hlen
    refine ⟨decodeDevice (BitVec.ofNat 96 (leNat ((wordBytes (w0 :: w1 :: w2 :: r)).take 12))) none, ?_, by rw [deviceParts_decodeDevice]; rfl⟩
    simp only [hlen, hbit, hb', hdrop 12 hlen, Nat.lt_irrefl, Bool.false_eq_true, if_false, Nat.reduceMul]
  · have hb' : w1.getLsbD 31 = true := hb
    rw [hl] at hlen
    refine ⟨decodeDevice (BitVec.ofNat 96 (leNat ((wordBytes (w0 :: w1 :: w2 :: r)).take 12)))
      (some (paramsOf (((wordBytes (w0 :: w1 :: w2 :: r)).drop 12).take 16))), ?_, by rw [deviceParts_decodeDevice]; rfl⟩
    simp only [hlen, hbit, hb', hdrop 28 hlen, Nat.lt_irrefl, Nat.reduceLT, if_false, if_true, Nat.reduceMul]

/-! ## How many words are fetched -/

theorem length_codeRun (gid : Nat) (g : Group) : ∀ (ps : List (Nat × Nat × Nat)) (s : State), (s.codeRun gid g ps).2.length = ps.length
  | [], _ => rfl
  | (va, pa, slot) :: r, s => by
    simp only [State.codeRun, List.length_cons, length_codeRun gid g r]

/-- The addresses of `n` words from `va` on that no earlier replay has fetched (R507), and what their fetch meets. -/
def fetchAddrs (g : Group) (va n : Nat) : List Nat := ((List.range n).map fun k => va + 4 * k).filter fun a => (klookup g.fetched a).isNone
def fetchLooks (s : State) (g : Group) (va n : Nat) : List (Nat × CodeLook) := (fetchAddrs g va n).map fun a => (a, s.codeLook g a)
/-- The words among them. -/
def foundWords (looks : List (Nat × CodeLook)) : List (Nat × Nat × Nat) :=
  looks.filterMap fun e => match e.2 with | .word pa slot => some (e.1, pa, slot) | _ => none

/-- The pages that the others miss. -/
def missedPages (looks : List (Nat × CodeLook)) : List (Nat × Nat × Nat × Nat) :=
  looks.filterMap fun e => match e.2 with | .miss l b n => some (e.1, l, b, n) | _ => none

/-- The addresses of words whose translation waits (R336, R341). -/
def unreadAddrs (s : State) (g : Group) (va n : Nat) : List Nat :=
  (fetchAddrs g va n).filter fun a => s.peekWaits (.core g.core) (s.asidOf g) a .fetch

/-- What a fetch of words comes to, by what they meet (R31, R507). -/
theorem codeWords_eq (s : State) (gid : Nat) (g : Group) (va n : Nat) : s.codeWords gid g va n =
    if !(unreadAddrs s g va n).isEmpty then .wait ((unreadAddrs s g va n).foldl (fun s a => s.askTables (.core g.core) (s.asidOf g) a) s)
    else
      match (fetchLooks s g va n).find? fun e => !e.2.isWord with
      | some (a, k) =>
        if !k.isMiss then .fail a k
        else if (foundWords (fetchLooks s g va n)).any fun p => s.codeWaits gid g p.2.1 then .wait s
        else .park (foundWords (fetchLooks s g va n)) (missedPages (fetchLooks s g va n))
      | none =>
        if !(((foundWords (fetchLooks s g va n)).filter (codeAway g)).map Prod.snd).isEmpty then
          .wait (s.askCode gid g (((foundWords (fetchLooks s g va n)).filter (codeAway g)).map Prod.snd))
        else if (foundWords (fetchLooks s g va n)).any fun p => s.codeWaits gid g p.2.1 then .wait s
        else .ok (s.codeRun gid g (foundWords (fetchLooks s g va n))).1
          (if (fetchAddrs g va n).length = n then (s.codeRun gid g (foundWords (fetchLooks s g va n))).2
           else ((List.range n).map fun k => va + 4 * k).map fun a =>
            ((((foundWords (fetchLooks s g va n)).map Prod.fst).zip (s.codeRun gid g (foundWords (fetchLooks s g va n))).2 ++ g.fetched).lookup a).getD 0) :=
  rfl

theorem length_foundWords : ∀ {looks : List (Nat × CodeLook)}, (∀ e ∈ looks, e.2.isWord = true) → (foundWords looks).length = looks.length
  | [], _ => rfl
  | (a, k) :: r, h => by
    have hr := length_foundWords fun e he => h e (List.mem_cons_of_mem _ he)
    obtain ⟨pa, slot, rfl⟩ : ∃ pa slot, k = .word pa slot := by
      have hk := h (a, k) List.mem_cons_self
      cases k <;> first | exact ⟨_, _, rfl⟩ | exact absurd hk Bool.false_ne_true
    show (foundWords r).length + 1 = _
    rw [hr, List.length_cons]

/-- A fetch that finds its words reads those that it did not have (R507). -/
theorem codeWords_ok {s t : State} {gid : Nat} {g : Group} {va n : Nat} {ws : List W32} (h : s.codeWords gid g va n = .ok t ws) :
    (∀ e ∈ fetchLooks s g va n, e.2.isWord = true) ∧
    ws = if (fetchAddrs g va n).length = n then (s.codeRun gid g (foundWords (fetchLooks s g va n))).2
      else ((List.range n).map fun k => va + 4 * k).map fun a =>
        ((((foundWords (fetchLooks s g va n)).map Prod.fst).zip (s.codeRun gid g (foundWords (fetchLooks s g va n))).2 ++ g.fetched).lookup a).getD 0 := by
  rw [codeWords_eq] at h
  split at h
  · cases h
  split at h
  · split at h
    · cases h
    · split at h <;> cases h
  · next hfind =>
    split at h
    · cases h
    split at h
    · cases h
    cases h
    refine ⟨fun e he => ?_, rfl⟩
    simpa using List.find?_eq_none.1 hfind e he

/-- A fetch that finds its words finds all that it was asked for. -/
theorem length_codeWords {s t : State} {gid : Nat} {g : Group} {va n : Nat} {ws : List W32} (h : s.codeWords gid g va n = .ok t ws) :
    ws.length = n := by
  obtain ⟨hwords, rfl⟩ := codeWords_ok h
  split
  · next hall =>
    rw [length_codeRun, length_foundWords hwords, fetchLooks, List.length_map, hall]
  · rw [List.length_map, List.length_map, List.length_range]

theorem fetchGroup_words {s t : State} {gid : Nat} {g : Group} {ws : List W32} (h : s.fetchGroup gid g = .ok t ws) :
    (ws.length = 3 ∧ takesBlock ws = false) ∨ (ws.length = 7 ∧ takesBlock ws = true) := by
  unfold State.fetchGroup at h
  dsimp only at h
  split at h
  · next s1 w3 h3 =>
    have hl3 := length_codeWords h3
    split at h
    · next hb =>
      split at h
      · next s2 w4 h4 =>
        cases h
        refine .inr ⟨by rw [List.length_append, hl3, length_codeWords h4], ?_⟩
        rw [takesBlock, List.getD_append _ _ _ _ (by omega)]
        exact hb
      · next hne => exact absurd h (hne _ _)
    · next hb =>
      cases h
      exact .inl ⟨hl3, Bool.eq_false_iff.2 hb⟩
  · next hne => exact absurd h (hne _ _)

/-! ## Words that are held ready -/

/-- `t` differs from `s` in its host cores alone, and excludes no access that `s` does not (R339). -/
structure Quieter (s t : State) : Prop where
  hosts : t = { s with hosts := t.hosts }
  waits : ∀ who pa n write, t.accessWaits who pa n write = true → s.accessWaits who pa n write = true

theorem Quieter.refl (s : State) : Quieter s s := ⟨rfl, fun _ _ _ _ => id⟩

theorem Quieter.trans {a b c : State} (h : Quieter a b) (h' : Quieter b c) : Quieter a c :=
  ⟨by rw [h'.hosts, h.hosts], fun who pa n write => h.waits who pa n write ∘ h'.waits who pa n write⟩

theorem waitRd_abort (c : HostCore) (cause : Nat) (code : Byte) : (c.abort cause code).waitRd = c.waitRd := by
  unfold HostCore.abort HostCore.setX
  dsimp only
  split <;> rfl

/-- An access aborts no host core that waits with its ticket, so that those go on excluding what they excluded (R339, R341). -/
theorem quieter_abortHosts (s : State) (who : Agent) (pa n : Nat) (write : Bool) : Quieter s (s.abortHosts who pa n write) := by
  refine ⟨rfl, fun who' pa' n' write' h => ?_⟩
  simp only [State.accessWaits, Bool.or_eq_true] at h ⊢
  refine h.imp id fun h => ?_
  rw [List.any_eq_true] at h ⊢
  obtain ⟨e, he, hx⟩ := h
  obtain ⟨e0, he0, rfl⟩ := List.mem_map.1 he
  refine ⟨e0, he0, ?_⟩
  split at hx
  · exact hx
  · simp only [] at hx
    split at hx
    · next hab =>
      simp only [Bool.and_eq_true, waitRd_abort] at hx hab
      obtain ⟨⟨-, hsome⟩, -⟩ := hx
      rw [Option.isNone_iff_eq_none.1 hab.1] at hsome
      exact absurd hsome Bool.false_ne_true
    · exact hx

/-- What the fetch of a held word rests on, which no host core changes. -/
structure Served (s : State) (gid : Nat) (g : Group) (va pa slot : Nat) : Prop where
  olds : s.codeOlds g pa = []
  hit : ∃ e, s.tlbHit (.core g.core) (s.asidOf g) va = some e ∧ needsMark e.pte .fetch = false
  cached : (s.mem.tlb.any fun x => x.l1 && x.unit == g.core && x.covers (s.asidOf g) va) = true
  near : isDomain pa = false
  memory : isDevReg pa = false
  sector : ∃ e, klookup s.mem.l2 (sectorOf pa) = some e ∧ e.slot = slot
  line : ∀ a, klookup s.mem.atom (pa / 256) = some a → a.owner = none
  region : s.needsTransfer true pa = false

theorem Served.of_hosts {s t : State} (ht : t = { s with hosts := t.hosts }) {gid : Nat} {g : Group} {va pa slot : Nat}
    (h : Served s gid g va pa slot) : Served t gid g va pa slot := by
  obtain ⟨h1, h2, h3, h4, h5, h6, h7, h8⟩ := h
  rw [ht]
  exact ⟨h1, h2, h3, h4, h5, h6, h7, h8⟩

section
variable {s : State} {gid : Nat} {g : Group} {va pa slot : Nat} (h : Served s gid g va pa slot)
include h

theorem Served.find : ∃ e, s.find (.core g.core) (s.asidOf g) va = .entry e false ∧ needsMark e.pte .fetch = false := by
  obtain ⟨e, he, hm⟩ := h.hit
  exact ⟨e, by simp only [State.find, he], hm⟩

/-- A held translation is used without effect (R260, R265). -/
theorem Served.useEntry : s.useEntry (.core g.core) (s.asidOf g) va .fetch = s := by
  obtain ⟨e, hf, hm⟩ := h.find
  have hfresh : s.fresh (.core g.core) (s.asidOf g) va .fetch (.entry e false) = .entry e false := by
    simp only [State.fresh, hm, Bool.false_and, Bool.false_eq_true, if_false]
  have hc := h.cached
  simp only [State.useEntry, hf, hfresh, hm, hc, Bool.false_eq_true, if_false, Bool.not_true, Bool.or_self, if_true]

theorem Served.touch : s.touch (.group gid g.core (s.asidOf g)) pa 4 false = s.abortHosts (.group gid g.core (s.asidOf g)) pa 4 false := by
  have hr : s.needsTransfer (agentDevice (.group gid g.core (s.asidOf g))) pa = false := h.region
  have hl := h.line
  have hrev : ∀ u : State, u.mem = s.mem → u.revoke pa (agentCore (.group gid g.core (s.asidOf g))) (agentAsid (.group gid g.core (s.asidOf g))) = u := by
    intro u hu
    unfold State.revoke
    dsimp only
    split
    · next a ha =>
      rw [hu] at ha
      rw [hl a ha]
    · rfl
  simp only [State.touch, hr, Bool.false_eq_true, if_false]
  exact hrev _ rfl

/-- The word as memory holds it is read, and host transactions on its line abort (R339). -/
theorem Served.codeRead : s.codeRead gid g pa slot =
    (s.abortHosts (.group gid g.core (s.asidOf g)) pa 4 false, BitVec.ofNat 32 (leNat (s.homeBytes pa 4))) := by
  obtain ⟨e, he, hs⟩ := h.sector
  simp only [State.codeRead, h.near, h.memory, Bool.false_eq_true, if_false, he, hs, beq_self_eq_true, if_true, h.touch]
  rfl

end

/-- Held words are read as memory holds them, one after the other. -/
theorem codeRun_served {gid : Nat} {g : Group} : ∀ (ps : List (Nat × Nat × Nat)) (s : State), (∀ p ∈ ps, Served s gid g p.1 p.2.1 p.2.2) →
    Quieter s (s.codeRun gid g ps).1 ∧ (s.codeRun gid g ps).2 = ps.map fun p => BitVec.ofNat 32 (leNat (s.homeBytes p.2.1 4))
  | [], s, _ => ⟨.refl s, rfl⟩
  | (va, pa, slot) :: r, s, h => by
    have h0 : Served s gid g va pa slot := h _ List.mem_cons_self
    have hq := quieter_abortHosts s (.group gid g.core (s.asidOf g)) pa 4 false
    obtain ⟨hr, hws⟩ := codeRun_served r (s.abortHosts (.group gid g.core (s.asidOf g)) pa 4 false)
      fun p hp => (h p (List.mem_cons_of_mem _ hp)).of_hosts hq.hosts
    have holds : (s.abortHosts (.group gid g.core (s.asidOf g)) pa 4 false).codeOlds g pa = [] := h0.olds
    simp only [State.codeRun, h0.useEntry, h0.codeRead, holds, codeValue]
    refine ⟨hq.trans hr, ?_⟩
    rw [hws]
    rfl

/-- A translation that is held and needs no mark is judged as it stands. -/
theorem peek_of_hit {s : State} {m : Mmu} {asid va : Nat} {sup : Bool} {u : Use} {e : TlbEntry} (he : s.tlbHit m asid va = some e)
    (hm : needsMark e.pte u = false) : s.peek m asid va sup u =
      if va ≥ 2 ^ 54 then .deny else match s.judge e asid va u sup with | .ok _ _ => .ok (e.addr va) e.pte | r => r := by
  have hf : s.find m asid va = .entry e false := by simp only [State.find, he]
  have hfresh : s.fresh m asid va u (.entry e false) = .entry e false := by simp only [State.fresh, hm, Bool.false_and, Bool.false_eq_true, if_false]
  simp only [State.peek, hf, hfresh]
  rfl

/-- What the fetch of a held word meets does not rest on the host cores. -/
theorem codeLook_of_hosts {s t : State} (ht : t = { s with hosts := t.hosts }) {g : Group} {va : Nat} {e : TlbEntry}
    (he : s.tlbHit (.core g.core) (s.asidOf g) va = some e) (hm : needsMark e.pte .fetch = false) : t.codeLook g va = s.codeLook g va := by
  have he' : t.tlbHit (.core g.core) (t.asidOf g) va = some e := by rw [ht]; exact he
  rw [State.codeLook, State.codeLook, peek_of_hit he hm, peek_of_hit he' hm, ht]
  rfl

/-- A word stays held where only host cores change and nothing more is excluded. -/
theorem codeHeld_of_quieter {s t : State} (hq : Quieter s t) {gid : Nat} {g : Group} {va pa slot : Nat} (h : CodeHeld s gid g va pa slot) :
    CodeHeld t gid g va pa slot := by
  obtain ⟨hlook, holds, ⟨e, he, hm⟩, hc, hd, hv, hs, hl, hn, hw⟩ := h
  have ht := hq.hosts
  have hlook' := (codeLook_of_hosts ht he hm).trans hlook
  have hw' : t.codeWaits gid g pa = false := by
    have hfull : t.sliceFull pa = s.sliceFull pa := by rw [ht]; rfl
    have hasid : t.asidOf g = s.asidOf g := by rw [ht]; rfl
    have hacc := hq.waits (.group gid g.core (s.asidOf g)) pa 4 false
    unfold State.codeWaits at hw ⊢
    rw [hasid, hfull]
    by_contra hne
    simp only [hd, hv, Bool.not_false, Bool.true_and, Bool.or_eq_false_iff] at hw
    simp only [hd, hv, Bool.not_false, Bool.true_and, Bool.not_eq_false, Bool.or_eq_true] at hne
    rcases hne with hne | hne
    · exact Bool.false_ne_true (hw.1.symm.trans (hacc hne))
    · exact Bool.false_ne_true (hw.2.symm.trans hne)
  refine ⟨hlook', ?_⟩
  clear hlook'
  refine ⟨?_, ⟨e, ?_, hm⟩, ?_, hd, hv, ?_, ?_, ?_, hw'⟩ <;> rw [ht]
  · exact holds
  · exact he
  · exact hc
  · exact hs
  · exact hl
  · exact hn

theorem served_of_codeHeld {s : State} {gid : Nat} {g : Group} {va pa slot : Nat} (h : CodeHeld s gid g va pa slot) : Served s gid g va pa slot := by
  obtain ⟨-, h1, h2, h3, h4, h5, h6, h7, h8, -⟩ := h
  exact ⟨h1, h2, h3, h4, h5, h6, h7, h8⟩

/-- The translation of a held word does not wait. -/
theorem peekWaits_of_held {s : State} {m : Mmu} {asid va : Nat} {u : Use} {e : TlbEntry} (he : s.tlbHit m asid va = some e)
    (hm : needsMark e.pte u = false) : s.peekWaits m asid va u = false := by
  unfold State.peekWaits
  dsimp only
  split
  · rfl
  · simp only [he, hm, Bool.false_and]

theorem filter_isNone_nil (xs : List Nat) : (xs.filter fun a => (klookup ([] : KMap W32) a).isNone) = xs :=
  List.filter_eq_self.2 fun _ _ => rfl

/-- Words that are held, none of them fetched before, are read as memory holds them. -/
theorem codeWords_held {s : State} {gid : Nat} {g : Group} {va n : Nat} {pa slot : Nat → Nat} (hg : g.fetched = [])
    (h : ∀ k, k < n → CodeHeld s gid g (va + 4 * k) (pa k) (slot k)) :
    ∃ t, s.codeWords gid g va n = .ok t ((List.range n).map fun k => BitVec.ofNat 32 (leNat (s.homeBytes (pa k) 4))) ∧ Quieter s t := by
  have hall : fetchAddrs g va n = (List.range n).map fun k => va + 4 * k := by rw [fetchAddrs, hg, filter_isNone_nil]
  have hlooks : fetchLooks s g va n = (List.range n).map fun k => (va + 4 * k, CodeLook.word (pa k) (slot k)) := by
    rw [fetchLooks, hall, List.map_map]
    refine List.map_congr_left fun k hk => ?_
    show (va + 4 * k, s.codeLook g (va + 4 * k)) = _
    rw [(h k (List.mem_range.1 hk)).1]
  have hfound : foundWords ((List.range n).map fun k => (va + 4 * k, CodeLook.word (pa k) (slot k))) =
      (List.range n).map fun k => (va + 4 * k, pa k, slot k) := by
    rw [foundWords, List.filterMap_map, ← List.filterMap_eq_map']
    rfl
  have hunread : unreadAddrs s g va n = [] := by
    refine List.filter_eq_nil_iff.2 fun a ha => ?_
    rw [hall] at ha
    obtain ⟨k, hk, rfl⟩ := List.mem_map.1 ha
    obtain ⟨-, -, ⟨e, he, hm⟩, -⟩ := h k (List.mem_range.1 hk)
    rw [peekWaits_of_held he hm]
    exact Bool.false_ne_true
  have hwordy : ((List.range n).map fun k => (va + 4 * k, CodeLook.word (pa k) (slot k))).find? (fun e => !e.2.isWord) = none := by
    rw [List.find?_map]
    exact Option.map_eq_none_iff.2 (List.find?_eq_none.2 fun _ _ => Bool.false_ne_true)
  have hnear : ((List.range n).map fun k => (va + 4 * k, pa k, slot k)).filter (codeAway g) = [] := by
    refine List.filter_eq_nil_iff.2 fun p hp => ?_
    obtain ⟨k, hk, rfl⟩ := List.mem_map.1 hp
    obtain ⟨-, -, -, -, hd, -⟩ := h k (List.mem_range.1 hk)
    simp [codeAway, hd]
  have hfree : ((List.range n).map fun k => (va + 4 * k, pa k, slot k)).any (fun p => s.codeWaits gid g p.2.1) = false := by
    rw [List.any_eq_false]
    intro p hp
    obtain ⟨k, hk, rfl⟩ := List.mem_map.1 hp
    obtain ⟨-, -, -, -, -, -, -, -, -, hw⟩ := h k (List.mem_range.1 hk)
    simp [hw]
  obtain ⟨hq, hws⟩ := codeRun_served (gid := gid) (g := g) ((List.range n).map fun k => (va + 4 * k, pa k, slot k)) s fun p hp => by
    obtain ⟨k, hk, rfl⟩ := List.mem_map.1 hp
    exact served_of_codeHeld (h k (List.mem_range.1 hk))
  refine ⟨_, ?_, hq⟩
  rw [codeWords_eq, hunread, hlooks, hfound, hwordy, hnear, hfree, hws, hall, List.length_map, List.length_range, List.map_map, if_pos (rfl : n = n)]
  rfl

/-- Settles O41: held words are read one by one, each leaving memory as it was, and the words found are as many as an instruction has. -/
theorem fetchReadsCode : Obligations.FetchReadsCode := by
  refine ⟨fun s gid g pa slot _ hfar hfetched => ⟨fun h hb => ?_, fun h hb => ?_⟩, fun s t gid g ws h => decode_wordBytes (fetchGroup_words h)⟩
  · obtain ⟨t, ht, hq⟩ := codeWords_held hfetched h
    refine ⟨t, ?_, by rw [hq.hosts]⟩
    simp only [State.fetchGroup, ht, hfar, hfetched]
    exact if_neg (Bool.eq_false_iff.1 hb)
  · obtain ⟨t, ht, hq⟩ := codeWords_held (n := 3) hfetched fun k hk => h k (by omega)
    obtain ⟨u, hu, hqu⟩ := codeWords_held (s := t) (va := g.pc.toNat + 12) (n := 4) (pa := fun k => pa (k + 3)) (slot := fun k => slot (k + 3)) hfetched
      fun k hk => by
        have hk7 := codeHeld_of_quieter hq (h (k + 3) (by omega))
        have ha : g.pc.toNat + 4 * (k + 3) = g.pc.toNat + 12 + 4 * k := by omega
        rwa [ha] at hk7
    refine ⟨u, ?_, by rw [hqu.hosts, hq.hosts]⟩
    have hbytes : ∀ p, t.homeBytes p 4 = s.homeBytes p 4 := fun p => by rw [hq.hosts]; rfl
    simp only [State.fetchGroup, ht, hfar, hfetched, hu]
    refine (if_pos hb).trans ?_
    simp only [hbytes]
    rfl

end Sys2Proof
end

section
/-!
SUPPORT. A fetch of a poisoned word whose translation must be walked leaves no trace of its walk: the statement about it says that it does.
-/

namespace Sys2Proof

open Machine

/-- A group about to issue at 0x10000. -/
def poisonedFetcher : Group :=
  { team := serviceTeam 4, grpid := 0, width := 32, nrows := 256, core := 0, quarter := 0, slot := 0, half := 0, service := false, sup := false,
    pc := 0x10000, lanes := List.replicate 32 {} }

/-- The root table at 0 names a level-0 table at 0x4000, whose first entry names a level-1 table at 0x8000, whose first entry is a leaf with X and U
for address 0; the sector of the word at 0x10000 is poisoned. No translation is cached. -/
def poisonedMemory : Mem :=
  { State.reset.mem with bytes := [(1, 0x40), (0x4000, 0x01), (0x4001, 0x80), (0x8000, 0xC3), (0x8001, 0x01)], poison := [sectorOf 0x10000] }

def poisonedTurn : State := { State.reset with groups := [(0, poisonedFetcher)], mem := poisonedMemory }
def poisonedCode : State := { poisonedTurn with sched := [.quarter 0 0] }

/-- What the die's walker has cached in the state that a step leaves. -/
def walksOf : Host.Outcome State Fault Refusal → List WalkEntry
  | .next t => t.mem.walks
  | _ => []

theorem pick_poisonedTurn : poisonedTurn.pick 0 0 = some (0, 0, poisonedFetcher) := by decide +kernel

/-- The walker's own accesses do not wait. -/
theorem peekWaits_poisonedTurn : ∀ k, k < 3 → ((poisonedTurn.advanceTo 0).actAs (.group 0)).peekWaits (.core 0)
    (((poisonedTurn.advanceTo 0).actAs (.group 0)).asidOf poisonedFetcher) (poisonedFetcher.pc.toNat + 4 * k) .fetch = false := by decide +kernel

theorem codeLook_poisonedTurn : ((poisonedTurn.advanceTo 0).actAs (.group 0)).codeLook poisonedFetcher poisonedFetcher.pc.toNat = .poison := by
  decide +kernel

/-- The step takes the trap from the state before the walk. -/
theorem walksOf_step_poisonedCode : walksOf (step poisonedCode) = [] := by decide +kernel

/-- The walk would have cached the two tables that it reads. -/
theorem walksOf_touchWalk_poisonedTurn : let s1 := (poisonedTurn.advanceTo 0).actAs (.group 0)
    let s2 := s1.touchWalk (.core 0) (s1.asidOf poisonedFetcher) poisonedFetcher.pc.toNat
    walksOf (.next (trapAt (s2.modGroup 0 fun g => { g with poisPend := [] }) 0 poisonedFetcher cPoison
      (sameVal poisonedFetcher.wordLanes poisonedFetcher.pc))) ≠ [] := by decide +kernel

/-- Refutes O42: its clause on poisoned code takes the trap from the state after the walk of the word (`s2`), and the model takes it from the state
before: a poisoned word's effect carries no state, so that what the walk read and cached is not kept. Where the translation is not cached the two
differ. -/
theorem not_fetchTraps : ¬ Obligations.FetchTraps := by
  unfold Obligations.FetchTraps
  intro hall
  obtain ⟨-, -, -, hpoison, -⟩ := hall poisonedCode poisonedTurn 0 0 0 0 poisonedFetcher rfl rfl pick_poisonedTurn rfl ⟨rfl, .inl rfl, rfl, rfl⟩ rfl
    peekWaits_poisonedTurn
  have hstep := hpoison codeLook_poisonedTurn rfl
  have hwalks := walksOf_touchWalk_poisonedTurn
  exact hwalks ((congrArg walksOf hstep).symm.trans walksOf_step_poisonedCode)

end Sys2Proof
end

section
/-!
PROOF. What changes when a queued store of a group goes to its home (07_local.md R230, R244; 09_order.md R289; 13_engines.md R417): O54.
-/

namespace Sys2Proof

open Machine

/-! ## The step that drains a store -/

/-- The store at the head of its order: its group with the store visible at .grp scope, and without it (R291). -/
abbrev nearedGroup (g : Group) (k : Nat) (q : QStore) : Group := g.nearStore k q
abbrev drainedGroup (g : Group) (k : Nat) (q : QStore) : Group := { g.nearStore k q with stores := (g.nearStore k q).stores.eraseIdx k }

/-- Where a store that nothing holds back goes (R291, R292, R296). -/
def drainGo (s : State) (gid k : Nat) (g : Group) (q : QStore) (rest : State) : State :=
  match q.loc with
  | .scr off => rest.modTeam g.team fun t => t.scrStore off q.bytes
  | .glob pa =>
    if isDomain pa then
      if (s.routes (domainPkg pa)).isEmpty then rest.remoteFail gid q.lanes q.va
      else
        match s.request (storePacket q pa) (.store gid) none with
        | some (s1, r) => (s1.setGroup gid { g with stores := g.stores.set k { q with rid := some r } }).forgetPeer (some g.core) pa q.bytes.length
        | none => s
    else if s.accessWaits (.group gid g.core (s.asidOf g)) pa q.bytes.length true || s.reqWaits q.age (sectorOf pa) then s
    else if isDevReg pa then rest.devWrite pa q.bytes
    else s.storeHome gid g q pa rest

theorem drainAt_go {s : State} {gid k : Nat} {g : Group} {q : QStore} (hg : klookup s.groups gid = some g) (hq : g.stores[k]? = some q)
    (hrid : q.rid = none) (hheld : s.storeHeld gid g true k q = false) :
    s.drainAt gid k = drainGo s gid k (nearedGroup g k q) q (s.setGroup gid (drainedGroup g k q)) := by
  simp only [State.drainAt, hg, hq, hrid, hheld, Option.isSome_none, Bool.or_self, Bool.false_eq_true, if_false]
  rfl

/-- The step of a drain that is not held back. -/
theorem step_drain {s s0 : State} {gid k : Nat} {g : Group} {q : QStore} (h : Draining s s0 gid k g q) : step s =
    .next (drainGo (s0.actAs .idle) gid k (nearedGroup g k q) q ((s0.actAs .idle).setGroup gid (drainedGroup g k q))) := by
  obtain ⟨hturn, hstop, hg, hq, hrid, hheld⟩ := h
  obtain ⟨htrip, hxheld⟩ := Bool.or_eq_false_iff.1 hstop
  have hrun : runTurn (.drain gid k) s0 = .next ((s0.actAs .idle).drainAt gid k) := by
    simp only [runTurn, htrip, hxheld, Bool.false_and, Bool.or_self, Bool.false_eq_true, if_false]
    rfl
  have hheld' : (s0.actAs .idle).storeHeld gid g true k q = false := hheld
  rw [step_eq hturn, hrun, drainAt_go (s := s0.actAs .idle) hg hq hrid hheld']

/-! ## To the scratchpad -/

theorem scrBytes_one (t : Team) (a : Nat) : t.scrBytes a 1 = [kget 0 t.scratch a] := rfl

theorem scrPut_outside (t : Team) (off : Nat) (bs : List Byte) {a : Nat} (h : a < off ∨ off + bs.length ≤ a) :
    (t.scrPut off bs).scrBytes a 1 = t.scrBytes a 1 := by
  rw [scrBytes_one, scrBytes_one]
  exact congrArg (· :: []) (kget_ksetRun_outside 0 bs t.scratch off a h)

theorem scrPut_inside (t : Team) (off : Nat) (bs : List Byte) {i : Nat} (h : i < bs.length) :
    (t.scrPut off bs).scrBytes (off + i) 1 = [bs.getD i 0] := by
  rw [scrBytes_one, List.getD_eq_getElem _ _ h]
  exact congrArg (· :: []) (kget_ksetRun_inside 0 bs t.scratch off i h)

/-- The completion steps of objects change no byte outside them (R242). -/
theorem completions_outside {a : Nat} : ∀ (us : List Nat) (t : Team), (∀ u ∈ us, a < u * 16 ∨ u * 16 + 16 ≤ a) →
    (us.foldl (fun t u => t.putObj (u * 16) (completeObj (t.obj (u * 16)))) t).scrBytes a 1 = t.scrBytes a 1
  | [], _, _ => rfl
  | u :: us, t, h => by
    rw [List.foldl_cons, completions_outside us _ fun v hv => h v (List.mem_cons_of_mem _ hv)]
    exact scrPut_outside t (u * 16) _ (by rw [leBytes_length]; exact h u List.mem_cons_self)

/-- Byte `a` lies in a barrier object that a store of `n` bytes at `off` touches (R244). -/
def inTouchedObj (t : Team) (off n a : Nat) : Prop := ∃ u ∈ t.objs, u * 16 < off + n ∧ off < u * 16 + 16 ∧ u * 16 ≤ a ∧ a < u * 16 + 16

/-- Outside the objects that it touches a store changes what it writes (R244). -/
theorem scrStore_outside (t : Team) (off : Nat) (bs : List Byte) {a : Nat} (h : ¬ inTouchedObj t off bs.length a) :
    (t.scrStore off bs).scrBytes a 1 = (t.scrPut off bs).scrBytes a 1 := by
  refine completions_outside _ _ fun u hu => ?_
  obtain ⟨hmem, htouch⟩ := List.mem_filter.1 hu
  obtain ⟨h1, h2⟩ := of_decide_eq_true htouch
  by_contra hc
  exact h ⟨u, hmem, h1, h2, by omega, by omega⟩

/-! ## To another package -/

/-- A request given to a link changes the links alone. -/
theorem request_net {s : State} {p : Packet} {kind : OutKind} {prefer : Option Nat} {r : State × Nat} (h : s.request p kind prefer = some r) :
    r.1 = { s with net := r.1.net } := by
  unfold State.request State.requestOn at h
  split at h
  · split at h
    · cases h
      unfold State.giveLink
      dsimp only
      split <;> rfl
    · cases h
  · cases h

/-! ## Pieces within a sector -/

/-- A translation keeps the address within its page (R256). -/
theorem peek_ok_addr {s : State} {m : Mmu} {asid va pa : Nat} {sup : Bool} {u : Use} {p : BitVec 128} (h : s.peek m asid va sup u = .ok pa p) :
    ∃ e : TlbEntry, pa = e.addr va := by
  have judged : ∀ {e : TlbEntry}, s.judge e asid va u sup = .ok pa p → pa = e.addr va := by
    intro e he
    unfold State.judge at he
    split at he
    · cases he
    · split at he <;> cases he
      rfl
  unfold State.peek at h
  split at h
  · cases h
  split at h
  · cases h
  · cases h
  · next e w _ =>
    split at h
    · split at h
      · cases h
      · cases h
      · next e' _ => cases h; exact ⟨e', rfl⟩
      · next e' _ => exact ⟨e', judged h⟩
    · next hne => exact absurd h (hne _ _)

theorem addr_mod (e : TlbEntry) (va : Nat) : e.addr va % 256 = va % 256 := by
  have hdvd : 256 ∣ e.size * 2 ^ 14 := Dvd.dvd.mul_left ⟨2 ^ 6, rfl⟩ _
  show (ptePa e.pte / (e.size * 2 ^ 14) * (e.size * 2 ^ 14) + va % (e.size * 2 ^ 14)) % 256 = va % 256
  rw [Nat.add_mod, Nat.mod_eq_zero_of_dvd (Dvd.dvd.mul_left hdvd _), Nat.zero_add, Nat.mod_mod, Nat.mod_mod_of_dvd _ hdvd]

/-- An aligned piece lies in one sector (R231). -/
theorem piece_fits {a n : Nat} (hn : n ∣ 256) (ha : a % n = 0) : a % 256 + n ≤ 256 := by
  obtain ⟨k, hk⟩ := hn
  have hpos : 0 < n := Nat.pos_of_ne_zero (by rintro rfl; omega)
  have hm : a % 256 % n = 0 := by rw [Nat.mod_mod_of_dvd _ ⟨k, hk⟩, ha]
  obtain ⟨j, hj⟩ := Nat.dvd_of_mod_eq_zero hm
  have hlt : n * j < n * k := by rw [← hj, ← hk]; exact Nat.mod_lt _ (by decide)
  have hjk : j + 1 ≤ k := Nat.lt_of_mul_lt_mul_left hlt
  calc a % 256 + n = n * (j + 1) := by rw [hj]; ring
    _ ≤ n * k := Nat.mul_le_mul_left n hjk
    _ = 256 := hk.symm

/-- A lane's chunks lie in one sector each. -/
abbrev ChunksFit (lk : LaneLook) : Prop := ∀ c ∈ lk.chunks, ∀ pa, c.loc = .glob pa → pa % 256 + c.n ≤ 256

theorem chunksFit_nil {lk : LaneLook} (h : lk.chunks = []) : ChunksFit lk := by
  intro c hc
  rw [h] at hc
  exact absurd hc List.not_mem_nil

/-- The chunk of a piece: where its translation leads, or the place of a word that is not resident (R507). -/
def pieceChunk (s : State) (g : Group) (asid : Nat) (ask : Ask) (p : Nat × Nat) : Chunk :=
  match s.peek (.core g.core) asid p.1 g.sup ask.use with
  | .ok pa pte => { loc := .glob pa, n := p.2, slot := pteKey pte, virt := p.1 }
  | _ => holeChunk

theorem lookPieces_pieces (s : State) (g : Group) (asid : Nat) (ask : Ask) (lk : LaneLook) : (s.lookPieces g asid ask lk).pieces = lk.pieces := by
  unfold State.lookPieces
  dsimp only
  repeat' split
  all_goals rfl

/-- A lane's translations give a chunk for each piece, or a cause and none. -/
theorem lookPieces_chunks (s : State) (g : Group) (asid : Nat) (ask : Ask) (lk : LaneLook) :
    (s.lookPieces g asid ask lk).chunks = [] ∨ (s.lookPieces g asid ask lk).chunks = lk.pieces.map (pieceChunk s g asid ask) := by
  have hmap : ∀ f : (Nat × Nat) × Tr → Chunk, (lk.pieces.map fun p => (p, s.peek (.core g.core) asid p.1 g.sup ask.use)).map f =
      lk.pieces.map fun p => f (p, s.peek (.core g.core) asid p.1 g.sup ask.use) := fun f => List.map_map
  unfold State.lookPieces
  dsimp only
  split
  · exact .inl rfl
  split
  · exact .inl rfl
  split
  · exact .inl rfl
  generalize (if ask.use = .write then _ else _ : List (Chunk × Look)) = looks
  split
  · exact .inl rfl
  split
  · exact .inl rfl
  · refine .inr ((hmap _).trans (List.map_congr_left fun p _ => ?_))
    unfold pieceChunk
    cases s.peek (.core g.core) asid p.1 g.sup ask.use <;> rfl

theorem pieceChunk_fits (s : State) (g : Group) (asid : Nat) (ask : Ask) {p : Nat × Nat} (hd : p.2 ∣ 256) (ha : p.1 % p.2 = 0) {pa : Nat}
    (hpa : (pieceChunk s g asid ask p).loc = .glob pa) : pa % 256 + (pieceChunk s g asid ask p).n ≤ 256 := by
  unfold pieceChunk at hpa ⊢
  split at hpa
  · next pa' pte htr =>
    obtain ⟨e, rfl⟩ := peek_ok_addr htr
    cases hpa
    show e.addr p.1 % 256 + p.2 ≤ 256
    rw [addr_mod]
    exact piece_fits hd ha
  · cases hpa
    exact Nat.zero_le _

theorem chunksFit_lookPieces (s : State) (g : Group) (asid : Nat) (ask : Ask) (lk : LaneLook)
    (hp : ∀ p ∈ lk.pieces, p.2 ∣ 256 ∧ p.1 % p.2 = 0) : ChunksFit (s.lookPieces g asid ask lk) := by
  rcases lookPieces_chunks s g asid ask lk with h | h
  · exact chunksFit_nil h
  · intro c hc pa hpa
    rw [h] at hc
    obtain ⟨p, hpm, rfl⟩ := List.mem_map.1 hc
    obtain ⟨hd, ha⟩ := hp p hpm
    exact pieceChunk_fits s g asid ask hd ha hpa

/-- No access whose pieces are aligned reaches from one sector into another. -/
theorem chunksFit_laneLook (s : State) (g : Group) (asid : Nat) (ask : Ask) (l : Option Nat) (lane : Nat) (va : W64) (n : Nat)
    (hp : ∀ p ∈ (s.laneLook g asid ask l lane va n).pieces, p.2 ∣ 256 ∧ p.1 % p.2 = 0) : ChunksFit (s.laneLook g asid ask l lane va n) := by
  unfold State.laneLook at hp ⊢
  dsimp only at hp ⊢
  split
  · exact chunksFit_nil rfl
  next halign =>
    rw [if_neg halign] at hp
    split
    · exact chunksFit_nil rfl
    · exact chunksFit_nil rfl
    · split
      · exact chunksFit_nil rfl
      · intro c hc pa hpa
        rw [List.mem_singleton.1 hc] at hpa
        cases hpa
    · next ps hps =>
      rw [hps] at hp
      dsimp only at hp
      rw [lookPieces_pieces] at hp
      exact chunksFit_lookPieces s g asid ask _ hp


/-! ## To memory of this package -/

/-- What a byte at its home depends on besides the bytes, the sectors in L2 and their tags is the same in two states, and so are the groups. -/
structure SameHome (s t : State) : Prop where
  groups : t.groups = s.groups
  regions : t.mem.regions = s.mem.regions
  extents : t.mem.extents = s.mem.extents
  slots : t.xa.slots = s.xa.slots
  keys : t.xa.keys = s.xa.keys
  ilcfg : t.pkg.ilcfg = s.pkg.ilcfg

theorem SameHome.storage {s t : State} (h : SameHome s t) (a : Nat) : t.hasStorage a = s.hasStorage a := by
  unfold State.hasStorage State.ilsize State.extentOf
  simp only [h.extents, h.ilcfg]

/-- A byte at its home depends on the byte stored, its sector in L2 and that sector's tag. -/
theorem SameHome.homeByte {s t : State} (h : SameHome s t) {a : Nat} (hb : kget 0 t.mem.bytes a = kget 0 s.mem.bytes a)
    (hl : klookup t.mem.l2 (sectorOf a) = klookup s.mem.l2 (sectorOf a)) (ht : t.macTag (sectorOf a) = s.macTag (sectorOf a)) :
    t.homeByte a = s.homeByte a := by
  have hslot : ∀ k, t.slotByte k a = s.slotByte k a := by
    intro k
    unfold State.slotByte State.tagFor State.slot State.regionEntry State.keyByte
    simp only [h.slots, h.regions, h.keys]
  have hkey : ∀ m, t.keyByte m a = s.keyByte m a := by
    intro m
    unfold State.keyByte
    simp only [h.keys]
  unfold State.homeByte
  simp only [h.storage, hb, hl, ht, hslot, hkey]

/-- The bytes of a sector show as they are stored: it is in L2 in clear, or not there. -/
def InClear (s : State) (sec : Nat) : Prop := ∀ e, klookup s.mem.l2 sec = some e → e.raw = false

theorem inClear_kput {t : State} {m : KMap L2Sector} {sec : Nat} {e : L2Sector} (h : t.mem.l2 = kput m sec e) (hraw : e.raw = false) :
    InClear t sec := by
  intro e' he'
  rw [h, klookup_kput_self] at he'
  cases he'
  exact hraw

theorem homeByte_inClear {s : State} {a : Nat} (h : InClear s (sectorOf a)) : s.homeByte a = if s.hasStorage a then kget 0 s.mem.bytes a else 0xFF := by
  unfold State.homeByte
  cases s.hasStorage a
  · rfl
  · simp only [Bool.not_true, Bool.false_eq_true, if_false, if_true]
    cases he : klookup s.mem.l2 (sectorOf a) with
    | none => rfl
    | some e => simp only [h e he, Bool.false_eq_true, if_false]

/-- The state after bytes have been written at their home within a sector. -/
structure Written (s t : State) (sec pa : Nat) (bs : List Byte) : Prop where
  same : SameHome s t
  bytes : t.mem.bytes = ksetRun 0 s.mem.bytes pa bs
  clear : InClear t sec
  others : ∀ k, k ≠ sec → klookup t.mem.l2 k = klookup s.mem.l2 k ∧ t.macTag k = s.macTag k

theorem Written.inside {s t : State} {sec pa : Nat} {bs : List Byte} (h : Written s t sec pa bs) {i : Nat} (hi : i < bs.length)
    (hsec : sectorOf (pa + i) = sec) (hst : s.hasStorage (pa + i) = true) : t.homeByte (pa + i) = bs.getD i 0 := by
  rw [homeByte_inClear (hsec ▸ h.clear), if_pos ((h.same.storage _).trans hst), h.bytes, kget_ksetRun_inside _ _ _ _ _ hi,
    List.getD_eq_getElem _ _ hi]

/-- A byte that is not written stays, in another sector, and in the written one where that was in clear. -/
theorem Written.outside {s t : State} {sec pa : Nat} {bs : List Byte} (h : Written s t sec pa bs) {a : Nat}
    (ha : a < pa ∨ pa + bs.length ≤ a) (hsec : sectorOf a ≠ sec ∨ InClear s sec) : t.homeByte a = s.homeByte a := by
  have hb : kget 0 t.mem.bytes a = kget 0 s.mem.bytes a := by rw [h.bytes]; exact kget_ksetRun_outside 0 bs _ _ _ ha
  by_cases hs : sectorOf a = sec
  · rw [homeByte_inClear (hs ▸ h.clear), homeByte_inClear (hs ▸ hsec.resolve_left (· hs)), hb, h.same.storage]
  · obtain ⟨hl, ht⟩ := h.others _ hs
    exact h.same.homeByte hb hl ht

/-- What reads of memory depend on is the same beforehand. -/
theorem Written.of_memView {s u t : State} {sec pa : Nat} {bs : List Byte} (hv : memView u = memView s) (h : Written u t sec pa bs) :
    Written s t sec pa bs := by
  simp only [memView, Prod.mk.injEq] at hv
  obtain ⟨hbytes, hl2, htags, hregions, hextents, hslots, hkeys, hilcfg, hgroups⟩ := hv
  obtain ⟨⟨gs, r, x, sl, k, i⟩, hb, hc, ho⟩ := h
  refine ⟨⟨gs.trans hgroups, r.trans hregions, x.trans hextents, sl.trans hslots, k.trans hkeys, i.trans hilcfg⟩, hb.trans (by rw [hbytes]), hc, fun k hk => ?_⟩
  obtain ⟨h1, h2⟩ := ho k hk
  exact ⟨h1.trans (by rw [hl2]), h2.trans (by unfold State.macTag; rw [htags])⟩

/-- A sector whose line is held finds room (R273). -/
theorem l2Room_of_held {s : State} {sec : Nat} {e : L2Sector} (h : klookup s.mem.l2 sec = some e) : s.l2Room sec = s := by
  unfold State.l2Room
  refine if_pos ?_
  rw [Bool.or_eq_true]
  exact .inl (List.contains_iff_mem.2 (List.mem_append.2 (.inl (List.mem_map.2 ⟨(sec, e), mem_of_klookup h, rfl⟩))))

/-- A sector in clear becomes dirty for a write of some of its bytes. -/
theorem ownSector_of_clear {s : State} {sec : Nat} {e : L2Sector} (slot : Nat) (h : klookup s.mem.l2 sec = some e) (hraw : e.raw = false) :
    s.ownSector sec slot false = { s with mem := { s.mem with l2 := kput s.mem.l2 sec { e with dirty := true } } } := by
  unfold State.ownSector
  simp only [h, hraw, Bool.false_eq_true, if_false]

/-- A sector that is not in L2 enters it for a write of all its bytes. -/
theorem ownSector_of_absent {s : State} {sec : Nat} (slot : Nat) (h : klookup s.mem.l2 sec = none) :
    s.ownSector sec slot true = { s with mem := { s.mem with l2 := kput s.mem.l2 sec { dirty := true, slot := slot } } } := by
  unfold State.ownSector
  simp only [h, if_true]

/-- The last thing a write at home does: the bytes, the list of replaced bytes and the poison. -/
def putBytes (s : State) (pa : Nat) (bs : List Byte) (whole : Bool) : State :=
  { s with mem := { s.mem with bytes := ksetRun 0 s.mem.bytes pa bs, was := s.overwritten pa bs.length,
                               poison := if whole then s.mem.poison.filter (fun q => q != sectorOf pa) else s.mem.poison } }

/-- A write at home of some bytes of a sector. -/
theorem homeWrite_part {s : State} {pa : Nat} (bs : List Byte) (slot asid : Nat) (hst : s.hasStorage pa = true) : s.homeWrite pa bs slot asid false =
    putBytes (((s.fillSector (sectorOf pa) slot asid).l2Room (sectorOf pa)).ownSector (sectorOf pa) slot false) pa bs false := by
  unfold State.homeWrite
  simp only [hst, Bool.not_true, Bool.false_eq_true, if_false]
  rfl

/-- What a fill of a sector in clear leaves. -/
theorem fillSector_clear {s : State} {sec slot : Nat} (asid : Nat) (hp : ServedPlain s sec slot) (hr : RoomInL2 s sec) :
    SameHome s (s.fillSector sec slot asid) ∧ (s.fillSector sec slot asid).mem.tags = s.mem.tags ∧
    (∃ e, klookup (s.fillSector sec slot asid).mem.l2 sec = some e ∧ e.raw = false) ∧
    ∀ k, k ≠ sec → klookup (s.fillSector sec slot asid).mem.l2 k = klookup s.mem.l2 k := by
  obtain ⟨e, ⟨hv, hl, hraw⟩ | ⟨hraw, -, l2, hl2, hv⟩⟩ := fillSector_memView s sec slot asid hp hr
  · simp only [memView, Prod.mk.injEq] at hv
    obtain ⟨-, hl2, htags, hregions, hextents, hslots, hkeys, hilcfg, hgroups⟩ := hv
    exact ⟨⟨hgroups, hregions, hextents, hslots, hkeys, hilcfg⟩, htags, ⟨e, by rw [hl2, hl], hraw⟩, fun k _ => by rw [hl2]⟩
  · simp only [memView, Prod.mk.injEq] at hv
    obtain ⟨-, hl2', htags, hregions, hextents, hslots, hkeys, hilcfg, hgroups⟩ := hv
    exact ⟨⟨hgroups, hregions, hextents, hslots, hkeys, hilcfg⟩, htags, ⟨e, by rw [hl2', hl2, if_pos rfl], hraw⟩,
      fun k hk => by rw [hl2', hl2, if_neg hk]⟩

/-- Bytes are written to a sector served in clear (R474). -/
theorem written_homeWrite_part {s : State} {pa : Nat} (bs : List Byte) {slot : Nat} (asid : Nat) (hst : s.hasStorage pa = true)
    (hp : ServedPlain s (sectorOf pa) slot) (hr : RoomInL2 s (sectorOf pa)) : Written s (s.homeWrite pa bs slot asid false) (sectorOf pa) pa bs := by
  obtain ⟨⟨gs, r, x, sl, k, i⟩, htags, ⟨e, he, hraw⟩, hothers⟩ := fillSector_clear asid hp hr
  rw [homeWrite_part bs slot asid hst, l2Room_of_held he, ownSector_of_clear slot he hraw]
  refine ⟨⟨gs, r, x, sl, k, i⟩, ?_, inClear_kput rfl hraw, fun k hk => ⟨?_, ?_⟩⟩
  · show ksetRun 0 (s.fillSector (sectorOf pa) slot asid).mem.bytes pa bs = _
    rw [fillSector_bytes]
  · exact (klookup_kput_of_ne _ hk _).trans (hothers k hk)
  · exact congrArg (fun m => kget {} m k) htags

theorem kerase_kput {β : Type} (m : KMap β) (k : Nat) (v : β) : kerase (kput m k v) k = kerase m k := by
  induction m with
  | nil => simp [kput, kerase]
  | cons e r ih =>
    obtain ⟨a, w⟩ := e
    simp only [kput]
    split
    · next h => simp [kerase, Nat.ne_of_lt h, ih]
    · split
      · next h => simp [kerase, h]
      · simp [kerase]

/-- What dropping a sector leaves. -/
theorem dropSector_clear (s : State) (sec : Nat) : SameHome s (s.dropSector sec) ∧ (s.dropSector sec).mem.l2 = kerase s.mem.l2 sec ∧
    (s.dropSector sec).mem.peer = s.mem.peer ∧ ∀ k, k ≠ sec → (s.dropSector sec).macTag k = s.macTag k := by
  unfold State.dropSector State.writeBack
  split
  · split
    · exact ⟨⟨rfl, rfl, rfl, rfl, rfl, rfl⟩, kerase_kput _ _ _, rfl, fun k hk => kget_kset_of_ne _ _ hk _⟩
    · exact ⟨⟨rfl, rfl, rfl, rfl, rfl, rfl⟩, rfl, rfl, fun _ _ => rfl⟩
  · exact ⟨⟨rfl, rfl, rfl, rfl, rfl, rfl⟩, rfl, rfl, fun _ _ => rfl⟩

/-- A write at home of a whole sector. -/
theorem homeWrite_whole {s : State} {pa : Nat} (bs : List Byte) (slot asid : Nat) (hst : s.hasStorage pa = true) : ∃ miss, s.homeWrite pa bs slot asid true =
    putBytes ((((((s.dropSector (sectorOf pa)).countHub (homeHub pa) 0x20 (some asid)).countHub (homeHub pa) 0x21 (some asid) miss)).l2Room
      (sectorOf pa)).ownSector (sectorOf pa) slot true) pa bs true := by
  refine ⟨if (klookup s.mem.l2 (sectorOf pa)).isSome then 0 else 1, ?_⟩
  unfold State.homeWrite
  simp only [hst, Bool.not_true, Bool.false_eq_true, if_false, if_true]
  rfl

/-- A sector is written whole (R474). -/
theorem written_homeWrite_whole {s : State} {pa : Nat} (bs : List Byte) (slot asid : Nat) (hst : s.hasStorage pa = true)
    (hr : RoomInL2 s (sectorOf pa)) : Written s (s.homeWrite pa bs slot asid true) (sectorOf pa) pa bs := by
  obtain ⟨⟨gs, r, x, sl, k, i⟩, hl2, hpeer, htags⟩ := dropSector_clear s (sectorOf pa)
  obtain ⟨miss, heq⟩ := homeWrite_whole bs slot asid hst
  have hroom := l2Room_of_room (t := ((s.dropSector (sectorOf pa)).countHub (homeHub pa) 0x20 (some asid)).countHub (homeHub pa) 0x21 (some asid) miss)
    hl2 hpeer hr
  have habsent : klookup (((s.dropSector (sectorOf pa)).countHub (homeHub pa) 0x20 (some asid)).countHub (homeHub pa) 0x21 (some asid) miss).mem.l2
      (sectorOf pa) = none := (congrArg (klookup · (sectorOf pa)) hl2).trans (klookup_kerase_self _ _)
  rw [heq, hroom, ownSector_of_absent slot habsent]
  refine ⟨⟨gs, r, x, sl, k, i⟩, ?_, inClear_kput rfl rfl, fun k hk => ⟨?_, htags k hk⟩⟩
  · show ksetRun 0 (s.dropSector (sectorOf pa)).mem.bytes pa bs = _
    rw [dropSector_bytes]
  · exact (klookup_kput_of_ne _ hk _).trans ((congrArg (klookup · k) hl2).trans (klookup_kerase_of_ne _ hk))

/-- A write arrives without ownership transfer: node peers' lines stay. -/
theorem arrive_peer (s : State) (who : Agent) (pa n slot : Nat) (hn : s.needsTransfer (agentDevice who) pa = false) :
    (s.arrive who pa n slot true).mem.peer = s.mem.peer := by
  have hrevoke : ∀ (u : State) c a, (u.revoke pa c a).mem.peer = u.mem.peer := by
    intro u c a
    unfold State.revoke
    dsimp only
    repeat' split
    all_goals rfl
  unfold State.arrive State.touch
  simp only [hn, if_true, Bool.false_eq_true, if_false]
  exact hrevoke _ _ _

theorem servedPlain_of_memView {s t : State} {sec slot : Nat} (h : memView t = memView s) (hp : ServedPlain s sec slot) : ServedPlain t sec slot := by
  have hl : t.mem.l2 = s.mem.l2 := congrArg (fun v => v.2.1) h
  unfold ServedPlain at hp ⊢
  rw [hl, fillCheck_of_memView h]
  exact hp

theorem roomInL2_congr {s t : State} {sec : Nat} (hl : t.mem.l2 = s.mem.l2) (hp : t.mem.peer = s.mem.peer) (hr : RoomInL2 s sec) : RoomInL2 t sec := by
  unfold RoomInL2 at hr ⊢
  rw [hl, hp]
  exact hr

/-- A write to the caches of a core, and what a slice has served, leave the homes. -/
theorem Written.l1Store {s t : State} {sec pa : Nat} {bs : List Byte} (h : Written s t sec pa bs) (core pa' : Nat) (bs' : List Byte) :
    Written s (t.l1Store core pa' bs') sec pa bs := ⟨⟨h.1.1, h.1.2, h.1.3, h.1.4, h.1.5, h.1.6⟩, h.2, h.3, h.4⟩

theorem Written.freeReq {s t : State} {sec pa : Nat} {bs : List Byte} (h : Written s t sec pa bs) (gid op sec' : Nat) :
    Written s (t.freeReq gid op sec') sec pa bs := ⟨⟨h.1.1, h.1.2, h.1.3, h.1.4, h.1.5, h.1.6⟩, h.2, h.3, h.4⟩

/-- A write at home that a region's side owns, of a sector served in clear or of a whole one. -/
theorem written_writeAt {s : State} {who : Agent} {pa slot : Nat} {whole : Bool} (bs : List Byte) (hst : s.hasStorage pa = true)
    (hn : s.needsTransfer (agentDevice who) pa = false) (hp : whole = false → ServedPlain s (sectorOf pa) slot) (hr : RoomInL2 s (sectorOf pa)) :
    Written s (s.writeAt who pa bs slot whole) (sectorOf pa) pa bs := by
  have hv := arrive_memView s who pa bs.length slot hn
  have hst' : (s.arrive who pa bs.length slot true).hasStorage pa = true := (hasStorage_of_memView hv pa).trans hst
  have hr' := roomInL2_congr (congrArg (fun v => v.2.1) hv) (arrive_peer s who pa bs.length slot hn) hr
  have hw : Written s ((s.arrive who pa bs.length slot true).homeWrite pa bs slot (agentAsid who) whole) (sectorOf pa) pa bs := by
    refine .of_memView hv ?_
    cases whole with
    | true => exact written_homeWrite_whole bs slot _ hst' hr'
    | false => exact written_homeWrite_part bs _ hst' (servedPlain_of_memView hv (hp rfl)) hr'
  unfold State.writeAt
  dsimp only
  split
  · exact hw.l1Store _ _ _
  · exact hw

theorem agentDevice_scopeAgent (gid core asid scope : Nat) : agentDevice (scopeAgent gid core asid scope) = true := by
  unfold scopeAgent
  split <;> rfl

/-- A store at its home slice of some bytes of a sector. -/
theorem written_storeHome_part {s rest : State} (gid : Nat) (g : Group) {q : QStore} {pa : Nat} (hfull : q.full = false)
    (hst : rest.hasStorage pa = true) (hn : rest.needsTransfer true pa = false) (hp : ServedPlain rest (sectorOf pa) q.slot)
    (hr : RoomInL2 rest (sectorOf pa)) : Written rest (s.storeHome gid g q pa rest) (sectorOf pa) pa q.bytes := by
  unfold State.storeHome
  simp only [hfull, Bool.false_eq_true, if_false]
  exact ((written_writeAt q.bytes hst (by rw [agentDevice_scopeAgent]; exact hn) (fun _ => hp) hr).l1Store _ _ _).freeReq _ _ _

/-- A store to an address without storage leaves memory and the groups (R253). -/
theorem storeHome_absent {s rest : State} (gid : Nat) (g : Group) {q : QStore} {pa : Nat} (hfull : q.full = false)
    (hst : rest.hasStorage pa = false) (hn : rest.needsTransfer true pa = false) :
    (s.storeHome gid g q pa rest).mem.bytes = rest.mem.bytes ∧ (s.storeHome gid g q pa rest).groups = rest.groups := by
  have hv := arrive_memView rest (scopeAgent gid g.core (s.asidOf g) q.scope) pa q.bytes.length q.slot (by rw [agentDevice_scopeAgent]; exact hn)
  have hst' := (hasStorage_of_memView hv pa).trans hst
  have harrive := (⟨congrArg (fun v => v.1) hv, congrArg (fun v => v.2.2.2.2.2.2.2.2) hv⟩ : _ ∧ _)
  unfold State.storeHome State.writeAt State.homeWrite
  simp only [hfull, hst', Bool.not_false, Bool.false_eq_true, if_false, if_true]
  split <;> exact harrive

/-- The group without the queued stores that make up a whole sector. -/
def sectorGone (g : Group) (age sec : Nat) : Group := { g with stores := g.stores.filter fun x =>
  !(x.age == age && (match x.loc with | .glob p => sectorOf p == sec | _ => false)) }

theorem sectorGone_eq (g : Group) (age sec : Nat) : sectorGone g age sec = { g with stores := g.stores.filter fun x =>
    !(x.age == age && (match x.loc with | .glob p => sectorOf p == sec | .scr _ => false)) } := by
  unfold sectorGone
  congr 1
  refine List.filter_congr fun x _ => ?_
  cases x.loc <;> rfl

/-- A store at its home slice of a whole sector. -/
theorem written_storeHome_whole {s rest : State} {gid : Nat} {g : Group} {q : QStore} {pa : Nat} (hfull : q.full = true)
    (hst : s.hasStorage (sectorOf pa * 256) = true) (hn : s.needsTransfer true (sectorOf pa * 256) = false) (hr : RoomInL2 s (sectorOf pa)) :
    Written (s.setGroup gid (sectorGone g q.age (sectorOf pa))) (s.storeHome gid g q pa rest) (sectorOf pa) (sectorOf pa * 256)
      (sectorBytes g.stores q.age (sectorOf pa)) := by
  have hsec : sectorOf (sectorOf pa * 256) = sectorOf pa := Nat.mul_div_cancel _ (by decide)
  have hw := written_writeAt (s := s.setGroup gid (sectorGone g q.age (sectorOf pa))) (who := scopeAgent gid g.core (s.asidOf g) q.scope)
    (pa := sectorOf pa * 256) (slot := q.slot) (whole := true) (sectorBytes g.stores q.age (sectorOf pa)) hst
    (by rw [agentDevice_scopeAgent]; exact hn) (fun h => nomatch h) (hsec.symm ▸ hr)
  rw [hsec] at hw
  unfold State.storeHome
  simp only [hfull, if_true]
  refine Written.freeReq (Written.l1Store ?_ _ _ _) _ _ _
  convert hw using 3
  rfl

/-! ## The clauses -/

theorem sectorOf_add {pa i n : Nat} (h : pa % 256 + n ≤ 256) (hi : i < n) : sectorOf (pa + i) = sectorOf pa := by
  unfold sectorOf
  omega

/-- The home that takes a store performs it there, or writes the device register. -/
theorem drainGo_home {s rest : State} {gid k : Nat} {g : Group} {q : QStore} {pa : Nat} (h : HomeTakes s gid g q pa) :
    drainGo s gid k g q rest = if isDevReg pa then rest.devWrite pa q.bytes else s.storeHome gid g q pa rest := by
  obtain ⟨hloc, hdom, hacc, hreq⟩ := h
  unfold drainGo
  simp only [hloc, hdom, hacc, hreq, Bool.or_self, Bool.false_eq_true, if_false]

section
variable {s s0 : State} {gid k : Nat} {g : Group} {q : QStore}

theorem step_drain_home {pa : Nat} (h : Draining s s0 gid k g q) (ht : HomeTakes s0 gid g q pa) (hdev : isDevReg pa = false) :
    step s = .next ((s0.actAs .idle).storeHome gid (nearedGroup g k q) q pa ((s0.actAs .idle).setGroup gid (drainedGroup g k q))) := by
  have ht' : HomeTakes (s0.actAs .idle) gid (nearedGroup g k q) q pa := ht
  rw [step_drain h, drainGo_home ht', hdev]
  rfl

theorem step_drain_device {pa : Nat} (h : Draining s s0 gid k g q) (ht : HomeTakes s0 gid g q pa) (hdev : isDevReg pa = true) :
    step s = .next (((s0.actAs .idle).setGroup gid (drainedGroup g k q)).devWrite pa q.bytes) := by
  have ht' : HomeTakes (s0.actAs .idle) gid (nearedGroup g k q) q pa := ht
  rw [step_drain h, drainGo_home ht', hdev]
  rfl

/-- Some bytes of a sector. -/
theorem drain_part {pa : Nat} (h : Draining s s0 gid k g q) (ht : HomeTakes s0 gid g q pa) (hdev : isDevReg pa = false)
    (hst : s0.hasStorage pa = true) (hfull : q.full = false) (hfit : pa % 256 + q.bytes.length ≤ 256) (hn : s0.needsTransfer true pa = false)
    (hp : ServedPlain s0 (sectorOf pa) q.slot) (hr : RoomInL2 s0 (sectorOf pa)) :
    ∃ t, step s = .next t ∧ klookup t.groups gid = some (drainedGroup g k q) ∧
      (∀ i, i < q.bytes.length → s0.hasStorage (pa + i) = true → t.homeByte (pa + i) = q.bytes.getD i 0) ∧
      (∀ a, a < pa ∨ pa + q.bytes.length ≤ a → t.homeByte a = s0.homeByte a) := by
  have hw := written_storeHome_part (s := s0.actAs .idle) (rest := (s0.actAs .idle).setGroup gid (drainedGroup g k q)) gid (nearedGroup g k q)
    hfull hst hn hp hr
  have hclear : InClear ((s0.actAs .idle).setGroup gid (drainedGroup g k q)) (sectorOf pa) := by
    intro e he
    have he' : klookup s0.mem.l2 (sectorOf pa) = some e := he
    unfold ServedPlain at hp
    rw [he'] at hp
    exact hp.2
  refine ⟨_, step_drain_home h ht hdev, ?_, fun i hi hs => hw.inside hi (sectorOf_add hfit hi) hs, fun a ha => hw.outside ha (.inr hclear)⟩
  rw [hw.same.groups]
  exact klookup_kput_self _ _ _

/-- A whole sector. -/
theorem drain_whole {pa : Nat} (h : Draining s s0 gid k g q) (ht : HomeTakes s0 gid g q pa) (hdev : isDevReg pa = false)
    (hst : s0.hasStorage (sectorOf pa * 256) = true) (hfull : q.full = true) (hn : s0.needsTransfer true (sectorOf pa * 256) = false)
    (hr : RoomInL2 s0 (sectorOf pa)) :
    ∃ t, step s = .next t ∧ klookup t.groups gid = some (sectorGone (nearedGroup g k q) q.age (sectorOf pa)) ∧
      (∀ i, i < 256 → s0.hasStorage (sectorOf pa * 256 + i) = true →
        t.homeByte (sectorOf pa * 256 + i) = (sectorBytes (nearedGroup g k q).stores q.age (sectorOf pa)).getD i 0) ∧
      (∀ a, sectorOf a ≠ sectorOf pa → t.homeByte a = s0.homeByte a) := by
  have hw := written_storeHome_whole (s := s0.actAs .idle) (rest := (s0.actAs .idle).setGroup gid (drainedGroup g k q)) (gid := gid)
    (g := nearedGroup g k q) hfull hst hn hr
  have hlen : (sectorBytes (nearedGroup g k q).stores q.age (sectorOf pa)).length = 256 := by
    unfold sectorBytes
    rw [List.length_map, List.length_range]
  refine ⟨_, step_drain_home h ht hdev, ?_, fun i hi hs => hw.inside (hlen ▸ hi) ?_ hs, fun a ha => hw.outside ?_ (.inl ha)⟩
  · rw [hw.same.groups]
    exact klookup_kput_self _ _ _
  · unfold sectorOf
    omega
  · rw [hlen]
    unfold sectorOf at ha ⊢
    omega

/-- A store to an address without storage is reported (R253). -/
theorem drain_absent {pa : Nat} (h : Draining s s0 gid k g q) (ht : HomeTakes s0 gid g q pa) (hdev : isDevReg pa = false)
    (hst : s0.hasStorage pa = false) (hfull : q.full = false) (hn : s0.needsTransfer true pa = false) :
    ∃ t, step s = .next t ∧ klookup t.groups gid = some (drainedGroup g k q) ∧ t.mem.bytes = s0.mem.bytes := by
  obtain ⟨hbytes, hgroups⟩ := storeHome_absent (s := s0.actAs .idle) (rest := (s0.actAs .idle).setGroup gid (drainedGroup g k q)) gid
    (nearedGroup g k q) hfull hst hn
  refine ⟨_, step_drain_home h ht hdev, ?_, hbytes⟩
  rw [hgroups]
  exact klookup_kput_self _ _ _

/-- To the scratchpad (R244). -/
theorem drain_scratch {off : Nat} (h : Draining s s0 gid k g q) (hloc : q.loc = .scr off) :
    step s = .next (((s0.actAs .idle).setGroup gid (drainedGroup g k q)).modTeam g.team fun t => t.scrStore off q.bytes) := by
  rw [step_drain h]
  unfold drainGo
  rw [hloc]
  rfl

/-- To another package that no link reaches. -/
theorem drain_lost {pa : Nat} (h : Draining s s0 gid k g q) (hloc : q.loc = .glob pa) (hdom : isDomain pa = true)
    (hroute : s0.routes (domainPkg pa) = []) :
    step s = .next (((s0.actAs .idle).setGroup gid (drainedGroup g k q)).remoteFail gid q.lanes q.va) := by
  have hroute' : (s0.actAs .idle).routes (domainPkg pa) = [] := hroute
  rw [step_drain h]
  unfold drainGo
  simp only [hloc, hdom, hroute', List.isEmpty_nil, if_true]

/-- To another package over a link. -/
theorem drain_sent {pa : Nat} (h : Draining s s0 gid k g q) (hloc : q.loc = .glob pa) (hdom : isDomain pa = true)
    (hroute : s0.routes (domainPkg pa) ≠ []) {s2 : State} {r : Nat}
    (hreq : (s0.actAs .idle).request (storePacket q pa) (.store gid) none = some (s2, r)) :
    ∃ t, step s = .next t ∧
      klookup t.groups gid = some { nearedGroup g k q with stores := (nearedGroup g k q).stores.set k { q with rid := some r } } ∧
      t.mem.bytes = s0.mem.bytes ∧ ∀ a, t.homeByte a = s0.homeByte a := by
  have hroute' : ((s0.actAs .idle).routes (domainPkg pa)).isEmpty = false := by
    rw [List.isEmpty_eq_false_iff]
    exact hroute
  have hnet : s2 = { s0.actAs .idle with net := s2.net } := request_net hreq
  refine ⟨(s2.setGroup gid { nearedGroup g k q with stores := (nearedGroup g k q).stores.set k { q with rid := some r } }).forgetPeer
    (some g.core) pa q.bytes.length, ?_, klookup_kput_self _ _ _, ?_, fun a => ?_⟩
  · rw [step_drain h]
    unfold drainGo
    simp only [hloc, hdom, hroute', hreq, if_true, Bool.false_eq_true, if_false]
    rfl
  · rw [hnet]
    rfl
  · rw [hnet]
    rfl

end

/-- Settles O54: the step goes to the store's home; there the bytes are put in the sector, which is in clear view, and nothing else is
(`Written`). -/
theorem drainedStoreWritesItsBytes : Obligations.DrainedStoreWritesItsBytes := by
  unfold Obligations.DrainedStoreWritesItsBytes
  refine ⟨fun s s0 gid k g q h => ⟨?_, ?_, ?_, ?_, ?_, ?_⟩, chunksFit_laneLook⟩
  · exact fun pa ht hdev hst hfull hfit hn hp hr => drain_part h ht hdev hst hfull hfit hn hp hr
  · intro pa ht hdev hst hfull hn hr
    obtain ⟨t, hstep, hgroup, hin, hout⟩ := drain_whole h ht hdev hst hfull hn hr
    exact ⟨t, hstep, hgroup.trans (congrArg some (sectorGone_eq _ _ _)), hin, hout⟩
  · exact fun pa ht hdev hst hfull hn => drain_absent h ht hdev hst hfull hn
  · exact fun pa ht hdev => step_drain_device h ht hdev
  · intro off tm hloc htm inObj
    refine ⟨drain_scratch h hloc, fun i hi hobj => ?_, fun a ha hobj => ?_⟩
    · rw [scrStore_outside tm off q.bytes hobj, scrPut_inside tm off q.bytes hi]
    · rw [scrStore_outside tm off q.bytes hobj, scrPut_outside tm off q.bytes ha]
  · exact fun pa hloc hdom => ⟨drain_lost h hloc hdom, fun s2 r hroute hreq => drain_sent h hloc hdom hroute hreq⟩

end Sys2Proof
end

section
/-!
SUPPORT. What accesses at homes, in the device-register window and on the links leave alone: the acting agent, the groups, and the canonical form
of memory.
-/

namespace Sys2Proof

open Machine

/-- `t` has the groups, the acting agent and the bytes of `s`. -/
structure Quiet (s t : State) : Prop where
  groups : t.groups = s.groups
  cur : t.cur = s.cur
  bytes : t.mem.bytes = s.mem.bytes

/-- `t` has every group that `s` has and the same acting agent, and its memory is canonical where that of `s` is. -/
structure Steady (s t : State) : Prop where
  groups : ∀ gid, (klookup s.groups gid).isSome = true → (klookup t.groups gid).isSome = true
  cur : t.cur = s.cur
  canon : MemoryCanonical s → MemoryCanonical t

namespace Quiet

theorem refl (s : State) : Quiet s s := ⟨rfl, rfl, rfl⟩

theorem trans {a b c : State} (h : Quiet a b) (h' : Quiet b c) : Quiet a c :=
  ⟨h'.groups.trans h.groups, h'.cur.trans h.cur, h'.bytes.trans h.bytes⟩

/-- The later part first: the state between the two is read off its result. -/
theorem of {a b c : State} (h' : Quiet b c) (h : Quiet a b) : Quiet a c := h.trans h'

theorem ite {c : Prop} [Decidable c] {s a b : State} (ha : Quiet s a) (hb : Quiet s b) : Quiet s (if c then a else b) := by
  split <;> assumption

theorem foldl {α : Type} {f : State → α → State} (hf : ∀ s x, Quiet s (f s x)) : ∀ (xs : List α) (s : State), Quiet s (xs.foldl f s)
  | [], s => refl s
  | x :: xs, s => (hf s x).trans (foldl hf xs (f s x))

theorem steady {s t : State} (h : Quiet s t) : Steady s t := ⟨fun _ hk => h.groups ▸ hk, h.cur, canonical_of_bytes h.bytes⟩

end Quiet

namespace Steady

theorem refl (s : State) : Steady s s := (Quiet.refl s).steady

theorem trans {a b c : State} (h : Steady a b) (h' : Steady b c) : Steady a c :=
  ⟨fun k hk => h'.groups k (h.groups k hk), h'.cur.trans h.cur, h'.canon ∘ h.canon⟩

theorem ite {c : Prop} [Decidable c] {s a b : State} (ha : Steady s a) (hb : Steady s b) : Steady s (if c then a else b) := by
  split <;> assumption

theorem foldl {α : Type} {f : State → α → State} (hf : ∀ s x, Steady s (f s x)) : ∀ (xs : List α) (s : State), Steady s (xs.foldl f s)
  | [], s => refl s
  | x :: xs, s => (hf s x).trans (foldl hf xs (f s x))

end Steady

section
variable (s : State)

/-! ## Links -/

theorem quiet_giveLink (k : Nat) (p : Packet) : Quiet s (s.giveLink k p) := .ite ⟨rfl, rfl, rfl⟩ ⟨rfl, rfl, rfl⟩

theorem quiet_request {p : Packet} {kind : OutKind} {prefer : Option Nat} {r : State × Nat} (hr : s.request p kind prefer = some r) : Quiet s r.1 := by
  rw [request_net hr]
  exact ⟨rfl, rfl, rfl⟩

/-! ## Homes -/

theorem quiet_writeBack (sec : Nat) : Quiet s (s.writeBack sec) := by
  unfold State.writeBack
  repeat' split
  all_goals exact ⟨rfl, rfl, rfl⟩

theorem quiet_dropSector (sec : Nat) : Quiet s (s.dropSector sec) := (quiet_writeBack s sec).trans ⟨rfl, rfl, rfl⟩

theorem quiet_dropLine (line : Nat) : Quiet s (s.dropLine line) := by
  dsimp only [State.dropLine]
  generalize (List.range 4).map (4 * line + ·) = xs
  exact (Quiet.foldl quiet_dropSector xs s).trans ⟨rfl, rfl, rfl⟩

theorem quiet_l2Room (sec : Nat) : Quiet s (s.l2Room sec) := by
  unfold State.l2Room
  refine .ite (.refl s) (.ite (.refl s) ?_)
  split
  · exact quiet_dropLine s _
  · exact .refl s

theorem quiet_countHub (hub code : Nat) (asid : Option Nat) (n : Nat) : Quiet s (s.countHub hub code asid n) := ⟨rfl, rfl, rfl⟩
theorem quiet_countCore (core code asid n : Nat) : Quiet s (s.countCore core code asid n) := ⟨rfl, rfl, rfl⟩
theorem quiet_alarm (source : Nat) (asid : Option Nat) : Quiet s (s.alarm source asid) := ⟨rfl, rfl, rfl⟩
theorem quiet_report (unit chan asid src value : Nat) : Quiet s (s.report unit chan asid src value) := ⟨rfl, rfl, rfl⟩

theorem quiet_fillSector (sec slot asid : Nat) : Quiet s (s.fillSector sec slot asid) := by
  unfold State.fillSector
  have hcount := quiet_countHub s (homeHub (sec * 256)) 0x20 (some asid) 1
  refine .ite hcount ?_
  have hroom := ((hcount.trans (quiet_dropSector _ sec)).trans (quiet_l2Room _ sec)).trans (quiet_countHub _ (homeHub (sec * 256)) 0x21 (some asid) 1)
  dsimp only
  revert hroom
  generalize State.countHub (State.l2Room _ _) _ _ _ _ = u
  intro hroom
  split
  · exact (hroom.trans (quiet_countHub u _ _ _ _)).trans (quiet_alarm _ _ _)
  · exact ⟨hroom.groups, hroom.cur, hroom.bytes⟩
  · exact ⟨hroom.groups, hroom.cur, hroom.bytes⟩

theorem quiet_revoke (pa : Nat) (core : Option Nat) (asid : Nat) : Quiet s (s.revoke pa core asid) := by
  simp only [State.revoke]
  repeat' split
  all_goals exact ⟨rfl, rfl, rfl⟩

theorem quiet_flushRegion (r asid : Nat) : Quiet s (s.flushRegion r asid) :=
  ((Quiet.foldl (fun s (e : Nat × AtomLine) => quiet_revoke s (e.1 * 256) none asid) _ s).trans
    (Quiet.foldl (fun s sec => quiet_dropSector s sec) _ _)).trans ⟨rfl, rfl, rfl⟩

theorem quiet_transfer (r asid : Nat) : Quiet s (s.transfer r asid) := (quiet_flushRegion s r asid).trans ⟨rfl, rfl, rfl⟩

theorem quiet_touch (who : Agent) (pa n : Nat) (write : Bool) : Quiet s (s.touch who pa n write) := by
  have h : Quiet s (if s.needsTransfer (agentDevice who) pa then s.transfer (regionOf pa) (agentAsid who) else s) :=
    .ite (quiet_transfer s _ _) (.refl s)
  unfold State.touch
  exact .of (quiet_revoke _ _ _ _) (h.trans ⟨rfl, rfl, rfl⟩)

theorem quiet_arrive (who : Agent) (pa n slot : Nat) (write : Bool) : Quiet s (s.arrive who pa n slot write) := by
  have h := quiet_touch s who pa n write
  exact .ite h (.ite (h.trans (quiet_fillSector _ _ _ _)) (h.trans ⟨rfl, rfl, rfl⟩))

theorem quiet_readAt (who : Agent) (pa n slot : Nat) : Quiet s (s.readAt who pa n slot).1 := quiet_arrive s who pa n slot false

/-- A sector made ready for a write. -/
theorem steady_ownSector (sec slot : Nat) (whole : Bool) : Steady s (s.ownSector sec slot whole) := by
  refine ⟨?_, ?_, fun h => ownSector_canonical h sec slot whole⟩ <;> unfold State.ownSector <;> repeat' split
  all_goals first | exact fun _ h => h | rfl

theorem steady_homeWrite (pa : Nat) (bs : List Byte) (slot asid : Nat) (whole : Bool) : Steady s (s.homeWrite pa bs slot asid whole) := by
  have h : ∀ u : State, Quiet s u → ((u.l2Room (sectorOf pa)).ownSector (sectorOf pa) slot whole).cur = s.cur ∧
      ∀ gid, (klookup s.groups gid).isSome = true → (klookup ((u.l2Room (sectorOf pa)).ownSector (sectorOf pa) slot whole).groups gid).isSome = true :=
    fun u hu => by
      have hs := (hu.steady.trans (quiet_l2Room u (sectorOf pa)).steady).trans (steady_ownSector _ (sectorOf pa) slot whole)
      exact ⟨hs.cur, hs.groups⟩
  refine ⟨?_, ?_, fun hc => homeWrite_canonical hc pa bs slot asid whole⟩ <;> unfold State.homeWrite <;> split
  · exact fun _ h => h
  · refine (h _ ?_).2
    split
    · exact (quiet_dropSector s _).trans ⟨rfl, rfl, rfl⟩
    · exact quiet_fillSector s _ _ _
  · rfl
  · refine (h _ ?_).1
    split
    · exact (quiet_dropSector s _).trans ⟨rfl, rfl, rfl⟩
    · exact quiet_fillSector s _ _ _

theorem steady_writeAt (who : Agent) (pa : Nat) (bs : List Byte) (slot : Nat) (whole : Bool) : Steady s (s.writeAt who pa bs slot whole) := by
  have h := (quiet_arrive s who pa bs.length slot true).steady.trans (steady_homeWrite _ pa bs slot (agentAsid who) whole)
  unfold State.writeAt
  dsimp only
  split
  · exact h.trans (Quiet.steady ⟨rfl, rfl, rfl⟩)
  · exact h

theorem steady_writeSpan (who : Agent) (slot : Nat) : ∀ (fuel : Nat) (s : State) (pa : Nat) (bs : List Byte),
    Steady s (s.writeSpan who slot fuel pa bs)
  | 0, s, _, _ => .refl s
  | fuel + 1, s, pa, bs => by
    unfold State.writeSpan
    exact .ite (.refl s) ((steady_writeAt s who pa _ slot _).trans (steady_writeSpan who slot fuel _ _ _))

theorem steady_writeRun (who : Agent) (slot pa : Nat) (bs : List Byte) : Steady s (s.writeRun who slot pa bs) := steady_writeSpan who slot _ s pa bs

/-! ## The device-register window -/

theorem quiet_noteReady : Quiet s s.noteReady := by
  unfold State.noteReady
  refine Quiet.foldl (fun u e => ?_) _ s
  split <;> exact ⟨rfl, rfl, rfl⟩

theorem quiet_lowerPreds (asid id : Nat) : Quiet s (s.lowerPreds asid id) := by
  unfold State.lowerPreds
  split
  · exact .ite ⟨rfl, rfl, rfl⟩ (.of (quiet_noteReady _) ⟨rfl, rfl, rfl⟩)
  · exact ⟨rfl, rfl, rfl⟩

theorem quiet_finishTask (id : Nat) : Quiet s (s.finishTask id) := by
  unfold State.finishTask
  split
  · next k _ =>
    have h : Quiet s (if k.faulted then s else k.record.succ.foldl (fun s x => s.lowerPreds k.record.asid x) s) :=
      .ite (.refl s) (.foldl (fun s x => quiet_lowerPreds s _ x) _ s)
    exact .of (quiet_noteReady _) (h.trans ⟨rfl, rfl, rfl⟩)
  · exact .refl s

theorem quiet_hostDone (v : W64) : Quiet s (s.hostDone v) := by
  unfold State.hostDone
  dsimp only
  split
  · exact .ite (quiet_finishTask s _) (.refl s)
  · exact .refl s

theorem quiet_kcommand (op : Nat) (v : W64) : Quiet s (s.kcommand op v) := .ite ⟨rfl, rfl, rfl⟩ (.ite ⟨rfl, rfl, rfl⟩ ⟨rfl, rfl, rfl⟩)

theorem quiet_writeKprov (v : W64) : Quiet s (s.writeKprov v) := .ite ⟨rfl, rfl, rfl⟩ ⟨rfl, rfl, rfl⟩

theorem quiet_setDevWord (off : Nat) (v : W64) : Quiet s (s.setDevWord off v) := by
  unfold State.setDevWord
  split
  case h_1 => exact quiet_hostDone s v
  case h_4 => exact quiet_kcommand s _ v
  case h_6 => exact quiet_writeKprov s v
  all_goals exact ⟨rfl, rfl, rfl⟩

theorem quiet_devWriteWord (off : Nat) (bs : List Byte) : Quiet s (s.devWriteWord off bs) := .ite (.refl s) (quiet_setDevWord s _ _)

theorem quiet_devWriteRun : ∀ (fuel : Nat) (s : State) (off : Nat) (bs : List Byte), Quiet s (s.devWriteRun off bs fuel)
  | 0, s, _, _ => .refl s
  | fuel + 1, s, off, bs => by
    unfold State.devWriteRun
    exact .ite (.refl s) ((quiet_devWriteWord s off _).trans (quiet_devWriteRun fuel _ _ _))

theorem quiet_devWrite (pa : Nat) (bs : List Byte) : Quiet s (s.devWrite pa bs) := quiet_devWriteRun _ s _ bs

/-! ## Translation -/

theorem quiet_tlbRoom (e : TlbEntry) : Quiet s (s.tlbRoom e) := by
  unfold State.tlbRoom
  dsimp only
  repeat' split
  all_goals exact ⟨rfl, rfl, rfl⟩

theorem quiet_putTlb (e : TlbEntry) : Quiet s (s.putTlb e) := by
  obtain ⟨hg, hc, hb⟩ := quiet_tlbRoom { s with mem := { s.mem with tlb := s.mem.tlb.filter fun x =>
    x.eaddr != e.eaddr || x.asid != e.asid || x.unit != e.unit || x.l1 != e.l1 } } e
  exact ⟨hg, hc, hb⟩

theorem quiet_installTlb (m : Mmu) (e : TlbEntry) : Quiet s (s.installTlb m e) := by
  cases m with
  | core c => exact (quiet_putTlb s _).trans (quiet_putTlb _ _)
  | die d => exact quiet_putTlb s _

theorem steady_walkerPut (asid pa : Nat) (bs : List Byte) : Steady s (s.walkerPut asid pa bs) := by
  unfold State.walkerPut
  refine .ite (quiet_devWrite s pa bs).steady (.ite ?_ (steady_writeRun s _ _ _ _))
  split
  · next h => exact (quiet_request s h).steady
  · exact .refl s

theorem quiet_entryTouch (asid pa n : Nat) : Quiet s (s.entryTouch asid pa n) := .ite (.refl s) (.ite ⟨rfl, rfl, rfl⟩ (quiet_arrive s _ pa n 0 false))

theorem quiet_walkTouch (die asid va : Nat) : Quiet s (s.walkTouch die asid va) := by
  unfold State.walkTouch
  exact .of (.foldl (fun s (e : Nat × Nat) => quiet_entryTouch s asid e.1 e.2) _ _) ⟨rfl, rfl, rfl⟩

theorem quiet_touchWalk (m : Mmu) (asid va : Nat) : Quiet s (s.touchWalk m asid va) := .ite (.refl s) (quiet_walkTouch s _ _ _)

theorem quiet_askTables (m : Mmu) (asid va : Nat) : Quiet s (s.askTables m asid va) := by
  unfold State.askTables
  refine Quiet.foldl (fun u e => ?_) _ s
  refine .ite (.refl u) (.ite ⟨rfl, rfl, rfl⟩ ?_)
  split
  · next h => exact quiet_request u h
  · exact .refl u

theorem steady_useEntry (m : Mmu) (asid va : Nat) (u : Use) : Steady s (s.useEntry m asid va u) := by
  unfold State.useEntry
  split
  · next e w _ =>
    extract_lets s1 held s2
    have h1 : Quiet s s1 := .ite (quiet_walkTouch s _ _ _) (.refl s)
    have h2 : Quiet s s2 := by
      unfold s2
      split
      · exact .ite h1 (h1.trans (quiet_countCore s1 _ _ _ _))
      · exact h1
    clear_value s2
    refine .ite ?_ (.ite ?_ h2.steady)
    · exact (h2.steady.trans (steady_walkerPut s2 asid _ _)).trans (quiet_installTlb _ m _).steady
    · exact (h2.trans (quiet_installTlb s2 m e)).steady
  · exact .refl s

end

end Sys2Proof
end

section
/-!
PROOF. No step stops with a fault, and none is refused but for a RISC-V word (00_scope.md; 02_code.md, Undefined and illegal encodings): O43.
-/

namespace Sys2Proof

open Machine

/-- The group is the agent whose instruction runs, and it is there. -/
structure Present (s : State) (gid : Nat) : Prop where
  cur : s.cur = .group gid
  group : (klookup s.groups gid).isSome = true

theorem Present.of_steady {s t : State} {gid : Nat} (h : Present s gid) (hs : Steady s t) : Present t gid := ⟨hs.cur.trans h.cur, hs.groups gid h.group⟩

/-! ## What a fetch leaves -/

theorem steady_modGroup (s : State) (gid : Nat) (f : Group → Group) : Steady s (s.modGroup gid f) := by
  refine ⟨fun k hk => ?_, rfl, id⟩
  rw [State.modGroup_groups]
  by_cases h : k = gid
  · subst h
    cases hl : klookup s.groups k with
    | none => rw [hl] at hk; exact absurd hk Bool.false_ne_true
    | some g => rw [kmap_of_lookup _ hl, klookup_kput_self]; rfl
  · rw [klookup_kmap_of_ne _ h]; exact hk

theorem steady_askCode (s : State) (gid : Nat) (g : Group) (pas : List (Nat × Nat)) : Steady s (s.askCode gid g pas) := by
  unfold State.askCode
  refine Steady.foldl (fun u e => .ite (.refl u) ?_) pas s
  split
  · next h => exact (quiet_request u h).steady
  · exact .ite (steady_modGroup u _ _) (.refl u)

theorem quiet_codeRead (s : State) (gid : Nat) (g : Group) (pa slot : Nat) : Quiet s (s.codeRead gid g pa slot).1 := by
  unfold State.codeRead
  split
  · exact .refl s
  split
  · exact .refl s
  · exact .ite (quiet_touch s _ pa 4 false) (quiet_arrive s _ pa 4 slot false)

theorem steady_codeRun (gid : Nat) (g : Group) : ∀ (ps : List (Nat × Nat × Nat)) (s : State), Steady s (s.codeRun gid g ps).1
  | [], s => .refl s
  | (va, pa, slot) :: ps, s =>
    ((steady_useEntry s _ _ va .fetch).trans (quiet_codeRead _ gid g pa slot).steady).trans (steady_codeRun gid g ps _)

/-- The states that a fetch can leave. -/
def Fetched.All (P : State → Prop) : Fetched → Prop
  | .wait s => P s
  | .ok s _ => P s
  | _ => True

theorem steady_codeWords (s : State) (gid : Nat) (g : Group) (va n : Nat) : Fetched.All (Steady s) (s.codeWords gid g va n) := by
  unfold State.codeWords
  extract_lets all todo unread looks ps
  split
  · exact (Quiet.foldl (fun u a => quiet_askTables u _ _ a) _ s).steady
  split
  · split
    · trivial
    split
    · exact .refl s
    · trivial
  · split
    · exact steady_askCode s gid g _
    split
    · exact .refl s
    · exact steady_codeRun gid g _ s

theorem steady_fetchGroup (s : State) (gid : Nat) (g : Group) : Fetched.All (Steady s) (s.fetchGroup gid g) := by
  unfold State.fetchGroup
  extract_lets done
  have hdone : ∀ (u : State) ws, Steady s u → Fetched.All (Steady s) (done u ws) := fun u ws hu =>
    Steady.ite hu (hu.trans (steady_modGroup u gid _))
  clear_value done
  have h := steady_codeWords s gid g g.pc.toNat 3
  split
  · next u ws hw =>
    rw [hw] at h
    split
    · have h' := steady_codeWords u gid g (g.pc.toNat + 12) 4
      split
      · next v ps hp =>
        rw [hp] at h'
        exact hdone v _ (h.trans h')
      · next x _ =>
        revert h'
        generalize u.codeWords gid g (g.pc.toNat + 12) 4 = y
        intro h'
        cases y
        · trivial
        · trivial
        · exact Steady.trans h h'
        · exact Steady.trans h h'
    · exact hdone u ws h
  · exact h

/-! ## The group that is picked -/

theorem isSome_klookup_of_mem {β : Type} {k : Nat} {v : β} : ∀ {m : KMap β}, (k, v) ∈ m → (klookup m k).isSome = true
  | (a, w) :: r, h => by
    unfold klookup
    split
    · rfl
    · next hne =>
      rcases List.mem_cons.1 h with h | h
      · cases h
        exact absurd rfl hne
      · exact isSome_klookup_of_mem h

/-- A change of values keeps the keys. -/
theorem isSome_klookup_map {β : Type} {f : Nat × β → Nat × β} (hf : ∀ e, (f e).1 = e.1) (k : Nat) :
    ∀ m : KMap β, (klookup (m.map f) k).isSome = (klookup m k).isSome
  | [] => rfl
  | (a, w) :: r => by
    have ha : f (a, w) = (a, (f (a, w)).2) := Prod.ext (hf _) rfl
    rw [List.map_cons, ha]
    unfold klookup
    split
    · rfl
    · exact isSome_klookup_map hf k r

theorem mem_of_earliest {x : Nat × Group} : ∀ {gs : List (Nat × Group)}, earliest gs = some x → x ∈ gs
  | e :: r, h => by
    unfold earliest at h
    split at h
    · next y hy =>
      split at h
      · cases h
        exact List.mem_cons_self
      · cases h
        exact List.mem_cons_of_mem _ (mem_of_earliest hy)
    · cases h
      exact List.mem_cons_self

theorem mem_of_pick {s : State} {core q t gid : Nat} {g : Group} (h : s.pick core q = some (t, gid, g)) : (gid, g) ∈ s.groups := by
  have hsub : ∀ x, x ∈ s.quarterGroups core q → x ∈ s.groups := fun x hx => (List.mem_filter.1 hx).1
  unfold State.pick at h
  extract_lets gs at h
  split at h
  · cases h
  extract_lets t' ready at h
  split at h
  · next x hx =>
    obtain ⟨-, rfl⟩ := Prod.mk.inj (Option.some.inj h)
    exact hsub _ (List.mem_filter.1 (List.mem_filter.1 (mem_of_earliest hx)).1).1
  · obtain ⟨x, hx, hxe⟩ := Option.map_eq_some_iff.1 h
    obtain ⟨-, rfl⟩ := Prod.mk.inj hxe
    exact hsub _ (List.mem_filter.1 (mem_of_earliest hx)).1

theorem isSome_advanceTo (s : State) (t gid : Nat) (h : (klookup s.groups gid).isSome = true) : (klookup (s.advanceTo t).groups gid).isSome = true := by
  unfold State.advanceTo
  split
  · exact h
  · refine (isSome_klookup_map (fun e => ?_) gid s.groups).trans h
    split <;> rfl

/-- The group that a quarter picks is there when its turn begins. -/
theorem present_of_pick {s : State} {core q t gid : Nat} {g : Group} (h : s.pick core q = some (t, gid, g)) :
    Present ((s.advanceTo t).actAs (.group gid)) gid :=
  ⟨rfl, isSome_advanceTo s t gid (isSome_klookup_of_mem (mem_of_pick h))⟩

/-! ## Turns -/

/-- An instruction of a group that is there issues. -/
theorem issue_next {s : State} {gid : Nat} (h : Present s gid) (sh : Group → Shape) (hd : Head) (body : Ctx → State → Effect) :
    ∃ t, issue sh hd body s = .next t := by
  obtain ⟨g, hg⟩ := Option.isSome_iff_exists.1 h.group
  simp only [issue, h.cur, hg]
  exact ⟨_, rfl⟩

theorem isSome_deviceParts_of_decodeBytes {bs rest : List Byte} {i : Instr} (h : decodeBytes bs = some (i, rest)) : (deviceParts i).isSome = true := by
  obtain ⟨w, ps, -, rfl, -⟩ := decodeBytes_eq_some h
  rw [deviceParts_decodeDevice]
  rfl

theorem groupTurn_next {s : State} {core q t gid : Nat} {g : Group} (h : s.pick core q = some (t, gid, g)) : ∃ u, s.groupTurn t gid g = .next u := by
  have hp := present_of_pick h
  have hf := steady_fetchGroup ((s.advanceTo t).actAs (.group gid)) gid g
  unfold State.groupTurn
  extract_lets others s1
  split
  · next s2 hw =>
    rw [hw] at hf
    exact issue_next (hp.of_steady hf) _ _ _
  · exact issue_next hp _ _ _
  · exact issue_next hp _ _ _
  · next s2 ws hw =>
    rw [hw] at hf
    split
    · next i rest hd =>
      obtain ⟨sh, hd', body, hi⟩ := exec_eq_issue (isSome_deviceParts_of_decodeBytes hd)
      obtain ⟨u, hu⟩ := issue_next (hp.of_steady hf) sh hd' body
      rw [hi, hu]
      exact ⟨_, rfl⟩
    · exact ⟨_, rfl⟩

theorem quarterTurn_next (s : State) (core q : Nat) : ∃ u, s.quarterTurn core q = .next u := by
  unfold State.quarterTurn
  split
  · next h => exact groupTurn_next h
  · exact ⟨_, rfl⟩

/-- The word of a host core and what its fetch leaves. -/
theorem cur_hostFetch {s s1 : State} {h : Nat} {w : W32} (hf : s.hostFetch h = some (s1, w)) : s1.cur = s.cur := by
  unfold State.hostFetch at hf
  extract_lets pa at hf
  split at hf
  · cases hf; rfl
  split at hf
  · cases hf; rfl
  split at hf
  · cases hf
  · cases hf
    exact (quiet_readAt s _ _ _ _).cur

/-- An outcome that goes on, or is refused for a RISC-V word. -/
def GoesOn (o : Host.Outcome State Fault Refusal) : Prop := (∃ t, o = .next t) ∨ ∃ w, o = .refused (.hostRiscv w)

theorem goesOn_hostWord {s : State} {h : Nat} (hc : s.cur = .host h) (w : W32) : GoesOn (s.hostWord h w) := by
  unfold State.hostWord
  split
  · next i hi => exact .inl (exec_host (by rw [hostBits_of_decodeHost hi]; rfl) hc)
  split
  · exact .inl ⟨_, rfl⟩
  split
  · exact .inl ⟨_, rfl⟩
  · exact .inr ⟨w, rfl⟩

theorem goesOn_hostTurn (s : State) (h : Nat) : GoesOn (s.hostTurn h) := by
  unfold State.hostTurn
  extract_lets c pa s1
  split
  · exact .inl ⟨_, rfl⟩
  split
  · exact .inl ⟨_, rfl⟩
  split
  · next hf => exact goesOn_hostWord (cur_hostFetch hf) _
  · exact .inl ⟨_, rfl⟩

theorem goesOn_runTurn (t : Turn) (s : State) : GoesOn (runTurn t s) := by
  unfold runTurn
  split
  · split
    · next i h =>
      have hev : isEvent i = true := by
        unfold State.mayHappen at h
        simp only [Bool.and_eq_true] at h
        exact h.1.1.1
      exact .inl (exec_event hev _)
    · exact .inl ⟨_, rfl⟩
  · split
    · exact .inl ⟨_, rfl⟩
    · exact .inl (quarterTurn_next s _ _)
  · split
    · exact .inl ⟨_, rfl⟩
    · exact goesOn_hostTurn s _
  · split <;> exact .inl ⟨_, rfl⟩

/-- Settles O43: a group that issues is there, as every fetch keeps the groups and the acting agent; a host core's own words act on it; and events
happen in every state. -/
theorem everyStepIsSafe : Obligations.EveryStepIsSafe := by
  unfold Obligations.EveryStepIsSafe
  intro s
  have h : GoesOn (step s) := goesOn_runTurn _ _
  constructor
  · intro f hf
    obtain ⟨t, ht⟩ | ⟨w, hw⟩ := h
    · rw [ht] at hf; cases hf
    · rw [hw] at hf; cases hf
  · intro r hr
    obtain ⟨t, ht⟩ | ⟨w, hw⟩ := h
    · rw [ht] at hr; cases hr
    · rw [hw] at hr; cases hr; exact ⟨w, rfl⟩

end Sys2Proof
end

section
/-!
SUPPORT. Every operation keeps the canonical form of memory: how instructions issue and trap, boot and reset.
-/

namespace Sys2Proof

open Machine

/-! ## States, effects and outcomes -/

theorem canon_ite {c : Prop} [Decidable c] {a b : State} (ha : MemoryCanonical a) (hb : MemoryCanonical b) : MemoryCanonical (if c then a else b) := by
  split <;> assumption

theorem canon_foldl {α : Type} {f : State → α → State} (hf : ∀ s x, MemoryCanonical s → MemoryCanonical (f s x)) :
    ∀ (xs : List α) {s : State}, MemoryCanonical s → MemoryCanonical (xs.foldl f s)
  | [], _, h => h
  | x :: xs, _, h => canon_foldl hf xs (hf _ x h)

theorem Quiet.canon {s t : State} (h : Quiet s t) : MemoryCanonical s → MemoryCanonical t := h.steady.canon

theorem canon_of_mem {s t : State} (hm : t.mem = s.mem) (h : MemoryCanonical s) : MemoryCanonical t :=
  canonical_of_bytes (congrArg Mem.bytes hm) h

/-- The state that an effect carries is canonical. -/
def CanonEffect : Effect → Prop
  | .done t => MemoryCanonical t
  | .jump t _ => MemoryCanonical t
  | .after t _ _ => MemoryCanonical t
  | .block t _ => MemoryCanonical t
  | .stop t => MemoryCanonical t
  | _ => True

theorem canonEffect_ite {c : Prop} [Decidable c] {a b : Effect} (ha : CanonEffect a) (hb : CanonEffect b) : CanonEffect (if c then a else b) := by
  split <;> assumption

/-- The next state of an outcome is canonical. -/
def CanonNext (o : Host.Outcome State Fault Refusal) : Prop := ∀ t, o = .next t → MemoryCanonical t

theorem canonNext {s : State} (h : MemoryCanonical s) : CanonNext (.next s) := fun _ ht => Host.Outcome.next.inj ht ▸ h

theorem canonNext_fault (f : Fault) : CanonNext (.fault f) := by
  intro t ht
  cases ht

theorem canonNext_ite {c : Prop} [Decidable c] {a b : Host.Outcome State Fault Refusal} (ha : CanonNext a) (hb : CanonNext b) :
    CanonNext (if c then a else b) := by
  split <;> assumption

variable {s : State}

/-! ## Issue -/

theorem canon_takeTrap (h : MemoryCanonical s) (gid : Nat) (tr : Trap) : MemoryCanonical (s.takeTrap gid tr) := canon_of_mem (takeTrap_mem s gid tr) h

theorem canon_dropSent (h : MemoryCanonical s) (gid : Nat) (g : Group) : MemoryCanonical (s.dropSent gid g) := by
  unfold State.dropSent
  split <;> exact h

theorem canon_trapAt (h : MemoryCanonical s) (gid : Nat) (g : Group) (cause : Nat) (lanes : List (Nat × W64)) :
    MemoryCanonical (trapAt s gid g cause lanes) := canon_takeTrap (canon_dropSent h gid g) gid _

theorem canon_failOrRestart (h : MemoryCanonical s) (gid : Nat) (g : Group) (asid : Nat) {fail : State → State}
    (hf : ∀ u, MemoryCanonical u → MemoryCanonical (fail u)) : MemoryCanonical (failOrRestart s gid g asid fail) :=
  canon_ite (hf s h) (canon_ite h (canon_ite (hf (s.modGroup gid Group.endRegion) h) h))

theorem canon_settle (h : MemoryCanonical s) (sh : Shape) (c : Ctx) (g : Group) {e : Effect} (he : CanonEffect e) :
    MemoryCanonical (settle sh c g s e) := by
  cases e with
  | done t => exact he
  | jump t pc => exact he
  | trap cause lanes => exact canon_trapAt h c.gid g cause lanes
  | poison lanes =>
    exact canon_failOrRestart h c.gid _ _ fun u hu => canon_trapAt (s := u.modGroup c.gid fun g => { g with poisPend := [] }) hu c.gid g cPoison lanes
  | after t cause lanes => exact canon_ite (canon_trapAt h c.gid g cause lanes) (canon_takeTrap (s := t.modGroup c.gid _) he c.gid _)
  | retry => exact h
  | block t w => exact he
  | stop t => exact he

theorem canonEffect_causeFirst (causes : List Nat) (e : Effect) {e' : Effect} (h : CanonEffect e') : CanonEffect (causeFirst causes e e') := by
  unfold causeFirst
  split
  · exact canonEffect_ite trivial h
  · exact h

theorem canonEffect_effectIn (sh : Shape) (c : Ctx) {body : Ctx → State → Effect} (hb : CanonEffect (body c s)) :
    CanonEffect (effectIn sh c s body) := by
  unfold effectIn
  split
  · exact canonEffect_causeFirst _ _ trivial
  · split
    · exact canonEffect_causeFirst _ _ trivial
    · exact hb

theorem canonEffect_effectOf (sh : Shape) (gid : Nat) (g : Group) (hd : Head) {body : Ctx → State → Effect} (hb : ∀ c, CanonEffect (body c s)) :
    CanonEffect (effectOf sh gid g hd s body).2 := by
  have hpriv : CanonEffect (privEffect sh gid g hd s body).2 := by
    unfold privEffect
    dsimp only
    split
    · trivial
    split
    · trivial
    split
    · trivial
    · exact canonEffect_causeFirst _ _ trivial
  have hstall : ∀ (c : Ctx) ps, CanonEffect (stallEffect sh c s body ps) := fun c ps =>
    canonEffect_ite trivial (canonEffect_causeFirst _ _ trivial)
  unfold effectOf
  dsimp only
  split
  · trivial
  split
  · trivial
  split
  · trivial
  split
  · trivial
  split
  · trivial
  split
  · exact hpriv
  split
  · trivial
  split
  · exact canonEffect_effectIn sh _ (hb _)
  split
  · exact canonEffect_effectIn sh _ (hb _)
  split
  · split
    · exact hstall _ _
    · exact canonEffect_effectIn sh _ (hb _)
  · exact canonEffect_effectIn sh _ (hb _)

/-- An instruction keeps memory canonical where its own effect does. -/
theorem canon_issue (h : MemoryCanonical s) {sh : Group → Shape} {hd : Head} {body : Ctx → State → Effect} (hb : ∀ c, CanonEffect (body c s)) :
    CanonNext (issue sh hd body s) := by
  have hdrop : ∀ gid g, MemoryCanonical (dropPending s gid g) := fun gid g => canon_of_mem (OnlyGroup.mem_eq (dropPending_only s gid g)) h
  unfold issue
  split
  · next gid _ =>
    split
    · next g _ =>
      have he := canonEffect_effectOf (sh g) gid g hd hb
      dsimp only
      revert he
      generalize effectOf (sh g) gid g hd s body = r
      intro he
      exact canonNext (canon_settle (hdrop gid g) (sh g) r.1 g he)
    · exact canonNext_fault _
  · exact canonNext_fault _

/-- Instructions of their own group. -/
theorem canon_ownGroup {i : Instr} (hi : OwnGroup i) (h : MemoryCanonical s) : CanonNext (exec i s) := by
  obtain ⟨sh, hd, body, hx, hb⟩ := hi
  rw [hx]
  refine canon_issue h fun c => ?_
  have heff := hb c s
  cases he : body c s with
  | trap | poison | retry => trivial
  | _ => rw [he] at heff; exact canon_of_mem (OnlyGroup.mem_eq heff) h

/-! ## Reset and boot -/

/-- A table of which some values change and some entries leave stays sorted. -/
theorem kabove_filter_map {β : Type} (f : Nat × β → β) (p : Nat × β → Bool) : ∀ {m : KMap β} {lo : Nat}, kabove lo m = true →
    kabove lo ((m.map fun e => (e.1, f e)).filter p) = true
  | [], _, h => h
  | (a, v) :: r, lo, h => by
    simp only [kabove, Bool.and_eq_true, decide_eq_true_eq] at h
    obtain ⟨hlo, hr⟩ := h
    rw [List.map_cons, List.filter_cons]
    split
    · simp only [kabove, Bool.and_eq_true, decide_eq_true_eq]
      exact ⟨hlo, kabove_filter_map f p hr⟩
    · exact kabove_mono (by omega) (kabove_filter_map f p hr)

theorem wf_freeBytes (n : Nat) {m : KMap Byte} (h : Memory.wf m = true) : Memory.wf (freeBytes n m) = true := by
  unfold Memory.wf kcanon at h ⊢
  rw [Bool.and_eq_true] at h ⊢
  refine ⟨kabove_filter_map (fun e => (Config.freeWord n e.1).setWidth 8) _ h.1, List.all_eq_true.2 fun e he => ?_⟩
  exact decide_eq_true (bne_iff_ne.1 (List.mem_filter.1 he).2)

theorem canon_coldReset (h : MemoryCanonical s) : MemoryCanonical s.coldReset := wf_freeBytes s.free h
theorem canon_resetDies (h : MemoryCanonical s) : MemoryCanonical s.resetDies := wf_freeBytes s.free h

theorem canon_firstStage (h : MemoryCanonical s) (ilsize : Nat) : MemoryCanonical (s.firstStage ilsize) := by
  unfold State.firstStage
  refine canon_foldl (fun u x hu => ?_) _ h
  exact hu

theorem canon_startHosts (h : MemoryCanonical s) : MemoryCanonical s.startHosts := by
  unfold State.startHosts
  refine canon_foldl (fun u x hu => ?_) _ h
  exact hu

theorem canon_startService (h : MemoryCanonical s) : MemoryCanonical s.startService := by
  unfold State.startService
  refine canon_foldl (fun u x hu => ?_) _ h
  exact hu

theorem canon_runStage (h : MemoryCanonical s) (img : BootImage) : MemoryCanonical (s.runStage img) := by
  have hload : MemoryCanonical (s.loadImage img) := writeRun_canonical h _ _ _ _
  unfold State.runStage
  split
  · exact canon_firstStage h _
  · exact canon_startHosts hload
  · exact canon_startService hload

theorem canon_bootImage (h : MemoryCanonical s) (img : BootImage) : MemoryCanonical (s.bootImage img) := by
  unfold State.bootImage
  refine canon_ite (canon_resetDies (s := s.xlog _) h) (canon_runStage ?_ img)
  exact h

theorem canon_execBootStage (h : MemoryCanonical s) (img : BootImage) : CanonNext (execBootStage img s) :=
  canonNext_ite (canonNext h) (canonNext_ite (canonNext (canon_bootImage h img)) (canonNext_ite (canonNext h) (canonNext h)))

theorem canon_execMailboxImage (h : MemoryCanonical s) (img : BootImage) : CanonNext (execMailboxImage img s) :=
  canonNext (canon_ite (canon_bootImage h img) h)

theorem canon_execClockStepDown (h : MemoryCanonical s) : CanonNext (execClockStepDown s) := canonNext_ite (canonNext h) (canonNext h)
theorem canon_execClockStepUp (h : MemoryCanonical s) : CanonNext (execClockStepUp s) := canonNext_ite (canonNext h) (canonNext h)

/-! ## Lanes, deposits and the end of traps -/

theorem canon_doubleTrap (h : MemoryCanonical s) (gid : Nat) (g : Group) (asid : Nat) : MemoryCanonical (s.doubleTrap gid g asid) :=
  canon_of_mem (doubleTrap_mem s gid g asid) h

theorem canon_txSettle (h : MemoryCanonical s) (gid : Nat) : MemoryCanonical (s.txSettle gid) := by
  unfold State.txSettle
  split
  · exact h
  · exact canon_ite (canon_ite h h) (canon_ite h h)

theorem canon_returnTrap (h : MemoryCanonical s) (gid : Nat) (g : Group) : MemoryCanonical (s.returnTrap gid g) :=
  canon_ite (canon_doubleTrap h gid g _) h

theorem canon_execExit (h : MemoryCanonical s) (hd : Head) : CanonNext (execExit hd s) := by
  refine canon_issue h fun c => ?_
  refine canonEffect_ite h ?_
  extract_lets n s0 s1
  have h1 : MemoryCanonical s1 := canon_txSettle (s := s0.modGroup c.gid _) h c.gid
  split
  · exact canonEffect_ite (canon_returnTrap h1 _ _) h1
  · exact h1

theorem canon_landLanes (h : MemoryCanonical s) (d : Deposit) (vals : KMap W32) : MemoryCanonical (s.landLanes d vals) := by
  unfold State.landLanes
  split
  · exact h
  · exact canon_ite h h

theorem canon_deliver (h : MemoryCanonical s) (k : Nat) (d : Deposit) : MemoryCanonical (s.deliver k d) :=
  canon_landLanes (s := s.delOp k) h d d.vals

theorem canon_execRwr (h : MemoryCanonical s) (hd : Head) : CanonNext (execRwr hd s) := by
  refine canon_issue h fun c => canonEffect_ite h ?_
  split
  · exact canonEffect_ite trivial h
  · trivial

theorem canon_execRemoteDepositArrive (h : MemoryCanonical s) (dep : Nat) : CanonNext (execRemoteDepositArrive dep s) := by
  unfold execRemoteDepositArrive
  split
  · exact canonNext (canon_ite h (canon_deliver h _ _))
  · exact canonNext h

theorem canon_execAwaitSatisfied (h : MemoryCanonical s) (gid : Nat) : CanonNext (execAwaitSatisfied gid s) := by
  unfold execAwaitSatisfied
  split
  · split
    · exact canonNext_ite (canonNext h) (canonNext h)
    · exact canonNext h
  · exact canonNext h

end Sys2Proof
end

section
/-!
SUPPORT. Every operation keeps the canonical form of memory: walks, faults, loads, stores, prefetch and cache maintenance.
-/

namespace Sys2Proof

open Machine

theorem canon_foldl_fst {α β : Type} {f : State × β → α → State × β} (hf : ∀ r x, MemoryCanonical r.1 → MemoryCanonical (f r x).1) :
    ∀ (xs : List α) {r : State × β}, MemoryCanonical r.1 → MemoryCanonical (xs.foldl f r).1
  | [], _, h => h
  | x :: xs, _, h => canon_foldl_fst hf xs (hf _ x h)

variable {s : State}

/-! ## Walks and faults -/

theorem canon_askTables (h : MemoryCanonical s) (m : Mmu) (asid va : Nat) : MemoryCanonical (s.askTables m asid va) := (quiet_askTables s m asid va).canon h
theorem canon_touchWalk (h : MemoryCanonical s) (m : Mmu) (asid va : Nat) : MemoryCanonical (s.touchWalk m asid va) := (quiet_touchWalk s m asid va).canon h
theorem canon_useEntry (h : MemoryCanonical s) (m : Mmu) (asid va : Nat) (u : Use) : MemoryCanonical (s.useEntry m asid va u) :=
  (steady_useEntry s m asid va u).canon h
theorem canon_fillSector (h : MemoryCanonical s) (sec slot asid : Nat) : MemoryCanonical (s.fillSector sec slot asid) :=
  (quiet_fillSector s sec slot asid).canon h

theorem canon_askPieces (h : MemoryCanonical s) (m : Mmu) (g : Group) (ps : List (Nat × Nat)) :
    MemoryCanonical (ps.foldl (fun s p => s.askTables m (s.asidOf g) p.1) s) :=
  canon_foldl (fun _ _ hu => canon_askTables hu _ _ _) ps h

theorem canonEffect_waitLooks (h : MemoryCanonical s) (c : Ctx) (looks : List LaneLook) (txs : List (Nat × W64 × TxLook)) :
    CanonEffect (waitLooks c s looks txs) := canon_askPieces h _ _ _

theorem canon_touchLooks (h : MemoryCanonical s) (core asid : Nat) (hs : List LaneLook) : MemoryCanonical (s.touchLooks core asid hs) := by
  unfold State.touchLooks
  exact canon_foldl (fun _ _ hu => canon_touchWalk hu _ _ _) _ h

theorem canon_noteLooks (h : MemoryCanonical s) (core asid : Nat) (hs : List LaneLook) : MemoryCanonical (s.noteLooks core asid hs) := by
  unfold State.noteLooks
  refine canon_foldl (fun _ _ hu => canon_fillSector hu _ _ _) _ (canon_foldl (fun u _ hu => ?_) _ (canon_touchLooks h core asid hs))
  exact hu

theorem canonEffect_causeEffect (h : MemoryCanonical s) (c : Ctx) (cause : Nat) (hs : List LaneLook) : CanonEffect (causeEffect c s cause hs) :=
  canonEffect_ite trivial (canon_trapAt (canon_noteLooks h _ _ _) _ _ _ _)

theorem canon_walkerPut (h : MemoryCanonical s) (asid pa : Nat) (bs : List Byte) : MemoryCanonical (s.walkerPut asid pa bs) :=
  (steady_walkerPut s asid pa bs).canon h

theorem canon_parkFault (h : MemoryCanonical s) (die asid src kind level page pages : Nat) :
    MemoryCanonical (s.parkFault die asid src kind level page pages) := by
  unfold State.parkFault
  refine canon_ite h ?_
  extract_lets _ r room m s1 s2
  have h1 : MemoryCanonical s1 := canon_ite h h
  exact canon_ite h1 (canon_walkerPut h1 0 _ _)

theorem canon_parkFaults (h : MemoryCanonical s) {f : State → Nat × Nat × Nat → State}
    (hf : ∀ u m, ∃ die asid src kind, f u m = u.parkFault die asid src kind m.1 m.2.1 m.2.2) (ms : List (Nat × Nat × Nat)) :
    MemoryCanonical (ms.foldl f s) :=
  canon_foldl (fun u m hu => by
    obtain ⟨die, asid, src, kind, hm⟩ := hf u m
    rw [hm]
    exact canon_parkFault hu _ _ _ _ _ _ _) ms h

theorem canon_parkLooks (h : MemoryCanonical s) (g : Group) (u : Use) (ls : List LaneLook) : MemoryCanonical (s.parkLooks g u ls) := by
  unfold State.parkLooks
  exact canon_parkFaults (canon_touchLooks h _ _ _) (fun _ _ => ⟨_, _, _, _, rfl⟩) _

theorem canonEffect_parkWhole (h : MemoryCanonical s) (c : Ctx) (u : Use) (ls : List LaneLook) : CanonEffect (parkWhole c s u ls) :=
  canon_parkLooks h c.g u ls

/-! ## Transactional accesses -/

theorem canon_addReqs (h : MemoryCanonical s) {f : State → Nat × Nat → State} (hf : ∀ u x, ∃ core asid op, f u x = u.addReq core asid op x)
    (xs : List (Nat × Nat)) : MemoryCanonical (xs.foldl f s) :=
  canon_foldl (fun u x hu => by
    obtain ⟨core, asid, op, hx⟩ := hf u x
    rw [hx]
    exact hu) xs h

theorem canon_txAdmit (h : MemoryCanonical s) (gid : Nat) (g : Group) (txs : List (Nat × W64 × TxLook)) :
    (∀ t, (s.txAdmit gid g txs).1 = some t → MemoryCanonical t) ∧ MemoryCanonical (s.txAdmit gid g txs).2 := by
  have hnone : ∀ t : State, none = some t → MemoryCanonical t := fun t ht => by cases ht
  unfold State.txAdmit
  extract_lets secs
  split
  · split
    · exact ⟨hnone, h⟩
    · exact ⟨fun _ ht => Option.some.inj ht ▸ h, h⟩
  · split
    · exact ⟨hnone, canon_addReqs (s := ({ s with nextOp := s.nextOp + 1 } : State).modGroup gid _) h (fun _ _ => ⟨_, _, _, rfl⟩) _⟩
    · exact ⟨fun _ ht => Option.some.inj ht ▸ h, h⟩

theorem canon_txDoom (h : MemoryCanonical s) (gid lane : Nat) (g : Group) (u : Use) (asid cause : Nat) (key : Bool) (miss : List (Nat × Nat × Nat))
    (pieces : List (Nat × Nat)) (va : W64) : MemoryCanonical (s.txDoom gid lane g u asid cause key miss pieces va) := by
  unfold State.txDoom
  extract_lets s1 s2 s3
  have h1 : MemoryCanonical s1 := canon_foldl (fun _ _ hu => canon_touchWalk hu _ _ _) pieces h
  have h2 : MemoryCanonical s2 := canon_ite h1 h1
  exact canon_parkFaults h2 (fun _ _ => ⟨_, _, _, _, rfl⟩) miss

theorem canon_readAt (h : MemoryCanonical s) (who : Agent) (pa n slot : Nat) : MemoryCanonical (s.readAt who pa n slot).1 :=
  (quiet_readAt s who pa n slot).canon h

theorem canon_txLog (h : MemoryCanonical s) (gid lane asid slot gr : Nat) (va : W64) : MemoryCanonical (s.txLog gid lane asid slot gr va) := by
  have hread : ∀ who, MemoryCanonical (s.readAt who (gr * 8) 8 slot).1 := fun who => canon_readAt h who _ _ _
  unfold State.txLog
  split
  · exact h
  · exact canon_ite h (canon_ite h (canon_ite (hread _) (hread _)))

theorem canon_txLoad (h : MemoryCanonical s) (gid lane asid : Nat) (va : W64) (chunks : List Chunk) :
    MemoryCanonical (s.txLoad gid lane asid va chunks).1 := by
  unfold State.txLoad
  extract_lets cells tx priv need s1 t
  have h1 : MemoryCanonical s1 := canon_foldl (fun _ _ hu => canon_txLog hu _ _ _ _ _ _) need h
  split <;> exact h1

theorem canon_usePieces (h : MemoryCanonical s) (m : Mmu) (asid : State → Nat) (u : Use) (ps : List (Nat × Nat)) :
    MemoryCanonical (ps.foldl (fun s p => s.useEntry m (asid s) p.1 u) s) :=
  canon_foldl (fun _ _ hu => canon_useEntry hu _ _ _ _) ps h

theorem canon_txLoads (h : MemoryCanonical s) (c : Ctx) (asid : Nat) (ls : List (Nat × W64 × TxLook)) : MemoryCanonical (s.txLoads c asid ls).1 := by
  unfold State.txLoads
  refine canon_foldl_fst (fun r e hr => ?_) ls h
  split
  · exact canon_txDoom hr _ _ _ _ _ _ _ _ _ _
  · exact canon_txLoad (canon_usePieces hr _ (fun _ => asid) _ _) _ _ _ _ _
  · exact hr

theorem canon_txStore (h : MemoryCanonical s) (gid lane : Nat) (chunks : List Chunk) (bs : List Byte) : MemoryCanonical (s.txStore gid lane chunks bs) := by
  unfold State.txStore
  split
  · exact h
  · exact canon_ite h (canon_ite h h)

theorem canon_txStores (h : MemoryCanonical s) (c : Ctx) (asid : Nat) (ls : List (Nat × W64 × TxLook)) (data : Nat → List Byte) :
    MemoryCanonical (s.txStores c asid ls data) := by
  unfold State.txStores
  refine canon_foldl (fun u e hu => ?_) ls h
  split
  · exact canon_txDoom hu _ _ _ _ _ _ _ _ _ _
  · exact canon_txStore (canon_usePieces hu _ (fun _ => asid) _ _) _ _ _ _
  · exact hu

/-! ## Loads issue -/

theorem canon_useLooks (h : MemoryCanonical s) (g : Group) (u : Use) (ls : List LaneLook) : MemoryCanonical (s.usePieces g u ls) := by
  unfold State.usePieces
  exact canon_usePieces h _ (fun s => s.asidOf g) u _

theorem canon_sendGather (h : MemoryCanonical s) (g : Group) (scope : Nat) (ready : List LaneLook) : MemoryCanonical (s.sendGather g scope ready).1 := by
  unfold State.sendGather
  refine canon_foldl (fun u w hu => ?_) _ h
  exact hu

theorem canon_postLoad (h : MemoryCanonical s) (c : Ctx) (L : Load) (items : List Item) : MemoryCanonical (s.postLoad c L items).1 := by
  unfold State.postLoad
  extract_lets op s1 s2
  have h2 : MemoryCanonical s2 := h
  exact canon_addReqs h2 (fun _ _ => ⟨_, _, _, rfl⟩) _

theorem canonEffect_loadGo (h : MemoryCanonical s) (c : Ctx) (looks : List LaneLook) (txs : List (Nat × W64 × TxLook)) (size scope : Nat)
    (scal : Option Nat) (cvt : Option W32) (acq : Bool) (items : List Item) : CanonEffect (loadGo c s looks txs size scope scal cvt acq items) := by
  obtain ⟨hsome, hrest⟩ := canon_txAdmit h c.gid c.g txs
  unfold loadGo
  extract_lets asid ready
  split
  · next u hu => rw [hu] at hrest; exact hrest
  · next u v hu =>
    have hu' : MemoryCanonical u := hsome u (congrArg Prod.fst hu)
    split
    next s1 vals hv =>
    have h1 : MemoryCanonical s1 := by
      have := canon_txLoads hu' c asid txs
      rwa [hv] at this
    extract_lets s2 done xs
    have h2 : MemoryCanonical s2 := canon_useLooks h1 c.g .read ready
    split
    next s3 gather hg =>
    have h3 : MemoryCanonical s3 := by
      have : MemoryCanonical (if scal.isSome then (s2, []) else s2.sendGather c.g scope ready).1 := by
        split
        · exact h2
        · exact canon_sendGather h2 _ _ _
      rwa [hg] at this
    extract_lets L
    refine canonEffect_ite h3 ?_
    split
    next s4 op hp =>
    have h4 : MemoryCanonical s4 := by
      have := canon_postLoad h3 c L items
      rwa [hp] at this
    exact canonEffect_ite (canon_parkLooks h4 _ _ _) h4

theorem canon_execLd (h : MemoryCanonical s) (hd : Head) : CanonNext (execLd hd s) := by
  refine canon_issue h fun c => ?_
  extract_lets cvt asid off n ask va look looks txs first
  refine canonEffect_ite h (canonEffect_ite ?_ ?_)
  · exact canonEffect_waitLooks (canon_foldl (fun _ _ hu => canon_askTables hu _ _ _) first h) _ _ _
  · split
    · exact canonEffect_causeEffect h _ _ _
    · exact canonEffect_ite (canonEffect_parkWhole h _ _ _) (canonEffect_loadGo h _ _ _ _ _ _ _ _ _)

theorem canon_execLdu (h : MemoryCanonical s) (hd : Head) : CanonNext (execLdu hd s) := by
  refine canon_issue h fun c => ?_
  extract_lets asid n va ask lk txs looks
  refine canonEffect_ite h (canonEffect_ite (canonEffect_waitLooks h _ _ _) ?_)
  split
  · exact canonEffect_causeEffect h _ _ _
  · exact canonEffect_loadGo h _ _ _ _ _ _ _ _ _

/-! ## Stores issue -/

theorem canon_queueStores (h : MemoryCanonical s) (gid : Nat) (es : List (List Nat × W64 × List Chunk × List Byte)) (colour scope : Nat) (rel : Bool)
    (rem : Option W64) : MemoryCanonical (s.queueStores gid es colour scope rel rem) := by
  unfold State.queueStores
  extract_lets whole age qs _ s1 reqs
  have h1 : MemoryCanonical s1 := h
  split
  · exact canon_addReqs h1 (fun _ _ => ⟨_, _, _, rfl⟩) _
  · exact h1

theorem canonEffect_storeGo (h : MemoryCanonical s) (c : Ctx) (looks : List LaneLook) (txs : List (Nat × W64 × TxLook)) (data : Nat → List Byte)
    (entry : LaneLook → List Nat) (hset : LaneLook → List LaneLook) : CanonEffect (storeGo c s looks txs data entry hset) := by
  unfold storeGo
  refine canonEffect_ite (canonEffect_waitLooks h _ _ _) ?_
  split
  · exact canonEffect_causeEffect h _ _ _
  · exact canonEffect_ite (canonEffect_parkWhole h _ _ _) (canon_queueStores (canon_useLooks (canon_txStores h _ _ _ _) _ _ _) _ _ _ _ _ _)

theorem canon_execSt (h : MemoryCanonical s) (hd : Head) : CanonNext (execSt hd s) :=
  canon_issue h fun _ => canonEffect_ite h (canonEffect_storeGo h _ _ _ _ _ _)

theorem canon_execStu (h : MemoryCanonical s) (hd : Head) : CanonNext (execStu hd s) :=
  canon_issue h fun _ => canonEffect_ite h (canonEffect_storeGo h _ _ _ _ _ _)

/-! ## Stores go to their homes -/

theorem canon_storeHome {rest : State} (h : MemoryCanonical s) (hr : MemoryCanonical rest) (gid : Nat) (g : Group) (q : QStore) (pa : Nat) :
    MemoryCanonical (s.storeHome gid g q pa rest) := by
  unfold State.storeHome
  extract_lets who sec keep bs s1
  have h1 : MemoryCanonical s1 := canon_ite (writeAt_canonical (s := s.setGroup gid _) h _ _ _ _ _) (writeAt_canonical hr _ _ _ _ _)
  exact h1

theorem canon_request (h : MemoryCanonical s) {p : Packet} {kind : OutKind} {prefer : Option Nat} {r : State × Nat}
    (hr : s.request p kind prefer = some r) : MemoryCanonical r.1 := (quiet_request s hr).canon h

theorem canon_drainAt (h : MemoryCanonical s) (gid k : Nat) : MemoryCanonical (s.drainAt gid k) := by
  unfold State.drainAt
  split
  · exact h
  split
  · exact h
  refine canon_ite h ?_
  extract_lets g rest
  have hrest : MemoryCanonical rest := h
  split
  · exact hrest
  · refine canon_ite (canon_ite hrest ?_) (canon_ite h (canon_ite ((quiet_devWrite rest _ _).canon hrest) (canon_storeHome h hrest _ _ _ _)))
    split
    · next hr => exact canon_request h hr
    · exact h

theorem canon_nearAt (h : MemoryCanonical s) (gid k : Nat) : MemoryCanonical (s.nearAt gid k) := by
  unfold State.nearAt
  split
  · exact h
  split
  · exact h
  · exact canon_ite (canon_drainAt h _ _) (canon_ite h h)

theorem canon_drainSome (h : MemoryCanonical s) (gid scope : Nat) (p : QStore → Bool) : MemoryCanonical (s.drainSome gid scope p) := by
  unfold State.drainSome
  split
  · exact h
  refine canon_foldl (fun u a hu => ?_) _ h
  split
  · exact canon_ite (canon_nearAt hu _ _) (canon_drainAt hu _ _)
  · exact hu

/-! ## Loads are performed -/

theorem canon_leaveL1 (h : MemoryCanonical s) (core asid line : Nat) : MemoryCanonical (s.leaveL1 core asid line) :=
  canonical_of_bytes (leaveL1_bytes s core asid line) h
theorem canon_l1Put (h : MemoryCanonical s) (asid : Nat) (x : L1Line) : MemoryCanonical (s.l1Put asid x) := canonical_of_bytes (l1Put_bytes s asid x) h
theorem canon_l1Fill (h : MemoryCanonical s) (core asid line slot : Nat) : MemoryCanonical (s.l1Fill core asid line slot) :=
  canonical_of_bytes (l1Fill_bytes s core asid line slot) h
theorem canon_touch (h : MemoryCanonical s) (who : Agent) (pa n : Nat) (write : Bool) : MemoryCanonical (s.touch who pa n write) :=
  (quiet_touch s who pa n write).canon h

theorem canon_readChunk (h : MemoryCanonical s) (g : Group) (gid scope : Nat) (gather : Bool) (c : Chunk) :
    MemoryCanonical (s.readChunk g gid scope gather c).1 := by
  unfold State.readChunk
  extract_lets asid
  split
  · split <;> exact h
  split
  · exact h
  split
  · exact h
  extract_lets look s0 s1
  split
  · have h0 : MemoryCanonical s0 := h
    exact canon_touch h0 _ _ _ _
  · split
    next s1 bs hr =>
    have h1 : MemoryCanonical s1 := by
      exact (congrArg (fun r => MemoryCanonical r.1) hr).mp (canon_readAt h _ _ _ _)
    extract_lets s2
    have h2 : MemoryCanonical s2 := h1
    split
    · exact h2
    · exact canon_l1Fill h2 _ _ _ _

theorem canon_peerHit (h : MemoryCanonical s) (g : Group) (scope slot pa : Nat) {r : State × List Byte}
    (hr : s.peerHit g scope slot pa = some r) : MemoryCanonical r.1 := by
  unfold State.peerHit at hr
  extract_lets asid at hr
  split at hr
  · cases hr
  split at hr
  · cases hr; exact h
  split at hr
  · split at hr
    · cases hr; exact canon_l1Put (s := s.countCore _ _ _ _) h _ _
    · cases hr
  · cases hr

theorem canon_askSlice (h : MemoryCanonical s) (g : Group) (op scope lane : Nat) (c : Chunk) : MemoryCanonical (s.askSlice g op scope lane c) := by
  unfold State.askSlice
  split
  · exact canon_ite h h
  · exact h

theorem canon_stepChunk (h : MemoryCanonical s) (op : Nat) (L : Load) (g : Group) (x : LoadLane) (k : Nat) (c : Chunk) :
    MemoryCanonical (s.stepChunk op L g x k c).1 := by
  unfold State.stepChunk
  extract_lets read s1
  have hread : ∀ u gather, MemoryCanonical u → MemoryCanonical (read u gather).1 := by
    intro u gather hu
    have hc := canon_readChunk hu g L.gid L.scope gather c
    exact canon_ite (canon_ite hc hc) (canon_ite hc hc)
  clear_value read
  have h1 : MemoryCanonical s1 := canon_askSlice h _ _ _ _ _
  split
  · exact h
  split
  · exact h1
  split
  · split
    · split
      · next hp => exact canon_peerHit h1 _ _ _ _ hp
      · split
        · exact h1
        split
        · exact h1
        · split
          split
          · next hr => exact canon_request h1 hr
          · exact h1
    · exact hread _ _ h1
  · exact hread _ _ h1

theorem canon_performLane (h : MemoryCanonical s) (op lane : Nat) : MemoryCanonical (s.performLane op lane) := by
  unfold State.performLane
  split
  · split
    · extract_lets s1
      have h1 : MemoryCanonical s1 := canon_drainSome h _ _ _
      split
      · refine canon_ite h1 ?_
        exact canon_foldl_fst (fun r e hr => canon_stepChunk hr _ _ _ _ _ _) _ h1
      · exact h1
    · exact h
  · exact h

theorem canon_setOp (h : MemoryCanonical s) (k : Nat) (o : Op) : MemoryCanonical (s.setOp k o) := h

theorem canon_reissueLoad (h : MemoryCanonical s) (gid op : Nat) : MemoryCanonical (s.reissueLoad gid op) := by
  unfold State.reissueLoad
  split
  · next g L _ _ =>
    extract_lets asid looks ready s1 xs
    refine canon_ite (canon_setOp (canon_foldl (fun _ _ hu => canon_askTables hu _ _ _) _ h) _ _) ?_
    split
    · next hs _ =>
      extract_lets lanes s2 s3
      have h2 : MemoryCanonical s2 := canon_noteLooks h _ _ _
      have h3 : MemoryCanonical s3 := h2
      exact canon_trapAt h3 _ _ _ _
    · have h1 : MemoryCanonical s1 := canon_useLooks h _ _ _
      split
      next s2 more hg =>
      have h2 : MemoryCanonical s2 := by
        have : ∀ rs, MemoryCanonical (if L.scal.isSome then (s1, []) else s1.sendGather g L.scope rs).1 := fun rs => by
          split
          · exact h1
          · exact canon_sendGather h1 _ _ _
        have h := this (ready.filter fun y => !(L.lanes.any fun x => x.lane == y.lane && !x.chunks.isEmpty))
        rwa [hg] at h
      extract_lets s3 s4
      have h3 : MemoryCanonical s3 := canon_parkLooks (canon_setOp h2 _ _) _ _ _
      have h4 : MemoryCanonical s4 := canon_foldl (fun _ _ hu => canon_askSlice hu _ _ _ _ _) _ h3
      exact canon_ite h4 h4
  · exact h

theorem canon_latePoison (h : MemoryCanonical s) (gid : Nat) (lanes : List (Nat × W64)) : MemoryCanonical (s.latePoison gid lanes) := canon_ite h h

theorem canon_seeOthers (h : MemoryCanonical s) (gid scope : Nat) (acq : Bool) : MemoryCanonical (s.seeOthers gid scope acq) := by
  unfold State.seeOthers
  split
  · exact canon_ite h h
  · exact h

theorem canon_finishLoad (h : MemoryCanonical s) (op : Nat) (L : Load) : MemoryCanonical (s.finishLoad op L) := by
  unfold State.finishLoad
  extract_lets s1 s2 s3
  have h2 : MemoryCanonical s2 := h
  exact canon_seeOthers (canon_ite h2 (canon_latePoison h2 _ _)) _ _ _

theorem canon_execLoadDataReturn (h : MemoryCanonical s) (load : Nat) : CanonNext (execLoadDataReturn load s) := by
  unfold execLoadDataReturn
  split
  · extract_lets s0 s1
    have h1 : MemoryCanonical s1 := canon_foldl (fun _ _ hu => canon_performLane hu _ _) _ (canon_ite (canon_reissueLoad h _ _) h)
    split
    · exact canonNext (canon_ite (canon_finishLoad h1 _ _) h1)
    · exact canonNext h1
  · exact canonNext h

/-! ## Prefetch and cache maintenance -/

theorem canon_prefetch (h : MemoryCanonical s) (gid core asid pa slot : Nat) (l1 : Bool) : MemoryCanonical (s.prefetch gid core asid pa slot l1) := by
  unfold State.prefetch
  have hf : MemoryCanonical (s.fillSector (sectorOf pa) slot asid) := canon_fillSector h _ _ _
  exact canon_ite (canon_ite (canon_l1Fill hf _ _ _ _) hf) h

theorem canon_execPref (h : MemoryCanonical s) (hd : Head) : CanonNext (execPref hd s) := by
  refine canon_issue h fun c => ?_
  refine canon_foldl (fun u l hu => ?_) _ h
  dsimp only
  split
  · split
    · exact canon_ite hu (canon_prefetch hu _ _ _ _ _ _)
    · exact hu
  · exact hu

theorem canonEffect_outsideTx (h : MemoryCanonical s) {body : Ctx → State → Effect} (hb : ∀ c u, MemoryCanonical u → CanonEffect (body c u)) (c : Ctx) :
    CanonEffect (outsideTx body c s) := by
  unfold outsideTx
  split
  · exact hb c s h
  · refine canonEffect_ite h (hb _ _ ?_)
    exact h

theorem canonEffect_cacheRetry (h : MemoryCanonical s) (c : Ctx) (ls : List (Nat × W64)) : CanonEffect (cacheRetry c s ls) := by
  unfold cacheRetry
  refine canon_foldl (fun u e hu => ?_) ls h
  split
  · exact canon_askTables hu _ _ _
  · exact hu

theorem canon_cacheWalks (h : MemoryCanonical s) (g : Group) (ls : List (Nat × W64)) : MemoryCanonical (s.cacheWalks g ls) := by
  unfold State.cacheWalks
  refine canon_foldl (fun u e hu => ?_) ls h
  split
  · exact canon_touchWalk hu _ _ _
  · exact hu

theorem canon_execCflush (h : MemoryCanonical s) (hd : Head) : CanonNext (execCflush hd s) :=
  canon_issue h fun c => canonEffect_outsideTx h (fun _ _ hu => by
    refine canonEffect_ite hu (canonEffect_ite (canonEffect_cacheRetry hu _ _) ?_)
    exact canon_cacheWalks hu _ _) c

theorem canon_dropSector (h : MemoryCanonical s) (sec : Nat) : MemoryCanonical (s.dropSector sec) := (quiet_dropSector s sec).canon h

theorem canon_flushLine (h : MemoryCanonical s) (core asid line : Nat) (inv : Bool) : MemoryCanonical (s.flushLine core asid line inv) := by
  unfold State.flushLine
  extract_lets secs s1
  have h1 : MemoryCanonical s1 := canon_foldl (fun u _ hu => (quiet_revoke u _ _ _).canon hu) secs h
  clear_value secs s1
  exact canon_ite (canon_foldl (fun _ _ hu => canon_dropSector hu _) secs h1) (canon_foldl (fun u _ hu => (quiet_writeBack u _).canon hu) secs h1)

theorem canon_execCflushComplete (h : MemoryCanonical s) (op : Nat) : CanonNext (execCflushComplete op s) := by
  unfold execCflushComplete
  split
  · split
    · next lines _ _ g _ => exact canonNext (canon_foldl (fun _ _ hu => canon_flushLine hu _ _ _ _) _ h)
    · exact canonNext h
  · exact canonNext h

theorem canon_execCinv (h : MemoryCanonical s) (hd : Head) : CanonNext (execCinv hd s) := by
  refine canon_issue h fun c => canonEffect_outsideTx h (fun c u hu => ?_) c
  refine canonEffect_ite hu (canonEffect_ite (canonEffect_ite (canonEffect_cacheRetry hu _ _) ?_) (canonEffect_ite hu hu))
  refine canon_foldl (fun v e hv => ?_) _ (canon_cacheWalks hu _ _)
  split <;> exact hv

end Sys2Proof
end

section
/-!
SUPPORT. Every operation keeps the canonical form of memory: barriers, atomics, fences and transactions.
-/

namespace Sys2Proof

open Machine

theorem canon_fst {α : Type} {r : State × α} {t : State} {a : α} (hr : r = (t, a)) (h : MemoryCanonical r.1) : MemoryCanonical t := by
  rw [hr] at h
  exact h

variable {s : State}

/-! ## Barriers -/

theorem canon_showStores (h : MemoryCanonical s) {gid : Nat} {lanes : List Nat} {colours : Nat → Bool} {scope : Nat} {reads loads : Bool} {t : State}
    (ht : s.showStores gid lanes colours scope reads loads = some t) : MemoryCanonical t := by
  unfold State.showStores at ht
  extract_lets s1 at ht
  have h1 : MemoryCanonical s1 := canon_drainSome h _ _ _
  clear_value s1
  split at ht
  · split at ht
    · cases ht
    · exact Option.some.inj ht ▸ h1
  · exact Option.some.inj ht ▸ h1

theorem canon_releaseAll (h : MemoryCanonical s) {gid : Nat} {lanes : List Nat} {colours : Nat → Bool} {scope : Nat} {loads : Bool} {t : State}
    (ht : s.releaseAll gid lanes colours scope loads = some t) : MemoryCanonical t := canon_showStores h ht

theorem canon_execBar (h : MemoryCanonical s) (hd : Head) : CanonNext (execBar hd s) := by
  refine canon_issue h fun c => canonEffect_outsideTx h (fun c u hu => ?_) c
  refine canonEffect_ite hu (canonEffect_ite trivial ?_)
  split
  · trivial
  · next ht =>
    have h1 := canon_releaseAll hu ht
    exact h1

theorem canon_leaveBar (h : MemoryCanonical s) (gid : Nat) : MemoryCanonical (s.leaveBar gid) := by
  unfold State.leaveBar
  split <;> exact h

theorem canon_execBarRelease (h : MemoryCanonical s) (team n : Nat) : CanonNext (execBarRelease team n s) := by
  unfold execBarRelease
  split
  · refine canonNext_ite (canonNext h) (canonNext (canon_foldl (fun _ _ hu => canon_leaveBar hu _) _ ?_))
    exact h
  · exact canonNext h

theorem canon_settleScr (h : MemoryCanonical s) {gid : Nat} {lanes : List Nat} {off n : Nat} {t : State}
    (ht : s.settleScr gid lanes off n = some t) : MemoryCanonical t := by
  unfold State.settleScr at ht
  extract_lets own s1 pending at ht
  have h1 : MemoryCanonical s1 := canon_drainSome h _ _ _
  clear_value s1
  split at ht
  · cases ht
  · exact Option.some.inj ht ▸ h1

theorem canonEffect_onObject (h : MemoryCanonical s) (a : Operand) (reads : Bool) (c : Ctx) {go : State → Nat → Team → Effect}
    (hgo : ∀ u off t, MemoryCanonical u → CanonEffect (go u off t)) : CanonEffect (onObject a reads c s go) := by
  unfold onObject
  refine canonEffect_ite h ?_
  split
  · trivial
  split
  · trivial
  · next hs =>
    split
    · exact canonEffect_ite trivial (hgo _ _ _ (canon_settleScr h hs))
    · trivial

theorem canon_execBinit (h : MemoryCanonical s) (hd : Head) : CanonNext (execBinit hd s) := by
  refine canon_issue h fun c => canonEffect_outsideTx h (fun c _ hu => canonEffect_onObject hu _ _ c fun v off t hv => ?_) c
  exact hv

theorem canon_execBarr (h : MemoryCanonical s) (hd : Head) : CanonNext (execBarr hd s) := by
  refine canon_issue h fun c => canonEffect_outsideTx h (fun c _ hu => canonEffect_onObject hu _ _ c fun v off t hv => ?_) c
  dsimp only
  split
  · trivial
  · next ht =>
    have h1 := canon_releaseAll hv ht
    exact h1

theorem canon_execBarrierPhaseComplete (h : MemoryCanonical s) (team off : Nat) : CanonNext (execBarrierPhaseComplete team off s) := by
  unfold execBarrierPhaseComplete
  split
  · exact canonNext_ite (canonNext h) (canonNext h)
  · exact canonNext h

theorem canon_execBwait (h : MemoryCanonical s) (hd : Head) : CanonNext (execBwait hd s) := by
  refine canon_issue h fun c => canonEffect_outsideTx h (fun c _ hu => canonEffect_onObject hu _ _ c fun v off t hv => ?_) c
  exact canonEffect_ite hv hv

theorem canon_execBwaitSatisfied (h : MemoryCanonical s) (gid : Nat) : CanonNext (execBwaitSatisfied gid s) := by
  unfold execBwaitSatisfied
  split
  · split
    · exact canonNext_ite (canonNext h) (canonNext h)
    · exact canonNext h
  · exact canonNext h

theorem canon_execBtest (h : MemoryCanonical s) (hd : Head) : CanonNext (execBtest hd s) := by
  refine canon_issue h fun c => canonEffect_outsideTx h (fun c _ hu => canonEffect_onObject hu _ _ c fun v off t hv => ?_) c
  exact canon_ite hv hv

/-! ## Atomics -/

theorem canon_atomReady (h : MemoryCanonical s) {c : Ctx} {looks : List LaneLook} {scope : Nat} {t : State}
    (ht : s.atomReady c looks scope = some t) : MemoryCanonical t := by
  unfold State.atomReady at ht
  extract_lets locs own at ht
  split at ht
  · cases ht
  · next u hu =>
    have hu' : MemoryCanonical u := by
      split at hu
      · exact canon_releaseAll h hu
      · exact Option.some.inj hu ▸ h
    extract_lets s1 left busy at ht
    have h1 : MemoryCanonical s1 := canon_drainSome hu' _ _ _
    clear_value s1
    split at ht
    · cases ht
    · exact Option.some.inj ht ▸ h1

theorem canon_atomicScr (h : MemoryCanonical s) (team off n op : Nat) (ty : Ty) (b c : Nat) : MemoryCanonical (s.atomicScr team off n op ty b c).1 := by
  unfold State.atomicScr
  split <;> exact h

theorem canon_takeAtomic (h : MemoryCanonical s) (core asid pa scope slot : Nat) : MemoryCanonical (s.takeAtomic core asid pa scope slot) := by
  unfold State.takeAtomic
  extract_lets line a since near s1 a2 m s2
  have h1 : MemoryCanonical s1 := canon_ite ((quiet_revoke s _ _ _).canon h) ((quiet_revoke s _ _ _).canon h)
  have h2 : MemoryCanonical s2 := h1
  exact canon_ite (canon_l1Fill h2 _ _ _ _) h2

theorem canon_readChunks (h : MemoryCanonical s) (who : Agent) (cs : List (Nat × Nat × Nat)) : MemoryCanonical (s.readChunks who cs).1 := by
  unfold State.readChunks
  refine canon_foldl_fst (fun r x hr => ?_) cs h
  exact canon_readAt hr _ _ _ _

theorem canon_writeChunks (who : Agent) : ∀ (cs : List (Nat × Nat × Nat)) {s : State}, MemoryCanonical s → ∀ bs, MemoryCanonical (s.writeChunks who cs bs)
  | [], _, h, _ => h
  | _ :: cs, _, h, _ => canon_writeChunks who cs (writeAt_canonical h _ _ _ _ _) _

theorem canon_atomicAt (h : MemoryCanonical s) (gid core asid scope n op : Nat) (ty : Ty) (b c : Nat) (cs : List (Nat × Nat × Nat)) :
    MemoryCanonical (s.atomicAt gid core asid scope n op ty b c cs).1 := by
  unfold State.atomicAt
  extract_lets s0 s1
  have h0 : MemoryCanonical s0 := by
    unfold s0
    split <;> exact h
  have h1 : MemoryCanonical s1 := canon_foldl (fun _ _ hu => canon_takeAtomic hu _ _ _ _ _) cs h0
  exact canon_writeChunks _ _ (canon_readChunks h1 _ _) _

theorem canon_oneAtomic (h : MemoryCanonical s) {c : Ctx} {op ty n scope opId : Nat} {a : AtomReq} {r : State × Option W64}
    (hr : s.oneAtomic c op ty n scope opId a = some r) : MemoryCanonical r.1 := by
  unfold State.oneAtomic at hr
  extract_lets ty' asid lost cs at hr
  have hlost : ∀ {r'}, lost = some r' → MemoryCanonical r'.1 := fun hl => by
    rw [← Option.some.inj hl]
    exact h
  clear_value lost
  split at hr
  · split at hr
    · rw [← Option.some.inj hr]
      exact canon_atomicScr h _ _ _ _ _ _ _
    · split at hr
      · extract_lets s1 at hr
        split at hr
        · exact hlost hr
        split at hr
        · exact hlost hr
        · extract_lets data at hr
          have h1 : MemoryCanonical s1 := h
          obtain ⟨e, he, rfl⟩ := Option.map_eq_some_iff.1 hr
          exact canon_request h1 he
      · rw [← Option.some.inj hr]
        exact canon_atomicAt h _ _ _ _ _ _ _ _ _ _
  · rw [← Option.some.inj hr]
    exact h

theorem canon_allAtomics {c : Ctx} {op ty n scope opId : Nat} : ∀ {rs : List AtomReq} {s : State}, MemoryCanonical s →
    ∀ {r : State × List AtomLane}, s.allAtomics c op ty n scope opId rs = some r → MemoryCanonical r.1
  | [], s, h, r, hr => by
    rw [← Option.some.inj hr]
    exact h
  | a :: rs, s, h, r, hr => by
    unfold State.allAtomics at hr
    split at hr
    · next hone =>
      obtain ⟨e, he, rfl⟩ := Option.map_eq_some_iff.1 hr
      have h1 := canon_oneAtomic h hone
      exact (canon_allAtomics (rs := rs) h1 he :)
    · cases hr

theorem canon_finishAtom (h : MemoryCanonical s) (op : Nat) (a : AtomOp) (scope : Nat) : MemoryCanonical (s.finishAtom op a scope) := by
  unfold State.finishAtom
  extract_lets s1
  have h1 : MemoryCanonical s1 := h
  exact canon_ite (canon_seeOthers h1 _ _ _) h1

theorem canonEffect_atomGo (h : MemoryCanonical s) (c : Ctx) (looks : List LaneLook) (reqs : List LaneLook → List AtomReq) (n : Nat) (scal : Option Nat)
    (ret : Bool) (items : List Item) (hset : LaneLook → List LaneLook) : CanonEffect (atomGo c s looks reqs n scal ret items hset) := by
  unfold atomGo
  refine canonEffect_ite (canonEffect_waitLooks h _ _ _) ?_
  split
  · exact canonEffect_causeEffect h _ _ _
  refine canonEffect_ite (canonEffect_parkWhole h _ _ _) ?_
  split
  · trivial
  · next s1 hready =>
    extract_lets s2
    have h2 : MemoryCanonical s2 := canon_useLooks (canon_atomReady h hready) _ _ _
    clear_value s2
    split
    · trivial
    · next s3 ls hall =>
      have h3 : MemoryCanonical s3 := canon_allAtomics h2 hall
      exact canonEffect_ite (canon_finishAtom h3 _ _ _) h3

theorem canon_execAtom (h : MemoryCanonical s) (hd : Head) : CanonNext (execAtom hd s) := by
  refine canon_issue h fun c => canonEffect_outsideTx h (fun c u hu => ?_) c
  exact canonEffect_ite hu (canonEffect_atomGo hu _ _ _ _ _ _ _ _)
theorem canon_execAtomu (h : MemoryCanonical s) (hd : Head) : CanonNext (execAtomu hd s) := by
  refine canon_issue h fun c => canonEffect_outsideTx h (fun c u hu => ?_) c
  exact canonEffect_ite hu (canonEffect_atomGo hu _ _ _ _ _ _ _ _)
theorem canon_execRed (h : MemoryCanonical s) (hd : Head) : CanonNext (execRed hd s) := by
  refine canon_issue h fun c => canonEffect_outsideTx h (fun c u hu => ?_) c
  exact canonEffect_ite hu (canonEffect_atomGo hu _ _ _ _ _ _ _ _)

theorem canon_execContentionEnterFar (h : MemoryCanonical s) (line : Nat) : CanonNext (execContentionEnterFar line s) := by
  unfold execContentionEnterFar
  split
  · exact canonNext_ite (canonNext h) (canonNext h)
  · exact canonNext h

theorem canon_execContentionReturnNear (h : MemoryCanonical s) (line : Nat) : CanonNext (execContentionReturnNear line s) := by
  unfold execContentionReturnNear
  split
  · exact canonNext_ite (canonNext h) (canonNext h)
  · exact canonNext h

/-! ## Fences -/

theorem canon_execFence (h : MemoryCanonical s) (hd : Head) : CanonNext (execFence hd s) := canon_issue h fun _ => canonEffect_ite h h

theorem canon_fenceAll (h : MemoryCanonical s) {gid : Nat} {lanes : List Nat} {colours : Nat → Bool} {scope : Nat} {t : State}
    (ht : s.fenceAll gid lanes colours scope = some t) : MemoryCanonical t := by
  obtain ⟨u, hu, rfl⟩ := Option.map_eq_some_iff.1 ht
  have hu' := canon_showStores h hu
  exact canon_ite hu' hu'

theorem canon_execFenceComplete (h : MemoryCanonical s) (gid : Nat) : CanonNext (execFenceComplete gid s) := by
  unfold execFenceComplete
  split
  · split
    · refine canonNext_ite ?_ (canonNext h)
      split
      · next ht => exact canonNext (canon_fenceAll h ht :)
      · exact canonNext h
    · exact canonNext h
  · exact canonNext h

/-! ## Transactions -/

theorem canon_beginTx (h : MemoryCanonical s) {gid : Nat} {ls : List Nat} {t : State} (ht : s.beginTx gid ls = some t) : MemoryCanonical t := by
  unfold State.beginTx at ht
  split at ht
  · cases ht
  split at ht
  · cases ht
  · obtain ⟨u, hu, rfl⟩ := Option.map_eq_some_iff.1 ht
    exact (canon_releaseAll h hu :)

theorem canon_execTbeg (h : MemoryCanonical s) (hd : Head) : CanonNext (execTbeg hd s) := by
  refine canon_issue h fun c => ?_
  refine canonEffect_ite h (canonEffect_ite trivial (canonEffect_ite h (canonEffect_ite h (canonEffect_ite h ?_))))
  split
  · next ht => exact canon_beginTx (s := s.doomLanes c.gid c.txLanes 5 0) h ht
  · exact h

theorem canon_execTbegResume (h : MemoryCanonical s) (gid : Nat) : CanonNext (execTbegResume gid s) := by
  unfold execTbegResume
  split
  · split
    · refine canonNext_ite (canonNext h) (canonNext_ite (canonNext h) ?_)
      split
      · next ht => exact canonNext (canon_beginTx h ht :)
      · exact canonNext h
    · exact canonNext h
  · exact canonNext h

theorem canon_execFallbackLockGrant (h : MemoryCanonical s) (gid : Nat) : CanonNext (execFallbackLockGrant gid s) := by
  unfold execFallbackLockGrant
  split
  · split
    · refine canonNext_ite (canonNext h) ?_
      extract_lets _ s1
      have h1 : MemoryCanonical s1 := h
      split
      · next ht => exact canonNext (canon_beginTx h1 ht :)
      · exact canonNext h1
    · exact canonNext h
  · exact canonNext h

theorem canon_execTend (h : MemoryCanonical s) (hd : Head) : CanonNext (execTend hd s) :=
  canon_issue h fun _ => canonEffect_ite h (canonEffect_ite h (canonEffect_ite trivial h))

theorem canon_validate (who : Agent) : ∀ (es : List LogEntry) {s : State}, MemoryCanonical s → MemoryCanonical (s.validate who es).1
  | [], _, h => h
  | e :: es, s, h => by
    have hread : MemoryCanonical (s.granuleAt who e.gran e.slot).1 := canon_readAt h _ _ _ _
    unfold State.validate
    extract_lets bad
    split
    next s1 v hv =>
    have h1 := canon_fst hv hread
    split
    · exact canon_validate who es h1
    · exact h1

theorem canon_applyBuf (h : MemoryCanonical s) (who : Agent) (buf : List BufEntry) : MemoryCanonical (s.applyBuf who buf) := by
  unfold State.applyBuf
  exact canon_foldl (fun _ _ hu => canon_foldl (fun _ _ hv => writeAt_canonical hv _ _ _ _ _) _ hu) buf h

theorem canon_commitLane (h : MemoryCanonical s) (gid core asid lane : Nat) : MemoryCanonical (s.commitLane gid core asid lane).1 := by
  unfold State.commitLane
  split
  · exact h
  extract_lets t who close
  have hclose : ∀ u k, MemoryCanonical u → MemoryCanonical (close u k) := fun _ _ hu => hu
  clear_value close
  split
  · exact hclose _ _ h
  have hval : MemoryCanonical (if t.irrev then (s, none) else s.validate who t.rlog).1 := by
    split
    · exact h
    · exact canon_validate who t.rlog h
  split
  · next hv =>
    have h1 := canon_fst hv hval
    exact hclose _ _ (canon_ite h1 h1)
  · next hv => exact hclose _ _ (canon_applyBuf (canon_fst hv hval) _ _)

theorem canon_commitLanes (gid core asid : Nat) : ∀ (ls : List Nat) {s : State}, MemoryCanonical s → MemoryCanonical (s.commitLanes gid core asid ls).1
  | [], _, h => h
  | _ :: ls, _, h => canon_commitLanes gid core asid ls (canon_commitLane h _ _ _ _)

theorem canon_commitGroup (h : MemoryCanonical s) (gid : Nat) (g : Group) (ticket : W32) (parts lanes : List Nat) (flag op : Nat) :
    MemoryCanonical (s.commitGroup gid g ticket parts lanes flag op) := by
  unfold State.commitGroup
  extract_lets asid
  split
  next s1 oks hc =>
  have h1 := canon_fst hc (canon_commitLanes _ _ _ _ h)
  extract_lets s2
  have h2 : MemoryCanonical s2 := h1
  exact canon_txSettle (s := (s2.countCore _ _ _ _).countCore _ _ _ _) h2 gid

theorem canon_execTendCommit (h : MemoryCanonical s) (gid : Nat) : CanonNext (execTendCommit gid s) := by
  unfold execTendCommit
  split
  · split
    · refine canonNext_ite ?_ (canonNext h)
      extract_lets _ s1
      have h1 : MemoryCanonical s1 := h
      split
      · exact canonNext (canon_ite h (canon_commitGroup h1 _ _ _ _ _ _ _))
      · exact canonNext h1
    · exact canonNext h
  · exact canonNext h

theorem canon_execTabort (h : MemoryCanonical s) (hd : Head) : CanonNext (execTabort hd s) := canon_issue h fun _ => h

end Sys2Proof
end

section
/-!
SUPPORT. Every operation keeps the canonical form of memory: host transactions, submission, and the job cards of the engines.
-/

namespace Sys2Proof

open Machine

variable {s : State}

/-! ## Hosts -/

/-- A host instruction keeps memory canonical where its effect does. -/
theorem canon_hostStep (h : MemoryCanonical s) {f : Nat → HostCore → State} (hf : ∀ n c, MemoryCanonical (f n c)) : CanonNext (hostStep s f) := by
  unfold hostStep
  split
  · exact canonNext_ite (canonNext h) (canonNext (hf _ _))
  · exact canonNext_fault _

theorem canon_drainHost (h : MemoryCanonical s) (n k : Nat) : MemoryCanonical (s.drainHost n k) := by
  unfold State.drainHost
  extract_lets c
  split
  · exact canon_ite h (writeAt_canonical (s := s.setHost n _) h _ _ _ _ _)
  · exact h

theorem canon_afterStores (h : MemoryCanonical s) (n : Nat) {go : State → State} (hgo : ∀ u, MemoryCanonical u → MemoryCanonical (go u)) :
    MemoryCanonical (s.afterStores n go) := by
  have h1 : MemoryCanonical (s.drainHostAll n) := canon_foldl (fun _ _ hu => canon_drainHost hu _ _) _ h
  exact canon_ite (hgo _ h1) h1

theorem canon_execXtbeg (h : MemoryCanonical s) (rd rs1 : BitVec 5) : CanonNext (execXtbeg rd rs1 s) :=
  canon_hostStep h fun n _ => canon_ite h (canon_ite h (canon_ite h (canon_afterStores h n fun _ hu => hu)))

theorem canon_execXtend (h : MemoryCanonical s) (rd : BitVec 5) : CanonNext (execXtend rd s) :=
  canon_hostStep h fun _ _ => canon_ite h (canon_ite h h)

theorem canon_applyHost (h : MemoryCanonical s) (n : Nat) (buf : KMap Byte) : MemoryCanonical (s.applyHost n buf) := by
  unfold State.applyHost
  exact canon_foldl (fun _ _ hu => writeRun_canonical hu _ _ _ _) _ h

theorem canon_execXtendCommit (h : MemoryCanonical s) (host : Nat) : CanonNext (execXtendCommit host s) := by
  unfold execXtendCommit
  split
  · refine canonNext_ite (canonNext_ite (canonNext h) ?_) (canonNext h)
    extract_lets _ s1
    have h1 : MemoryCanonical s1 := by
      refine canon_applyHost ?_ _ _
      exact h
    exact canonNext h1
  · exact canonNext h

theorem canon_execXtabort (h : MemoryCanonical s) (code : BitVec 8) : CanonNext (execXtabort code s) := canon_hostStep h fun _ _ => h
theorem canon_execXtstat (h : MemoryCanonical s) (rd : BitVec 5) : CanonNext (execXtstat rd s) := canon_hostStep h fun _ _ => h

theorem canon_execHostTxAbort (h : MemoryCanonical s) (host cause : Nat) : CanonNext (execHostTxAbort host cause s) :=
  canonNext_ite (canonNext h) (canonNext h)

/-! ## Submission -/

theorem canon_readRun (h : MemoryCanonical s) (who : Agent) (pa slot n : Nat) : MemoryCanonical (s.readRun who pa slot n).1 :=
  canonical_of_bytes (readRun_bytes s who pa slot n) h

theorem canon_noteReady (h : MemoryCanonical s) : MemoryCanonical s.noteReady := (quiet_noteReady s).canon h

theorem canon_poolReads (h : MemoryCanonical s) (rs : List (Nat × Nat)) : MemoryCanonical (s.poolReads rs) := by
  unfold State.poolReads
  exact canon_foldl (fun _ _ hu => canon_readRun hu _ _ _ _) rs h

theorem canon_submit (h : MemoryCanonical s) (who : Submitter) (user : Option Nat) (recAddr : Nat) (bytes : List Byte) :
    MemoryCanonical (s.submit who user recAddr bytes).1 := by
  unfold State.submit
  extract_lets n r s1 id k p
  have h1 : MemoryCanonical s1 := canon_poolReads h _
  clear_value s1
  split
  · exact h
  split
  · exact h1
  split
  · exact h1
  split
  · exact h1
  · refine canon_noteReady ?_
    exact h1

theorem canon_submitAt (h : MemoryCanonical s) (who : Submitter) (user : Option Nat) (ag : Agent) (va pa slot : Nat) :
    MemoryCanonical (s.submitAt who user ag va pa slot).1 := by
  unfold State.submitAt
  split
  next s1 bs hr =>
  split
  next s2 code id hs =>
  have h2 : MemoryCanonical s2 := canon_fst hs (canon_submit (canon_fst hr (canon_readRun h _ _ _ _)) _ _ _ _)
  exact canon_ite (writeRun_canonical h2 _ _ _ _) h2

theorem canon_execXspawn (h : MemoryCanonical s) (rd rs1 : BitVec 5) : CanonNext (execXspawn rd rs1 s) := by
  refine canon_hostStep h fun n c => canon_ite h (canon_afterStores h n fun u hu => canon_ite hu ?_)
  split
  · exact hu
  · exact canon_ite hu (canon_ite hu (canon_submitAt hu _ _ _ _ _ _))

/-! ## What engines read -/

theorem canon_engRelease (h : MemoryCanonical s) {iss : Issuer} {op : Nat} {mask : Byte} {t : State} (ht : s.engRelease iss op mask = some t) :
    MemoryCanonical t := by
  unfold State.engRelease at ht
  extract_lets early s1 at ht
  have h1 : MemoryCanonical s1 := canon_drainSome h _ _ _
  clear_value s1
  split at ht
  · split at ht
    · cases ht
    · exact Option.some.inj ht ▸ h1
  · exact Option.some.inj ht ▸ h

theorem canon_engWalks (h : MemoryCanonical s) (e : Eng) (a : W64) (n : Nat) : MemoryCanonical (s.engWalks e a n) := by
  unfold State.engWalks
  exact canon_foldl (fun _ _ hu => canon_touchWalk hu _ _ _) _ h

theorem canon_engNote (h : MemoryCanonical s) (e : Eng) (a : W64) (n : Nat) (key : Bool) (mac : List (Nat × Nat)) :
    MemoryCanonical (s.engNote e a n key mac) := by
  have h1 := canon_engWalks h e a n
  exact canon_foldl (fun _ _ hu => canon_fillSector hu _ _ _) mac (canon_ite h1 h1)

theorem canon_engPark (h : MemoryCanonical s) (e : Eng) (u : Use) (a : W64) (len l b n : Nat) : MemoryCanonical (s.engPark e u a len l b n) :=
  canon_parkFault (canon_engWalks h e a len) _ _ _ _ _ _ _

theorem canon_askWalks (h : MemoryCanonical s) (e : Eng) (a : W64) (n : Nat) : MemoryCanonical (s.askWalks e a n) := by
  unfold State.askWalks
  exact canon_foldl (fun _ _ hu => canon_askTables hu _ _ _) _ h

theorem canon_askRemote (h : MemoryCanonical s) (e : Eng) (cs : List Chunk) : MemoryCanonical (s.askRemote e cs) := by
  unfold State.askRemote
  refine canon_foldl (fun u c hu => ?_) cs h
  split
  · refine canon_ite hu ?_
    split
    · next hr => exact canon_request hu hr
    · exact hu
  · exact hu

theorem canon_chunkBytes (h : MemoryCanonical s) (e : Eng) (c : Chunk) : MemoryCanonical (s.chunkBytes e c).1 := by
  unfold State.chunkBytes
  split
  · exact h
  split
  · exact h
  split
  · exact h
  · exact canon_readAt h _ _ _ _

theorem canon_chunksBytes (e : Eng) : ∀ (cs : List Chunk) {s : State}, MemoryCanonical s → MemoryCanonical (s.chunksBytes e cs).1
  | [], _, h => h
  | c :: cs, _, h => canon_chunksBytes e cs (canon_chunkBytes h e c)

theorem canon_engUse (h : MemoryCanonical s) (e : Eng) (u : Use) (ps : List (Nat × Nat)) : MemoryCanonical (s.engUse e u ps) := by
  unfold State.engUse
  exact canon_foldl (fun _ _ hu => canon_useEntry hu _ _ _ _) ps h

theorem canon_engRead (h : MemoryCanonical s) (e : Eng) (a : W64) (n : Nat) : MemoryCanonical (s.engRead e a n).1 := by
  unfold State.engRead
  split
  · exact canon_engNote h _ _ _ _ _
  · exact canon_engPark h _ _ _ _ _ _ _
  · exact canon_askWalks h _ _ _
  · next cs ptes ps _ =>
    extract_lets s1
    have h1 : MemoryCanonical s1 := canon_askRemote h _ _
    clear_value s1
    split
    · exact h1
    split
    · exact canon_chunksBytes e cs (canon_engUse h1 _ _ _)
    · exact h1

/-! ## spawn -/

theorem canonEffect_spawnAway (h : MemoryCanonical s) (c : Ctx) (va : W64) (dst slot pa : Nat) : CanonEffect (spawnAway c s va dst slot pa) := by
  unfold spawnAway
  extract_lets e
  have hread : MemoryCanonical (s.engRead e va 128).1 := canon_engRead h _ _ _
  split
  · next s1 bs _ hr =>
    have h1 := canon_fst hr hread
    refine canonEffect_ite h1 ?_
    split
    next s2 code id hs =>
    have h2 : MemoryCanonical s2 := canon_fst hs (canon_submit h1 _ _ _ _)
    extract_lets s3
    have h3 : MemoryCanonical s3 := h2
    clear_value s3
    refine canonEffect_ite ?_ h3
    split
    · next hq => exact (canon_request h3 hq :)
    · exact h1
  · next s1 k hr =>
    have h1 := canon_fst hr hread
    exact canonEffect_ite trivial h1
  · next s1 _ _ _ hr => exact canon_fst hr hread

theorem canonEffect_spawnGo (h : MemoryCanonical s) (c : Ctx) (lk : LaneLook) : CanonEffect (spawnGo c s lk) := by
  unfold spawnGo
  extract_lets dst
  split
  · split
    · exact canonEffect_ite (canonEffect_spawnAway h _ _ _ _ _) (canonEffect_ite trivial (canon_submitAt (canon_useLooks h _ _ _) _ _ _ _ _ _))
    · trivial
  · trivial

theorem canon_execSpawn (h : MemoryCanonical s) (hd : Head) : CanonNext (execSpawn hd s) := by
  refine canon_issue h fun c => canonEffect_outsideTx h (fun c u hu => ?_) c
  refine canonEffect_ite hu (canonEffect_ite (canonEffect_waitLooks hu _ _ _) ?_)
  split
  · exact canonEffect_causeEffect hu _ _ _
  · refine canonEffect_ite (canonEffect_parkWhole hu _ _ _) ?_
    split
    · trivial
    · next hr => exact canonEffect_spawnGo (canon_releaseAll hu hr) _ _

/-! ## Cards -/

theorem canonEffect_onScratch (h : MemoryCanonical s) (c : Ctx) (va : W64) (align n : Nat) {go : State → Nat → Team → Effect}
    (hgo : ∀ u off t, MemoryCanonical u → CanonEffect (go u off t)) : CanonEffect (onScratch c s va align n go) := by
  unfold onScratch
  split
  · trivial
  split
  · next hs =>
    split
    · exact hgo _ _ _ (canon_settleScr h hs)
    · trivial
  · trivial

theorem canon_postCard (h : MemoryCanonical s) (c : Ctx) (d : Operand) (n : Nat) (poison : Bool) : MemoryCanonical (s.postCard c d n poison) :=
  canon_ite h h

theorem canon_execCpost (h : MemoryCanonical s) (hd : Head) : CanonNext (execCpost hd s) := by
  refine canon_issue h fun c => canonEffect_outsideTx h (fun c u hu => ?_) c
  refine canonEffect_ite hu ?_
  split
  · trivial
  split
  · next hs _ =>
    split
    · exact canon_postCard (canon_settleScr hu hs) _ _ _ _
    · trivial
  · trivial

theorem canon_startJoin (h : MemoryCanonical s) (op : Nat) (j : JoinOp) : MemoryCanonical (s.startJoin op j) := by
  unfold State.startJoin
  refine canon_ite h ?_
  split
  · exact h
  · next ht => exact (canon_engRelease h ht :)

theorem canon_readSurface (h : MemoryCanonical s) (op : Nat) (f : FetchOp) (a : W64) : MemoryCanonical (s.readSurface op f a) := by
  have hread : MemoryCanonical (s.engRead (fetchEng op f.iss) a 32).1 := canon_engRead h _ _ _
  unfold State.readSurface
  split
  · next hr => exact (canon_fst hr hread :)
  · next hr => exact (canon_fst hr hread :)
  · next hr => exact (canon_fst hr hread :)
  · next hr => exact (canon_fst hr hread :)

theorem canon_startFetch (h : MemoryCanonical s) (op : Nat) (f : FetchOp) : MemoryCanonical (s.startFetch op f) := by
  unfold State.startFetch
  refine canon_ite h ?_
  split
  · exact h
  · next ht =>
    have h1 := canon_engRelease h ht
    split
    · exact canon_readSurface h1 _ _ _
    · exact h1

theorem canon_execHazardRelease (h : MemoryCanonical s) (op : Nat) : CanonNext (execHazardRelease op s) := by
  unfold execHazardRelease
  refine canonNext_ite (canonNext h) ?_
  split
  · exact canonNext (canon_ite h h)
  · exact canonNext (canon_ite (canon_startJoin h _ _) h)
  · exact canonNext (canon_ite h (canon_startFetch h _ _))
  · exact canonNext h

theorem canon_countBar (h : MemoryCanonical s) (c : Card) (n : Nat) (err : Bool) : MemoryCanonical (s.countBar c n err) := by
  unfold State.countBar
  refine canon_ite h ?_
  split <;> exact h

/-- The state that a count-down leaves is canonical. -/
def CanonCounted : Counted → Prop
  | .made t => MemoryCanonical t
  | .park t => MemoryCanonical t
  | .wait t => MemoryCanonical t

theorem canonCounted_countFailed (h : MemoryCanonical s) (op : Nat) (c : Card) (u : CardUnit) (status : Nat) :
    CanonCounted (s.countFailed op c u status) := by
  have hsend : ∀ {v : State} pa slot, MemoryCanonical v → CanonCounted (v.sendCount op c u status pa slot) := by
    intro v pa slot hv
    unfold State.sendCount
    split
    · exact hv
    extract_lets p pk
    split
    · next hr => exact canon_request hv hr
    · exact hv
  unfold State.countFailed
  extract_lets e
  split
  · exact canon_countBar h _ _ _
  split
  · split
    · exact h
    split
    · exact canon_askTables h _ _ _
    split
    · exact hsend _ _ (canon_touchWalk h _ _ _)
    · exact canon_engPark h _ _ _ _ _ _ _
    · exact canon_touchWalk h _ _ _
  · exact h

theorem canon_unitFails (h : MemoryCanonical s) (op k : Nat) (u : CardUnit) (status : Nat) (c : Card) : MemoryCanonical (s.unitFails op k u status c) := by
  have hc := canonCounted_countFailed h op c u status
  unfold State.unitFails
  extract_lets st
  split
  all_goals
    next hr =>
      rw [hr] at hc
      exact hc

theorem canon_chunkPut (h : MemoryCanonical s) (e : Eng) (c : Chunk) (bs : List Byte) : MemoryCanonical (s.chunkPut e c bs) := by
  unfold State.chunkPut
  split
  · exact h
  · exact canon_ite ((quiet_devWrite s _ _).canon h) (writeAt_canonical h _ _ _ _ _)

theorem canon_chunksPut (e : Eng) : ∀ {cs : List Chunk} {bs : List Byte} {s : State}, MemoryCanonical s → ∀ {t : State},
    s.chunksPut e cs bs = some t → MemoryCanonical t
  | [], _, _, h, _, ht => Option.some.inj ht ▸ h
  | c :: cs, bs, s, h, t, ht => by
    unfold State.chunksPut at ht
    extract_lets b next at ht
    have hnext : ∀ u, next = some u → MemoryCanonical u := by
      intro u hu
      unfold next at hu
      split at hu
      · split at hu
        · obtain ⟨r, hr, rfl⟩ := Option.map_eq_some_iff.1 hu
          exact (canon_request h hr :)
        · exact Option.some.inj hu ▸ canon_chunkPut h _ _ _
      · exact Option.some.inj hu ▸ canon_chunkPut h _ _ _
    clear_value next
    split at ht
    · next u => exact canon_chunksPut e (hnext u rfl) ht
    · cases ht

theorem canon_unitDone (h : MemoryCanonical s) (op k n : Nat) (c : Card) : MemoryCanonical (s.unitDone op k n c) :=
  canon_countBar (s := s.setOp op _) h c n false

theorem canon_putUnit (h : MemoryCanonical s) (e : Eng) (op k : Nat) (c : Card) (u : CardUnit) (data : List Byte) :
    MemoryCanonical (s.putUnit e op k c u data) := by
  unfold State.putUnit
  split
  · exact canon_unitFails (canon_engNote h _ _ _ _ _) _ _ _ _ _
  · exact (canon_engPark h _ _ _ _ _ _ _ :)
  · exact h
  · next cs _ ps _ =>
    have huse : MemoryCanonical (s.engUse e .write ps) := canon_engUse h _ _ _
    extract_lets remote
    refine canon_ite ?_ (canon_ite (canon_unitFails h _ _ _ _ _) ?_)
    · split
      · split
        · extract_lets pk
          split
          · next hr => exact (canon_request huse hr :)
          · exact h
        · exact h
      · exact h
    · split
      · next hr => exact canon_unitDone (canon_chunksPut e huse hr) _ _ _ _
      · exact h

theorem canon_requestOn (h : MemoryCanonical s) {p : Packet} {kind : OutKind} {k : Nat} {r : State × Nat} (hr : s.requestOn p kind k = some r) :
    MemoryCanonical r.1 := by
  unfold State.requestOn at hr
  split at hr
  · rw [← Option.some.inj hr]
    exact (quiet_giveLink { s with net := _ } _ _).canon h
  · cases hr

theorem canon_sendPiece (h : MemoryCanonical s) (op k : Nat) (c : Card) (u : CardUnit) (data : List Byte) (key : Nat) :
    MemoryCanonical (s.sendPiece op k c u data key) := by
  unfold State.sendPiece
  extract_lets grp off p q pk
  refine canon_ite (canon_unitFails h _ _ _ _ _) ?_
  split
  · next hr => exact (canon_requestOn h hr :)
  · exact h

theorem canon_runUnit (h : MemoryCanonical s) (op k : Nat) (c : Card) (u : CardUnit) : MemoryCanonical (s.runUnit op k c u) := by
  unfold State.runUnit
  extract_lets e slot
  have hread : MemoryCanonical (s.engRead e u.src u.slen).1 := canon_engRead h _ _ _
  refine canon_ite (canon_unitFails h _ _ _ _ _) ?_
  split
  · next hr => exact canon_unitFails (canon_fst hr hread) _ _ _ _ _
  · next hr => exact (canon_fst hr hread :)
  · next hr => exact canon_fst hr hread
  · next hr =>
    have h1 := canon_fst hr hread
    exact canon_ite (canon_unitFails h1 _ _ _ _ _) (canon_ite (canon_putUnit h1 _ _ _ _ _ _) (canon_sendPiece h1 _ _ _ _ _ _))

theorem canon_execCardUnitWrite (h : MemoryCanonical s) (op unit : Nat) : CanonNext (execCardUnitWrite op unit s) := by
  unfold execCardUnitWrite
  split
  · split
    · refine canonNext_ite ?_ (canonNext h)
      split
      · next ht =>
        have h2 := canon_runUnit (canon_engRelease h ht) op unit
        refine canonNext ?_
        split
        · exact canon_ite (h2 _ _) (h2 _ _)
        · exact h2 _ _
      · exact canonNext h
    · exact canonNext h
  · exact canonNext h

theorem canon_dropUnits (op : Nat) : ∀ (us : List (CardUnit × Nat)) {s : State} (c : Card), MemoryCanonical s →
    MemoryCanonical (s.dropUnits op c us).1
  | [], _, _, h => h
  | (u, k) :: us, s, c, h => by
    unfold State.dropUnits
    split
    · next status st _ =>
      have hc := canonCounted_countFailed h op c u status
      split
      all_goals
        next hr =>
          rw [hr] at hc
          exact canon_dropUnits op us _ hc
    · exact canon_dropUnits op us c h

theorem canon_execCardComplete (h : MemoryCanonical s) (op : Nat) : CanonNext (execCardComplete op s) := by
  unfold execCardComplete
  split
  · refine canonNext_ite (canonNext h) ?_
    split
    next c _ s1 c1 hc =>
    have h1 : MemoryCanonical s1 := canon_fst hc (by
      split
      · exact h
      · exact canon_dropUnits op _ _ h)
    exact canonNext_ite (canonNext h1) (canonNext h1)
  · exact canonNext h

theorem canon_execRst (h : MemoryCanonical s) (hd : Head) : CanonNext (execRst hd s) := by
  refine canon_issue h fun c => canonEffect_outsideTx h (fun c u hu => ?_) c
  extract_lets n looks
  refine canonEffect_ite hu (canonEffect_ite (canonEffect_waitLooks hu _ _ _) ?_)
  split
  · exact canonEffect_causeEffect hu _ _ _
  · exact canonEffect_ite (canonEffect_parkWhole hu _ _ _) (canon_queueStores (canon_useLooks hu _ _ _) _ _ _ _ _ _)

end Sys2Proof
end

section
/-!
SUPPORT. Every operation keeps the canonical form of memory: what answers from other packages do, and join operations.
-/

namespace Sys2Proof

open Machine

variable {s : State}

/-! ## Answers from other packages -/

theorem canon_keepPeer (h : MemoryCanonical s) (core asid slot sec : Nat) (bs : List Byte) : MemoryCanonical (s.keepPeer core asid slot sec bs) := by
  unfold State.keepPeer
  have hroom : MemoryCanonical (s.l2Room sec) := (quiet_l2Room s sec).canon h
  exact (canon_l1Put (canonical_of_bytes (by rfl) hroom) _ _)

theorem canon_takeAnswer (h : MemoryCanonical s) (gid : Nat) (keep : Bool) (c : Chunk) (data : List Byte) :
    MemoryCanonical (s.takeAnswer gid keep c data).1 := by
  unfold State.takeAnswer
  split
  · split
    · exact canon_ite (canon_keepPeer h _ _ _ _ _) h
    · exact h
  · exact h

theorem canon_lateFail (h : MemoryCanonical s) (gid : Nat) (lanes : List Nat) (va : W64) (denied : Bool) :
    MemoryCanonical (s.lateFail gid lanes va denied) :=
  canon_ite h h

theorem canon_settleLoad (h : MemoryCanonical s) (op lane k status : Nat) (keep : Bool) (data : List Byte) :
    MemoryCanonical (s.settleLoad op lane k status keep data) := by
  unfold State.settleLoad
  split
  · split
    · next L _ x _ =>
      split
      next s0 bs hr =>
      have h0 : MemoryCanonical s0 := canon_fst hr (by
        split
        · split
          · exact canon_takeAnswer h _ _ _ _
          · exact h
        · exact h)
      extract_lets x1 s1
      have h1 : MemoryCanonical s1 := h0
      exact canon_ite h1 (canon_lateFail h1 _ _ _ _)
    · exact h
  · exact h

theorem canon_settleStore (h : MemoryCanonical s) (gid rid status : Nat) : MemoryCanonical (s.settleStore gid rid status) := by
  unfold State.settleStore
  split
  · next g _ =>
    split
    · exact canon_ite h (canon_lateFail (s := s.setGroup gid _) h _ _ _ _)
    · exact h
  · exact h

theorem canon_settleAtom (h : MemoryCanonical s) (op lane status : Nat) (data : List Byte) : MemoryCanonical (s.settleAtom op lane status data) := by
  unfold State.settleAtom
  split
  · extract_lets v va bad who a1 s1
    have h1 : MemoryCanonical s1 := canon_ite h (canon_ite (canon_ite h (canon_latePoison h _ _)) (canon_lateFail h _ _ _ _))
    exact canon_ite (canon_finishAtom h1 _ _ _) h1
  · exact h

theorem canon_settleUnit (h : MemoryCanonical s) (op k status : Nat) : MemoryCanonical (s.settleUnit op k status) := by
  unfold State.settleUnit
  split
  · split
    · exact canon_ite h (canon_ite (canon_unitDone h _ _ _ _) (canon_unitFails h _ _ _ _ _))
    · exact h
  · exact h

theorem canon_keepGot (h : MemoryCanonical s) (g : RemoteGot) : MemoryCanonical (s.keepGot g) := by
  unfold State.keepGot
  exact canon_ite h h

theorem canon_settleCode (h : MemoryCanonical s) (gid pa status : Nat) (data : List Byte) : MemoryCanonical (s.settleCode gid pa status data) := by
  unfold State.settleCode
  split
  · exact canon_ite h (canon_ite (canon_latePoison h _ _) (canon_lateFail h _ _ _ _))
  · exact h

theorem canon_settleSpawn (h : MemoryCanonical s) (op gid dst : Nat) (lanes : List Nat) (va : W64) (status : Nat) :
    MemoryCanonical (s.settleSpawn op gid dst lanes va status) :=
  canon_ite h (canon_lateFail (s := s.delOp op) h gid lanes va (status == stAccess) :)

theorem canon_keepWrite (h : MemoryCanonical s) (op status : Nat) : MemoryCanonical (s.keepWrite op status) := by
  unfold State.keepWrite
  split
  · exact canon_keepGot h _
  · exact canon_ite h h

theorem canon_settleOut (h : MemoryCanonical s) (o : Outstanding) (status : Nat) (data : List Byte) :
    MemoryCanonical (s.settleOut o status data) := by
  unfold State.settleOut
  extract_lets _ s1 s2
  have h2 : MemoryCanonical s2 := canon_ite (a := s1.forgetFar _ _ _ _) h h
  clear_value s2
  split
  · exact canon_settleLoad h2 _ _ _ _ _ _
  · exact canon_settleStore h2 _ _ _
  · exact canon_settleAtom h2 _ _ _ _
  · exact canon_settleUnit h2 _ _ _
  · exact canon_keepGot h2 _
  · exact canon_settleCode h2 _ _ _ _
  · exact h2
  · exact h2
  · split
    · exact canon_settleSpawn h2 _ _ _ _ _ _
    · exact canon_keepWrite h2 _ _

theorem canon_execRemotePathLost (h : MemoryCanonical s) (pkg : Nat) : CanonNext (execRemotePathLost pkg s) :=
  canonNext_ite (canonNext (canon_foldl (fun _ o hu => canon_settleOut hu o _ _) _ h)) (canonNext h)

/-! ## Join operations enter their queue -/

theorem canon_queueJoin (h : MemoryCanonical s) {c : Ctx} {j : JoinOp} {reads writes : List Range} {t : State}
    (ht : s.queueJoin c j reads writes = some t) : MemoryCanonical t := by
  unfold State.queueJoin at ht
  split at ht
  · cases ht
  split at ht
  · rw [← Option.some.inj ht]
    exact h
  split at ht
  · cases ht
  · rw [← Option.some.inj ht]
    exact h

theorem canonEffect_joinEffect {o : Option State} (ho : ∀ t, o = some t → MemoryCanonical t) : CanonEffect (joinEffect o) := by
  cases o with
  | none => trivial
  | some t => exact ho t rfl

theorem canonEffect_queueJoin (h : MemoryCanonical s) (c : Ctx) (j : JoinOp) (reads writes : List Range) :
    CanonEffect (joinEffect (s.queueJoin c j reads writes)) :=
  canonEffect_joinEffect fun _ ht => canon_queueJoin h ht

theorem canonEffect_onPart (h : MemoryCanonical s) (c : Ctx) (a : Operand) {go : Nat → Partition → Effect} (hgo : ∀ n p, CanonEffect (go n p)) :
    CanonEffect (onPart c s a go) := by
  unfold onPart
  extract_lets v
  refine canonEffect_ite h ?_
  split
  · exact hgo _ _
  · trivial

theorem canonEffect_onGrain (c : Ctx) (p : Partition) (n : Nat) (ok : Bool) (need : Nat) {go : Effect} (hgo : CanonEffect go) :
    CanonEffect (onGrain c p n ok need go) :=
  canonEffect_ite trivial (canonEffect_ite trivial hgo)

theorem canon_execJopen (h : MemoryCanonical s) (hd : Head) : CanonNext (execJopen hd s) := by
  refine canon_issue h fun c => canonEffect_outsideTx h (fun c u hu => ?_) c
  extract_lets grow va go
  have hgo : ∀ n, CanonEffect (go n) := fun n =>
    canonEffect_onScratch hu c va 64 64 fun w off t hw => canonEffect_ite trivial (canonEffect_queueJoin hw _ _ _ _)
  refine canonEffect_ite ?_ (canonEffect_ite hu (hgo 128))
  exact canonEffect_onPart hu _ _ fun n _ => hgo n

theorem canon_execJclose (h : MemoryCanonical s) (hd : Head) : CanonNext (execJclose hd s) := by
  refine canon_issue h fun c => canonEffect_outsideTx h (fun c u hu => ?_) c
  refine canonEffect_onPart hu _ _ fun n p => canonEffect_joinEffect fun t ht => ?_
  obtain ⟨v, hv, rfl⟩ := Option.map_eq_some_iff.1 ht
  exact (canon_queueJoin hu hv :)

theorem canon_execJcloseFree (h : MemoryCanonical s) (op : Nat) : CanonNext (execJcloseFree op s) := by
  unfold execJcloseFree
  split
  · split
    · exact canonNext_ite (canonNext h) (canonNext h)
    · exact canonNext h
  · exact canonNext h

theorem canon_execJmul (h : MemoryCanonical s) (hd : Head) : CanonNext (execJmul hd s) := by
  refine canon_issue h fun c => canonEffect_outsideTx h (fun c u hu => ?_) c
  refine canonEffect_onPart hu _ _ fun n p => ?_
  split
  extract_lets iss reads go
  have hgo : ∀ w obj, MemoryCanonical w → CanonEffect (go w obj) := fun w obj hw =>
    canonEffect_onGrain _ _ _ _ _ (canonEffect_queueJoin hw _ _ _ _)
  refine canonEffect_ite (hgo _ _ hu) ?_
  exact canonEffect_onScratch hu _ _ _ _ fun w off t hw => hgo _ _ hw

theorem canon_execJmulBarrierSatisfied (h : MemoryCanonical s) (op : Nat) : CanonNext (execJmulBarrierSatisfied op s) := by
  unfold execJmulBarrierSatisfied
  split
  · split
    · exact canonNext_ite (canonNext h) (canonNext h)
    · exact canonNext h
  · exact canonNext h

theorem canon_execJstrm (h : MemoryCanonical s) (hd : Head) : CanonNext (execJstrm hd s) := by
  refine canon_issue h fun c => canonEffect_outsideTx h (fun c u hu => ?_) c
  refine canonEffect_onPart hu _ _ fun n p => ?_
  split
  extract_lets dense iss go
  have hgo : ∀ w d, MemoryCanonical w → CanonEffect (go w d) := fun w d hw =>
    canonEffect_onGrain _ _ _ _ _ (canonEffect_queueJoin hw _ _ _ _)
  refine canonEffect_ite ?_ (hgo _ _ hu)
  exact canonEffect_onScratch hu _ _ _ _ fun w off t hw => canonEffect_ite trivial (hgo _ _ hw)

theorem canon_execJacc (h : MemoryCanonical s) (hd : Head) : CanonNext (execJacc hd s) := by
  refine canon_issue h fun c => canonEffect_outsideTx h (fun c u hu => ?_) c
  exact canonEffect_onPart hu _ _ fun n p => canonEffect_onGrain _ _ _ _ _ (canonEffect_queueJoin hu _ _ _ _)

theorem canon_execJget (h : MemoryCanonical s) (hd : Head) : CanonNext (execJget hd s) := by
  refine canon_issue h fun c => canonEffect_outsideTx h (fun c u hu => ?_) c
  refine canonEffect_onPart hu _ _ fun n p => canonEffect_onGrain _ _ _ _ _ (canonEffect_joinEffect fun t ht => ?_)
  obtain ⟨v, hv, rfl⟩ := Option.map_eq_some_iff.1 ht
  exact (canon_queueJoin hu hv :)

theorem canon_execJdrain (h : MemoryCanonical s) (hd : Head) : CanonNext (execJdrain hd s) := by
  refine canon_issue h fun c => canonEffect_outsideTx h (fun c u hu => ?_) c
  refine canonEffect_onPart hu _ _ fun n p => ?_
  split
  exact canonEffect_onScratch hu _ _ _ _ fun w off t hw => canonEffect_queueJoin hw _ _ _ _

theorem canon_execJstat (h : MemoryCanonical s) (hd : Head) : CanonNext (execJstat hd s) := by
  refine canon_issue h fun c => canonEffect_outsideTx h (fun c u hu => ?_) c
  refine canonEffect_onPart hu _ _ fun n p => ?_
  exact canonEffect_onScratch hu _ _ _ _ fun w off t hw => canonEffect_queueJoin hw _ _ _ _

/-! ## Join operations advance -/

theorem canon_openPart (h : MemoryCanonical s) (j : JoinOp) (t : Team) (d : Nat) : MemoryCanonical (s.openPart j t d).1 := by
  unfold State.openPart
  extract_lets half used
  split
  · split <;> exact h
  · exact h

theorem canon_performOpen (h : MemoryCanonical s) (j : JoinOp) (grow : Bool) (off : Nat) (hd : W64) :
    MemoryCanonical (s.performOpen j grow off hd).1 := by
  unfold State.performOpen
  split
  · exact h
  extract_lets d
  generalize (grow && _) = lost
  split
  · exact h
  split
  · exact h
  split
  · split
    · split <;> exact h
    · exact h
  · exact canon_openPart h _ _ _

theorem canon_addRecords (e : Eng) (p : Partition) : ∀ (is : List Nat) {s : State} (v : Option (List W32)), MemoryCanonical s →
    MemoryCanonical (s.addRecords e p is v).1
  | [], _, _, h => h
  | i :: is, s, v, h => by
    have hread : MemoryCanonical (s.readRecord e p i).1 := canon_engRead h _ _ _
    unfold State.addRecords
    split
    · next hr => exact canon_addRecords e p is _ (canon_fst hr hread)
    · next hr => exact canon_fst hr hread
    · next hr => exact canon_fst hr hread
    · next hr => exact canon_fst hr hread

theorem canon_keyValue (h : MemoryCanonical s) (e : Eng) (p : Partition) (k : W64) : MemoryCanonical (s.keyValue e p k).1 :=
  canon_addRecords e p _ _ h

theorem canon_getLanes (e : Eng) (p : Partition) : ∀ (ks : List (Nat × W64)) {s : State} (outs : List (Nat × Option W32)), MemoryCanonical s →
    MemoryCanonical (s.getLanes e p ks outs).1
  | [], _, _, h => h
  | (l, k) :: ks, s, outs, h => by
    have hval := canon_keyValue h e p k
    unfold State.getLanes
    split
    · next hr => exact canon_getLanes e p ks _ (canon_fst hr hval)
    · next hr => exact canon_fst hr hval

theorem canon_breakPart (h : MemoryCanonical s) (team n status : Nat) : MemoryCanonical (s.breakPart team n status) := canon_ite h h

theorem canon_stepGet (h : MemoryCanonical s) (op : Nat) (j : JoinOp) (p : Partition) (ks : List (Nat × W64)) :
    MemoryCanonical (s.stepGet op j p ks).1 := by
  have hget := canon_getLanes (s.joinEng op j) p ks [] h
  unfold State.stepGet
  split
  · next hr => exact canon_fst hr hget
  · next hr =>
    have h1 := canon_fst hr hget
    split
    · exact canon_breakPart h1 _ _ _
    · exact h1
  · next hr => exact canon_fst hr hget
  · next hr => exact canon_fst hr hget

theorem canon_writeEnd (h : MemoryCanonical s) {op : Nat} {r : State × Nat} (hr : s.writeEnd op = some r) : MemoryCanonical r.1 := by
  unfold State.writeEnd at hr
  split at hr
  · cases hr
  · rw [← Option.some.inj hr]
    exact h

theorem canon_spillDone (h : MemoryCanonical s) (e : Eng) (n : Nat) (k : W64) (status : Nat) : MemoryCanonical (s.spillDone e n k status).1 := by
  unfold State.spillDone
  split
  · exact h
  · exact canon_breakPart h _ _ _

theorem canon_spillGoes (h : MemoryCanonical s) (e : Eng) (n : Nat) (k : W64) : MemoryCanonical (s.spillGoes e n k).1 := by
  unfold State.spillGoes
  split
  · next hr => exact canon_spillDone (canon_writeEnd h hr) _ _ _ _
  · exact h

theorem canon_tileForm (h : MemoryCanonical s) (e : Eng) (t : Tile) : MemoryCanonical (s.tileForm e t).1 := by
  unfold State.tileForm
  split
  · split
    · exact h
    split
    · exact canon_engNote h _ _ _ _ _
    · exact canon_engNote h _ _ _ _ _
    · exact canon_engPark h _ _ _ _ _ _ _
    · exact h
  · exact h
  · exact h
  · exact h

theorem canon_engReads (e : Eng) : ∀ (ps : List (W64 × Nat)) {s : State}, MemoryCanonical s → MemoryCanonical (s.engReads e ps).1
  | [], _, h => h
  | p :: ps, s, h => by
    have hread := canon_engRead h e p.1 p.2
    unfold State.engReads
    split
    · next s1 _ _ hr =>
      have hrest := canon_engReads e ps (canon_fst hr hread)
      split
      · next hr2 => exact canon_fst hr2 hrest
      · exact hrest
    · exact hread

theorem canon_readTile (h : MemoryCanonical s) (e : Eng) (fmt geo : Nat) (t : Tile) : MemoryCanonical (s.readTile e fmt geo t).1 := by
  unfold State.readTile
  extract_lets es
  split
  · exact canon_engReads e _ h
  · exact canon_engReads e _ h
  · have hmask := canon_engRead h e t.a 128
    split
    · next s1 _ _ hr =>
      have h1 := canon_fst hr hmask
      extract_lets n
      have hdata := canon_engRead h1 e (t.a + 128) (n * es)
      split
      · exact h1
      split
      · next hr2 => exact canon_fst hr2 hdata
      · exact hdata
    · exact hmask
  · exact canon_engRead h _ _ _

theorem canon_engWrite (h : MemoryCanonical s) (e : Eng) (a : W64) (bs : List Byte) : MemoryCanonical (s.engWrite e a bs).1 := by
  unfold State.engWrite
  split
  · exact canon_engNote h _ _ _ _ _
  · exact canon_engPark h _ _ _ _ _ _ _
  · exact canon_askWalks h _ _ _
  · split
    · next hr => exact canon_chunksPut e (canon_engUse h _ _ _) hr
    · exact h

theorem canon_fileProduct (h : MemoryCanonical s) (e : Eng) (n : Nat) (p : Partition) (k : W64) (f : Option W32 → Nat → W32) :
    MemoryCanonical (s.fileProduct e n p k f).1 := by
  have hwrite := canon_engWrite h e (p.fbase + BitVec.ofNat 64 (p.recs.length * p.recSize)) (p.record k f)
  unfold State.fileProduct
  split
  · exact canon_spillGoes h _ _ _
  split
  · exact h
  split
  · exact h
  split
  · next hr =>
    have h1 := canon_fst hr hwrite
    split
    · exact h1
    · exact canon_spillDone h1 _ _ _ _
  · next hr => exact canon_spillDone (canon_fst hr hwrite) _ _ _ _
  · next hr => exact canon_fst hr hwrite
  · next hr => exact canon_fst hr hwrite

theorem canon_product (h : MemoryCanonical s) (e : Eng) (n : Nat) (k : W64) (ta tb : Tile) : MemoryCanonical (s.product e n k ta tb).1 := by
  unfold State.product
  split
  · exact h
  split
  · exact canon_spillGoes h _ _ _
  have hfa := canon_tileForm h e ta
  revert hfa
  generalize s.tileForm e ta = ra
  intro hfa
  split
  · next s1 _ fa =>
    have hfb := canon_tileForm (s := s1) hfa e tb
    revert hfb
    generalize s1.tileForm e tb = rb
    intro hfb
    split
    · next s2 _ fb =>
      split
      · exact hfb
      split
      · exact hfb
      have hda := canon_readTile (s := s2) hfb e fa.1 fa.2 ta
      revert hda
      generalize s2.readTile e fa.1 fa.2 ta = rda
      intro hda
      split
      · next s3 _ _ =>
        have hdb := canon_readTile (s := s3) hda e fb.1 fb.2 tb
        revert hdb
        generalize s3.readTile e fb.1 fb.2 tb = rdb
        intro hdb
        split
        · next s4 db _ =>
          extract_lets env as bs
          have hfile := canon_fileProduct (s := s4) hdb e n ‹_› k (blockWord ‹Machine.Partition›.int env as bs)
          split
          · next hr => exact (canon_fst hr hfile :)
          · exact hfile
        · exact hdb
        · exact hdb
        · exact hdb
      · exact hda
      · exact hda
      · exact hda
    · exact hfb
    · exact hfb
    · exact hfb
  · exact hfa
  · exact hfa
  · exact hfa

theorem canon_readEntry (h : MemoryCanonical s) (e : Eng) (a : Bool) (base : W64) (i : Nat) : MemoryCanonical (s.readEntry e a base i).1 := by
  have hread := canon_engRead h e (base + BitVec.ofNat 64 (16 * i)) 16
  unfold State.readEntry
  split
  · exact h
  split
  · exact h
  split <;> next hr => exact canon_fst hr hread

theorem canon_peekEntry (h : MemoryCanonical s) (e : Eng) (a : Bool) (base : W64) (i : Nat) : MemoryCanonical (s.peekEntry e a base i).1 := by
  unfold State.peekEntry
  split
  · exact h
  split
  · exact h
  · exact h
  · exact canon_readEntry h _ _ _ _

theorem canon_leadStream (h : MemoryCanonical s) (e : Eng) (al : W64) (c : Stream) : MemoryCanonical (s.leadStream e al c).1 := by
  have hpeek := canon_peekEntry h e true al (c.ia - 1)
  revert hpeek
  unfold State.leadStream
  generalize s.peekEntry e true al (c.ia - 1) = r
  intro hpeek
  split <;> exact hpeek

theorem tookDense_fst (d : Nat) (c : Stream) (s : State) (r : EntryRes) : (tookDense d c s r).1 = s := by
  unfold tookDense
  split
  · split <;> rfl
  all_goals rfl

theorem tookB_fst (c : Stream) (s : State) (r : EntryRes) : (tookB c s r).1 = s := by
  unfold tookB
  split
  · split
    · split <;> rfl
    · rfl
  all_goals rfl

theorem tookA_fst (c : Stream) (s : State) (r : EntryRes) : (tookA c s r).1 = s := by
  unfold tookA
  split
  · split
    · split <;> rfl
    · rfl
  all_goals rfl

theorem canon_moveDense (h : MemoryCanonical s) (e : Eng) (al : W64) (na d : Nat) (c : Stream) :
    MemoryCanonical (s.moveDense e al na d c).1 := by
  unfold State.moveDense
  split
  · split
    · exact h
    split
    · exact canon_leadStream h _ _ _
    · rw [tookDense_fst]
      exact canon_readEntry h _ _ _ _
  · split <;> exact h

theorem canon_restB (h : MemoryCanonical s) (e : Eng) (bl : W64) (nb : Nat) (c : Stream) : MemoryCanonical (s.restB e bl nb c).1 := by
  have hpeek := canon_peekEntry h e false bl c.ib
  unfold State.restB
  split
  · exact h
  split
  · next s1 r hr =>
    have h1 : MemoryCanonical (tookB c s1 r).1 := (tookB_fst c s1 r).symm ▸ canon_fst hr hpeek
    split
    · next hr2 => exact canon_fst hr2 h1
    · exact h1
  · next hr => exact canon_fst hr hpeek

theorem canon_restA (h : MemoryCanonical s) (e : Eng) (al : W64) (c : Stream) : MemoryCanonical (s.restA e al c).1 := by
  have hpeek := canon_peekEntry h e true al c.ia
  unfold State.restA
  split
  · exact h
  split
  · next s1 r hr =>
    rw [tookA_fst]
    exact canon_fst hr hpeek
  · next hr => exact canon_fst hr hpeek

theorem canon_moveList (h : MemoryCanonical s) (e : Eng) (al bl : W64) (na nb : Nat) (c : Stream) :
    MemoryCanonical (s.moveList e al bl na nb c).1 := by
  unfold State.moveList
  split
  · split
    · exact canon_restB h _ _ _ _
    split
    · exact canon_leadStream h _ _ _
    split
    · exact canon_restA h _ _ _
    · rw [tookA_fst]
      exact canon_readEntry h _ _ _ _
  split
  · exact h
  split
  · exact h
  split
  · split
    · exact h
    split
    · exact h
    split <;> exact h
  split
  · rw [tookB_fst]
    exact canon_readEntry h _ _ _ _
  · split <;> exact h

theorem canon_runStream {move : State → Stream → State × (Stream ⊕ StreamRes)} (hm : ∀ u c, MemoryCanonical u → MemoryCanonical (move u c).1) :
    ∀ (fuel : Nat) {s : State} (c : Stream), MemoryCanonical s → MemoryCanonical (State.runStream move fuel s c).1
  | 0, _, _, h => h
  | fuel + 1, s, c, h => by
    unfold State.runStream
    split
    · next hr => exact canon_runStream hm fuel _ (canon_fst hr (hm s c h))
    · next hr => exact canon_fst hr (hm s c h)

theorem canon_stepStrm (h : MemoryCanonical s) (op : Nat) (j : JoinOp) (p : Partition) (dense : Bool) (al bl v2 v3 : W64) (d : Nat) :
    MemoryCanonical (s.stepStrm op j p dense al bl v2 v3 d).1 := by
  unfold State.stepStrm
  extract_lets e cols move
  have hmove : ∀ u c, MemoryCanonical u → MemoryCanonical (move u c).1 := by
    intro u c hu
    unfold move
    split
    · exact canon_moveDense hu _ _ _ _ _
    · exact canon_moveList hu _ _ _ _ _ _
  have hrun := canon_runStream hmove (4 * (strmA v2 + cols) + 8) j.stream h
  clear_value move
  split
  · exact h
  split
  · exact h
  split
  · next hr =>
    exact canon_product (canon_fst hr hrun) _ _ _ _ _
  all_goals
    next hr => exact canon_fst hr hrun

theorem canon_stepAcc (h : MemoryCanonical s) (op : Nat) (j : JoinOp) (p : Partition) (ts : List (Nat × W64 × W32)) :
    MemoryCanonical (s.stepAcc op j p ts).1 := by
  unfold State.stepAcc
  split
  · exact canon_fileProduct h _ _ _ _ _
  · exact h

theorem canon_drainReady (h : MemoryCanonical s) (e : Eng) (a align n : Nat) : MemoryCanonical (s.drainReady e a align n).1 := by
  unfold State.drainReady
  split
  · exact h
  split
  · exact h
  split
  · exact canon_engNote h _ _ _ _ _
  · exact canon_engPark h _ _ _ _ _ _ _
  · exact h
  · exact h

theorem canon_drainWrites (e : Eng) : ∀ (ws : List (Nat × List Byte)) {s : State}, MemoryCanonical s → MemoryCanonical (s.drainWrites e ws).1
  | [], _, h => h
  | w :: ws, s, h => by
    have hwrite := canon_engWrite h e (BitVec.ofNat 64 w.1) w.2
    unfold State.drainWrites
    split
    · next s1 _ _ hr =>
      have hrest := canon_drainWrites e ws (canon_fst hr hwrite)
      split
      · exact h
      · exact hrest
    · next hr => exact canon_fst hr hwrite

theorem canon_drainTuple (h : MemoryCanonical s) (e : Eng) (keys : Option Nat) (vals k : Nat) (v : List W32) :
    MemoryCanonical (s.drainTuple e keys vals k v).1 := by
  unfold State.drainTuple
  extract_lets bytes
  have hvals := canon_drainReady h e vals 4 bytes.length
  split
  · next s1 hr =>
    have h1 := canon_fst hr hvals
    have hkeys : MemoryCanonical (match keys with | some a => s1.drainReady e a 8 8 | none => (s1, JStep.done)).1 := by
      split
      · exact canon_drainReady h1 _ _ _ _
      · exact h1
    split
    · next s2 hr2 =>
      have hw := fun ws => canon_drainWrites e ws (canon_fst hr2 hkeys)
      split
      · next hr3 => exact canon_fst hr3 (hw _)
      · exact hw _
    · exact hkeys
  · exact hvals

theorem canon_stepDrain (h : MemoryCanonical s) (op : Nat) (j : JoinOp) (p : Partition) (off : Nat) (keys vals n : W64) :
    MemoryCanonical (s.stepDrain op j p off keys vals n).1 := by
  unfold State.stepDrain
  extract_lets e
  split
  · extract_lets r
    split
    · exact h
    split
    · exact h
    split <;> exact h
  · extract_lets em at' goes
    have hgoes : ∀ k x, MemoryCanonical x.1 → MemoryCanonical (goes k x).1 := fun _ _ hx => hx
    clear_value goes
    split
    · exact h
    next k _ =>
    have hval := canon_keyValue h e p (BitVec.ofNat 64 k)
    split
    · split
      · next hr => exact hgoes _ _ (canon_writeEnd h hr)
      · exact h
    split
    · exact h
    split
    · exact h
    split
    · next hr =>
      have h1 := canon_fst hr hval
      extract_lets words
      split
      · exact h1
      · exact hgoes _ _ (canon_drainTuple h1 _ _ _ _ _)
    · next hr =>
      have h1 := canon_fst hr hval
      dsimp only
      split
      · exact canon_breakPart h1 _ _ _
      · exact h1
  · exact h

theorem canon_stepJoin (h : MemoryCanonical s) (op : Nat) (j : JoinOp) : MemoryCanonical (s.stepJoin op j).1 := by
  unfold State.stepJoin
  split
  · exact canon_performOpen h _ _ _ _
  · exact h
  split
  · exact h
  split
  · exact h
  · split
    · exact h
    · exact canon_stepGet h _ _ _ _
  split
  · exact h
  split
  · split
    · exact h
    · exact canon_product h _ _ _ _ _
  · exact canon_stepStrm h _ _ _ _ _ _ _ _ _
  · exact canon_stepAcc h _ _ _ _
  · exact canon_stepDrain h _ _ _ _ _ _ _
  · exact h

theorem canon_saveJoin (h : MemoryCanonical s) (op : Nat) (r : JRes) : MemoryCanonical (s.saveJoin op r) := by
  cases r <;> exact h

theorem canon_execJoinOpStart (h : MemoryCanonical s) (op : Nat) : CanonNext (execJoinOpStart op s) := by
  unfold execJoinOpStart
  split
  · split
    · exact canonNext h
    · exact canonNext (canon_startJoin h _ _)
    · exact canonNext (canon_ite h (canon_saveJoin (canon_stepJoin h _ _) _ _))
    · exact canonNext h
  · exact canonNext h

theorem canon_runJoin : ∀ (fuel : Nat) {s : State} (op : Nat) (j : JoinOp), MemoryCanonical s → MemoryCanonical (State.runJoin fuel s op j)
  | 0, _, _, _, h => h
  | fuel + 1, s, op, j, h => by
    have hstep := canon_stepJoin h op j
    unfold State.runJoin
    split
    · next hr => exact canon_runJoin fuel op _ (canon_fst hr hstep)
    · next hr => exact canon_saveJoin (canon_fst hr hstep) _ _

theorem canon_settleJoin (h : MemoryCanonical s) (op : Nat) (j : JoinOp) (tok : W64) : MemoryCanonical (s.settleJoin op j tok) := by
  unfold State.settleJoin
  extract_lets status s1
  have h1 : MemoryCanonical s1 := h
  clear_value s1
  split
  · exact canon_ite h1 h1
  · extract_lets s2
    have h2 : MemoryCanonical s2 := by
      unfold s2
      split <;> exact h1
    exact canon_ite h2 h2
  · exact h1
  · exact h1

theorem canon_endJoin (h : MemoryCanonical s) (op : Nat) (j : JoinOp) (tok : W64) : MemoryCanonical (s.endJoin op j tok) := by
  unfold State.endJoin
  extract_lets tok1 s1
  have h1 : MemoryCanonical s1 := canon_settleJoin h _ _ _
  clear_value s1
  split <;> exact h1

theorem canon_execJoinOpComplete (h : MemoryCanonical s) (op : Nat) : CanonNext (execJoinOpComplete op s) := by
  unfold execJoinOpComplete
  split
  · refine canonNext_ite ?_ (canonNext h)
    extract_lets s1
    have h1 : MemoryCanonical s1 := canon_ite h (canon_runJoin _ _ _ h)
    clear_value s1
    split
    · split
      · exact canonNext (canon_ite h1 (canon_endJoin h1 _ _ _))
      · exact canonNext h1
    · exact canonNext h1
  · exact canonNext h

end Sys2Proof
end

section
/-!
SUPPORT. Every operation keeps the canonical form of memory: the fetch unit and work-lists.
-/

namespace Sys2Proof

open Machine

variable {s : State}

/-! ## The fetch unit -/

theorem canon_queueFetch (h : MemoryCanonical s) {c : Ctx} {f : FetchOp} {reads writes : List Range} {t : State}
    (ht : s.queueFetch c f reads writes = some t) : MemoryCanonical t := by
  unfold State.queueFetch at ht
  split at ht
  · cases ht
  · rw [← Option.some.inj ht]
    exact h

theorem canon_execFch (h : MemoryCanonical s) (hd : Head) : CanonNext (execFch hd s) := by
  refine canon_issue h fun c => canonEffect_outsideTx h (fun c u hu => ?_) c
  split
  extract_lets iss rows settled _ _ _
  refine canonEffect_ite hu (canonEffect_ite trivial ?_)
  split
  · trivial
  have hsettled : ∀ t, settled = some t → MemoryCanonical t := by
    intro t ht
    unfold settled at ht
    split at ht
    · exact canon_settleScr hu ht
    · exact Option.some.inj ht ▸ hu
  clear_value settled
  split
  · trivial
  · next s1 =>
    refine canonEffect_joinEffect fun t ht => ?_
    obtain ⟨v, hv, rfl⟩ := Option.map_eq_some_iff.1 ht
    exact (canon_queueFetch (hsettled s1 rfl) hv :)

theorem canon_execFetchOpStart (h : MemoryCanonical s) (op : Nat) : CanonNext (execFetchOpStart op s) := by
  unfold execFetchOpStart
  split
  · split
    · split
      · exact canonNext (canon_ite (canon_readSurface h _ _ _) h)
      · exact canonNext h
    · exact canonNext (canon_startFetch h _ _)
  · exact canonNext h

theorem canon_formFails (h : MemoryCanonical s) (e : Eng) (a : Nat) : MemoryCanonical (s.formFails e a).1 := by
  unfold State.formFails
  split
  · exact h
  · exact canon_engPark h _ _ _ _ _ _ _
  · exact canon_engNote h _ _ _ _ _
  · exact canon_engNote h _ _ _ _ _

theorem canon_elemForm (h : MemoryCanonical s) (e : Eng) (d : Nat) (x : List Nat) : MemoryCanonical (s.elemForm e d x).1 := by
  unfold State.elemForm
  extract_lets base at' unread missing
  split
  · exact h
  · exact canon_askTables h _ _ _
  · exact canon_formFails h _ _

theorem canon_fetchPiece (h : MemoryCanonical s) (e : Eng) (pick a n : Nat) : MemoryCanonical (s.fetchPiece e pick a n).1 := by
  have hread : ∀ va, MemoryCanonical (s.engRead e va n).1 := fun va => canon_engRead h e va n
  unfold State.fetchPiece
  extract_lets va
  split
  · extract_lets copy cached
    split
    · exact (canon_useEntry h e.mmu e.iss.asid a .read :)
    · split
      · next hr =>
        have h1 := canon_fst hr (hread va)
        extract_lets s2
        have h2 : MemoryCanonical s2 := canon_ite h1 h1
        exact canon_ite h2 h2
      · exact hread va
  · exact hread va

theorem canon_fetchBytes (h : MemoryCanonical s) (e : Eng) (pick a n : Nat) : MemoryCanonical (s.fetchBytes e pick a n).1 := by
  unfold State.fetchBytes
  extract_lets k
  have hfirst := canon_fetchPiece h e pick a k
  split
  · exact canon_fetchPiece h _ _ _ _
  split
  · next s1 _ _ hr =>
    have hrest := canon_fetchPiece (canon_fst hr hfirst) e (pick + 2) (a + k) (n - k)
    split
    · next hr2 => exact canon_fst hr2 hrest
    · exact hrest
  · exact hfirst

theorem canon_elemCode (h : MemoryCanonical s) (e : Eng) (pick d fmt geo : Nat) (x : List Nat) :
    MemoryCanonical (s.elemCode e pick d fmt geo x).1 := by
  have hbytes : ∀ {u}, MemoryCanonical u → ∀ pick a n {r}, u.fetchBytes e pick a n = r → MemoryCanonical r.1 :=
    fun hu _ _ _ _ hr => hr ▸ canon_fetchBytes hu _ _ _ _
  unfold State.elemCode
  extract_lets a es
  split
  split
  · split
    · next hr =>
      have h1 := hbytes h _ _ _ hr
      split
      · next hr2 => exact hbytes h1 _ _ _ hr2
      · next hr2 => exact hbytes h1 _ _ _ hr2
    · next hr => exact hbytes h _ _ _ hr
  · split
    · next hr =>
      have h1 := hbytes h _ _ _ hr
      split
      · exact h1
      extract_lets at'
      split
      · exact h1
      split
      · next hr2 => exact hbytes h1 _ _ _ hr2
      · next hr2 => exact hbytes h1 _ _ _ hr2
    · next hr => exact hbytes h _ _ _ hr
  · split
    · exact h
    split
    · next hr => exact hbytes h _ _ _ hr
    · next hr => exact hbytes h _ _ _ hr

theorem canon_fetchLane (h : MemoryCanonical s) (op : Nat) (f : FetchOp) (d : Nat) (ty : Ty) (l : Nat) (xs : List Int) :
    MemoryCanonical (s.fetchLane op f d ty l xs) := by
  unfold State.fetchLane
  extract_lets e fail give stop
  have hfail : ∀ u st, MemoryCanonical u → MemoryCanonical (fail u st) := fun _ _ hu => hu
  have hgive : ∀ u v, MemoryCanonical u → MemoryCanonical (give u v) := fun _ _ hu => hu
  have hstop : ∀ u r, MemoryCanonical u → MemoryCanonical (stop u r) := by
    intro u r hu
    unfold stop
    split <;> exact hu
  clear_value stop give fail
  split
  · exact hfail _ _ h
  · exact hgive _ _ h
  · next x _ =>
    have hform := canon_elemForm h e d x
    split
    · next s1 _ fmt geo hr =>
      have h1 := canon_fst hr hform
      have hcode := canon_elemCode h1 e (4 * l) d fmt geo x
      split
      · exact hfail _ _ h1
      split
      · next hr2 => exact hgive _ _ (canon_fst hr2 hcode)
      · next hr2 => exact hgive _ _ (canon_fst hr2 hcode)
      · next hr2 => exact hstop _ _ (canon_fst hr2 hcode)
    · next hr => exact hstop _ _ (canon_fst hr hform)

theorem canon_stepFetch (h : MemoryCanonical s) (op l : Nat) : MemoryCanonical (s.stepFetch op l) := by
  unfold State.stepFetch
  split
  · split
    · split
      · exact canon_ite h (canon_fetchLane h _ _ _ _ _ _)
      · exact h
    · exact h
  · exact h

theorem canon_execFetchOpComplete (h : MemoryCanonical s) (op : Nat) : CanonNext (execFetchOpComplete op s) := by
  unfold execFetchOpComplete
  split
  · split
    · extract_lets lanes s1
      have h1 : MemoryCanonical s1 := canon_foldl (fun u l hu => canon_stepFetch hu op l) _ h
      clear_value s1
      split
      · exact canonNext (canon_ite h1 h1)
      · exact canonNext h1
    · exact canonNext h
  · exact canonNext h

theorem canon_execDgrow (h : MemoryCanonical s) (hd : Head) : CanonNext (execDgrow hd s) := by
  refine canon_issue h fun c => canonEffect_outsideTx h (fun c u hu => ?_) c
  split
  extract_lets iss
  exact canonEffect_ite hu (canonEffect_joinEffect fun t ht => canon_queueFetch hu ht)

theorem canon_growWrite (h : MemoryCanonical s) (e : Eng) (tile st : W64) (r : List Byte × Option (List Byte)) :
    MemoryCanonical (s.growWrite e tile st r).1 := by
  unfold State.growWrite
  split
  · exact canon_engWrite h _ _ _
  · next w _ =>
    split
    · have hstate := canon_engWrite h e st r.1
      split
      · next s1 _ _ hr =>
        have htile := canon_engWrite (canon_fst hr hstate) e tile w
        split
        · next hr2 => exact canon_fst hr2 htile
        · exact h
      · exact hstate
    · exact canon_engWrite h _ _ _

theorem canon_growStop (h : MemoryCanonical s) (op : Nat) (f : FetchOp) (r : EngRes) : MemoryCanonical (s.growStop op f r) := by
  unfold State.growStop
  split <;> exact h

theorem canon_execDgrowComplete (h : MemoryCanonical s) (op : Nat) : CanonNext (execDgrowComplete op s) := by
  have hread : ∀ {u}, MemoryCanonical u → ∀ e a n {r}, u.engRead e a n = r → MemoryCanonical r.1 :=
    fun hu _ _ _ _ hr => hr ▸ canon_engRead hu _ _ _
  unfold execDgrowComplete
  split
  · split
    · extract_lets e
      refine canonNext_ite (canonNext h) (canonNext_ite (canonNext h) (canonNext_ite (canonNext h) ?_))
      split
      · next hr1 =>
        have h1 := hread h _ _ _ hr1
        split
        · next hr2 =>
          have h2 := hread h1 _ _ _ hr2
          split
          · next s3 _ _ hr3 =>
            have h3 : MemoryCanonical s3 := hread h2 _ _ _ hr3
            refine canonNext_ite (canonNext h3) ?_
            extract_lets out
            have hgrow := fun tile st => canon_growWrite h3 e tile st out
            split
            · next hr4 =>
              have h4 := canon_fst hr4 (hgrow _ _)
              exact canonNext (canon_ite h4 h4)
            · next hr4 => exact canonNext (canon_growStop (canon_fst hr4 (hgrow _ _)) _ _ _)
          · next hr3 => exact canonNext (canon_growStop (hread h2 _ _ _ hr3) _ _ _)
        · next hr2 => exact canonNext (canon_growStop (hread h1 _ _ _ hr2) _ _ _)
      · next hr1 => exact canonNext (canon_growStop (hread h _ _ _ hr1) _ _ _)
    · exact canonNext (canon_ite h h)
    · exact canonNext h
  · exact canonNext h

/-! ## Work-lists -/

/-- The state that a work-list operation leaves is canonical. -/
def CanonWl : WlRes → Prop
  | .ok t _ _ => MemoryCanonical t
  | _ => True

theorem canonWl_bind {r : WlRes} {f : State → Wl → List W32 → WlRes} (hr : CanonWl r) (hf : ∀ u w xs, MemoryCanonical u → CanonWl (f u w xs)) :
    CanonWl (r.bind f) := by
  cases r with
  | ok u w xs => exact hf u w xs hr
  | trap | park | wait | walk => trivial

theorem canonWl_ite {c : Prop} [Decidable c] {a b : WlRes} (ha : CanonWl a) (hb : CanonWl b) : CanonWl (if c then a else b) := by
  split <;> assumption

theorem canonWl_blockLook {e : Eng} {u : Use} {a : W64} {go : List Chunk → List (Nat × Nat) → WlRes} (hgo : ∀ cs ps, CanonWl (go cs ps)) :
    CanonWl (s.blockLook e u a go) := by
  unfold State.blockLook
  refine canonWl_ite trivial ?_
  split
  · trivial
  · trivial
  · trivial
  · exact hgo _ _

theorem canonWl_spillTail (h : MemoryCanonical s) (e : Eng) (w : Wl) : CanonWl (s.spillTail e w) := by
  unfold State.spillTail
  extract_lets moved a
  split
  · split
    · next hr => exact canonWl_ite (canon_writeEnd h hr) trivial
    · trivial
  · split
    · trivial
    · refine canonWl_blockLook fun cs ps => canonWl_ite trivial ?_
      split
      · next hr => exact canon_chunksPut e (canon_engUse h _ _ _) hr
      · trivial

theorem canon_putSlot (team : Nat) (w : Wl) (b : Nat) : ∀ (xs : List W32) {s : State} (j : Nat), MemoryCanonical s →
    MemoryCanonical (s.putSlot team w b j xs)
  | [], _, _, h => h
  | x :: xs, s, j, h => canon_putSlot team w b xs (s := s.setScrWord team (w.ringAt b j) x) (j + 1) h

theorem canonWl_loadFront (h : MemoryCanonical s) (e : Eng) (va : W64) (w : Wl) : CanonWl (s.loadFront e va w) := by
  unfold State.loadFront
  extract_lets a
  refine canonWl_ite trivial (canonWl_blockLook fun cs _ => ?_)
  have hread := canon_engRead h e a 4096
  split
  · next hr => exact canon_putSlot _ _ _ _ _ (canon_fst hr hread)
  · trivial
  · trivial

theorem canonWl_makeRoom (h : MemoryCanonical s) (e : Eng) (w : Wl) (va : W64) : CanonWl (s.makeRoom e w va) := by
  unfold State.makeRoom
  extract_lets roomR roomS
  refine canonWl_ite ?_ (canonWl_ite (canonWl_spillTail h _ _) (canonWl_ite ?_ trivial))
  · unfold State.frontTail
    split
    · trivial
    · exact canon_putSlot _ _ _ _ _ h
  · exact canonWl_bind (canonWl_loadFront h _ _ _) fun u w _ hu => canonWl_spillTail hu _ _

theorem canonWl_pushItem (h : MemoryCanonical s) (e : Eng) (va : W64) (w : Wl) (x : W32) : CanonWl (s.pushItem e va w x) :=
  canonWl_ite trivial (canonWl_bind (canonWl_ite h (canonWl_makeRoom h _ _ _)) fun _ _ _ hu => hu)

theorem canonWl_pushItems (e : Eng) (va : W64) : ∀ (xs : List W32) {s : State} (w : Wl), MemoryCanonical s → CanonWl (s.pushItems e va w xs)
  | [], _, _, h => h
  | x :: xs, s, w, h => by
    have hone := canonWl_pushItem h e va w x
    unfold State.pushItems
    split
    · next hr =>
      rw [hr] at hone
      exact canonWl_pushItems e va xs _ hone
    · exact hone

theorem canonWl_popItem (h : MemoryCanonical s) (e : Eng) (va : W64) (w : Wl) : CanonWl (s.popItem e va w) := by
  unfold State.popItem
  refine canonWl_ite trivial (canonWl_bind (canonWl_ite (canonWl_loadFront h _ _ _) h) fun u w xs hu => ?_)
  extract_lets slot
  split
  · trivial
  · exact hu

theorem canonWl_popItems (e : Eng) (va : W64) : ∀ (n : Nat) {s : State} (w : Wl), MemoryCanonical s → CanonWl (s.popItems e va w n)
  | 0, _, _, h => h
  | n + 1, _, w, h => by
    unfold State.popItems
    refine canonWl_bind (canonWl_popItem h e va w) fun u w1 xs hu => ?_
    exact canonWl_bind (canonWl_popItems e va n w1 hu) fun v w2 ys hv => hv

theorem canon_settleWl (h : MemoryCanonical s) {c : Ctx} {hd : Nat} {t : State} (ht : s.settleWl c hd = some t) : MemoryCanonical t := by
  obtain ⟨u, hu, ht⟩ := Option.bind_eq_some_iff.1 ht
  exact canon_settleScr (canon_settleScr h hu) ht

theorem canon_execWini (h : MemoryCanonical s) (hd : Head) : CanonNext (execWini hd s) := by
  refine canon_issue h fun c => canonEffect_outsideTx h (fun c u hu => ?_) c
  extract_lets va
  split
  refine canonEffect_ite hu (canonEffect_ite trivial (canonEffect_onScratch hu _ _ _ _ fun w off t hw => ?_))
  extract_lets hd base
  refine canonEffect_ite trivial ?_
  split
  · trivial
  split
  · trivial
  · next hs => exact (canon_settleWl hw hs :)

theorem canonEffect_onList (h : MemoryCanonical s) (a : Operand) (c : Ctx) {go : State → W64 → Wl → Effect}
    (hgo : ∀ u va w, MemoryCanonical u → CanonEffect (go u va w)) : CanonEffect (onList a c s go) := by
  unfold onList
  extract_lets va
  refine canonEffect_ite h (canonEffect_ite trivial (canonEffect_onScratch h _ _ _ _ fun w off t hw => ?_))
  extract_lets hd base
  refine canonEffect_ite trivial ?_
  split
  · trivial
  split
  · next hs => exact hgo _ _ _ (canon_settleWl hw hs)
  · trivial

theorem canonEffect_wlEffect (h : MemoryCanonical s) (c : Ctx) {r : WlRes} (hr : CanonWl r) {done : State → Wl → List W32 → State}
    (hdone : ∀ u w xs, MemoryCanonical u → MemoryCanonical (done u w xs)) : CanonEffect (wlEffect c s r done) := by
  unfold wlEffect
  extract_lets e
  cases r with
  | ok u w xs => exact (hdone (u.modTeam c.g.team _) w xs hr :)
  | trap cause a key mac =>
    exact canonEffect_ite trivial (canon_trapAt (s := (s.engNote e a 4096 key mac).dropGot e.op) (canon_engNote h e a 4096 key mac) _ _ _ _)
  | park u a l b n => exact (canon_engPark h e u a 4096 l b n :)
  | wait cs bs =>
    refine canonEffect_ite (canon_askRemote h e cs) ?_
    split
    · next ht => exact canon_chunksPut e h ht
    · trivial
  | walk a => exact canon_askWalks h e a 4096

theorem canon_execWpush (h : MemoryCanonical s) (hd : Head) : CanonNext (execWpush hd s) := by
  refine canon_issue h fun c => canonEffect_outsideTx h (fun c u hu => ?_) c
  refine canonEffect_onList hu _ _ fun u va w hu => canonEffect_ite trivial ?_
  split
  · trivial
  · next hs =>
    have h1 := canon_releaseAll hu hs
    exact canonEffect_wlEffect h1 _ (canonWl_pushItems _ _ _ _ h1) fun _ _ _ hv => hv

theorem canon_execWpop (h : MemoryCanonical s) (hd : Head) : CanonNext (execWpop hd s) := by
  refine canon_issue h fun c => canonEffect_outsideTx h (fun c u hu => ?_) c
  refine canonEffect_onList hu _ _ fun u va w hu => ?_
  extract_lets n
  refine canonEffect_wlEffect hu _ (canonWl_popItems _ _ _ _ hu) fun v _ xs hv => ?_
  exact (canon_ite (c := n = 0) (a := v) (b := v.acquireAt c.g.core) hv hv :)

theorem canon_insertAll (team hd : Nat) : ∀ (xs : List (Nat × W32)) {s : State}, MemoryCanonical s → MemoryCanonical (s.insertAll team hd xs).1
  | [], _, h => h
  | (l, x) :: xs, s, h => by
    unfold State.insertAll
    split
    · exact canon_insertAll team hd xs h
    split
    · next i _ => exact canon_insertAll team hd xs (s := s.setScrWord team (wlHoff hd + 4 * i) x) h
    · exact canon_insertAll team hd xs h
    · exact h

theorem canon_execWins (h : MemoryCanonical s) (hd : Head) : CanonNext (execWins hd s) := by
  refine canon_issue h fun c => canonEffect_outsideTx h (fun c u hu => ?_) c
  refine canonEffect_onList hu _ _ fun u va w hu => ?_
  extract_lets lanes
  refine canonEffect_ite trivial ?_
  split
  · trivial
  · next hs =>
    have h1 := canon_releaseAll hu hs
    have hins := fun xs => canon_insertAll c.g.team w.hd xs h1
    split
    · trivial
    · trivial
    · next hr =>
      have h2 := canon_fst hr (hins _)
      refine canonEffect_ite trivial (canonEffect_wlEffect h1 _ (canonWl_pushItems _ _ _ _ h2) fun _ _ _ hv => ?_)
      exact hv

theorem canon_execWstat (h : MemoryCanonical s) (hd : Head) : CanonNext (execWstat hd s) := by
  refine canon_issue h fun c => canonEffect_outsideTx h (fun c u hu => ?_) c
  refine canonEffect_onList hu _ _ fun u va w hu => ?_
  exact hu

theorem canon_execTopk (h : MemoryCanonical s) (hd : Head) : CanonNext (execTopk hd s) := by
  refine canon_issue h fun c => ?_
  exact canonEffect_ite h (canonEffect_ite trivial (canonEffect_ite trivial h))

end Sys2Proof
end

section
/-!
SUPPORT. Every operation keeps the canonical form of memory: system instructions and memory events.
-/

namespace Sys2Proof

open Machine

variable {s : State}

/-! ## Traps, signatures and the service group -/

theorem canon_execSret (h : MemoryCanonical s) (hd : Head) : CanonNext (execSret hd s) := by
  refine canon_issue h fun c => canonEffect_ite h ?_
  exact (canon_returnTrap h c.gid c.g :)

theorem canonEffect_sigCheck (h : MemoryCanonical s) (imm : BitVec 19) (c : Ctx) : CanonEffect (sigCheck imm c s) := by
  unfold sigCheck
  refine canonEffect_ite h (canonEffect_ite trivial (canonEffect_ite ?_ h))
  exact canon_failOrRestart h _ _ _ fun _ hu => hu

theorem canon_execSigchk (h : MemoryCanonical s) (hd : Head) : CanonNext (execSigchk hd s) := by
  refine canon_issue h fun c => ?_
  split
  · exact canonEffect_ite h (canonEffect_sigCheck h _ _)
  · exact h

theorem canon_execHalt (h : MemoryCanonical s) (hd : Head) : CanonNext (execHalt hd s) := by
  refine canon_issue h fun c => ?_
  exact canonEffect_ite h (canonEffect_ite h h)

theorem canon_execHaltWake (h : MemoryCanonical s) (gid : Nat) : CanonNext (execHaltWake gid s) := by
  unfold execHaltWake
  split
  · split
    · exact canonNext_ite (canonNext h) (canonNext h)
    · exact canonNext h
  · exact canonNext h

theorem canon_execZget (h : MemoryCanonical s) (hd : Head) : CanonNext (execZget hd s) := by
  refine canon_issue h fun c => canonEffect_ite h ?_
  split
  · exact h
  · next r _ =>
    refine canonEffect_ite h ?_
    extract_lets s1
    have h1 : MemoryCanonical s1 := h
    exact canon_ite (a := s1.acquireAt c.g.core) h1 h1

/-! ## Pre-emption requests and checkpoints -/

theorem canon_askTeam (h : MemoryCanonical s) {hold : Bool} {t : Nat} {u : State} (hu : s.askTeam hold t = some u) : MemoryCanonical u := by
  unfold State.askTeam at hu
  split at hu
  · exact Option.some.inj hu ▸ h
  split at hu
  · exact Option.some.inj hu ▸ h
  split at hu
  · rw [← Option.some.inj hu]
    exact h
  · obtain ⟨a, _, rfl⟩ := Option.map_eq_some_iff.1 hu
    exact h

theorem canon_askTeams : ∀ {ts : List Nat} {s : State}, MemoryCanonical s → ∀ {u : State}, s.askTeams ts = some u → MemoryCanonical u
  | [], _, h, _, hu => Option.some.inj hu ▸ h
  | t :: ts, s, h, u, hu => by
    unfold State.askTeams at hu
    split at hu
    · next hs => exact canon_askTeams (canon_askTeam h hs) hu
    · cases hu

theorem canon_writePrmt (h : MemoryCanonical s) (v : W64) : MemoryCanonical (s.writePrmt v) := by
  unfold State.writePrmt
  -- the heap's size stays a variable: the kernel would compute with it
  generalize s.heapSize = size
  revert size
  refine id fun size => ?_
  extract_lets keep _ s1 names
  have h1 : MemoryCanonical s1 := canon_of_mem rfl h
  clear_value s1
  refine canon_ite h1 ?_
  split
  · next u hs =>
    split at hs
    · cases hs
    · exact canon_of_mem (s := u) rfl (canon_askTeams h1 hs)
  · exact canon_of_mem rfl h

theorem canon_putBack (h : MemoryCanonical s) (gens : List Nat) : MemoryCanonical (s.putBack gens) := by
  refine canon_foldl (fun u g hu => ?_) _ h
  dsimp only
  split
  · exact canon_ite hu hu
  · exact hu

theorem canon_writeRun (h : MemoryCanonical s) (who : Agent) (slot pa : Nat) (bs : List Byte) : MemoryCanonical (s.writeRun who slot pa bs) :=
  (steady_writeRun s who slot pa bs).canon h

theorem canon_ckFinish (h : MemoryCanonical s) : MemoryCanonical s.ckFinish := by
  unfold State.ckFinish
  split
  · refine canon_ite h ?_
    extract_lets _ _ s1
    have h1 : MemoryCanonical s1 := canon_of_mem rfl h
    clear_value s1
    exact canon_ite (canon_noteReady (canon_putBack h1 _)) (canon_writeRun h1 _ _ _ _)
  · exact h

theorem canon_beginCheckpoint (h : MemoryCanonical s) (man : Nat) : MemoryCanonical (s.beginCheckpoint man) := by
  unfold State.beginCheckpoint
  extract_lets names
  split
  · next s1 hs =>
    exact canon_ckFinish (canon_of_mem (s := s1) rfl (canon_askTeams h hs))
  · exact canon_of_mem rfl h

theorem canon_beginRestore (h : MemoryCanonical s) (man : Nat) : MemoryCanonical (s.beginRestore man) := by
  unfold State.beginRestore
  extract_lets _ busy _ u s1 _
  have h1 : MemoryCanonical s1 := canon_of_mem (s := u) rfl (canon_poolReads h _)
  clear_value s1
  refine canon_ite (canon_of_mem rfl h) ?_
  split
  · exact canon_of_mem rfl h1
  · extract_lets names s2
    have h2 : MemoryCanonical s2 := canon_foldl (f := fun s t => s.modTeam t _) (fun _ _ hu => hu) _ h1
    clear_value s2
    exact canon_ckFinish (canon_of_mem rfl h2)

theorem canon_writeCkctl (h : MemoryCanonical s) (v : W64) : MemoryCanonical (s.writeCkctl v) := by
  unfold State.writeCkctl
  extract_lets old keep _ s1 man
  have h1 : MemoryCanonical s1 := canon_of_mem rfl h
  clear_value s1
  refine canon_ite h1 ?_
  split
  · exact canon_beginCheckpoint h1 _
  · exact canon_beginRestore h1 _
  · exact h1

theorem canon_ctlWrite (h : MemoryCanonical s) (gid : Nat) (g : Group) (r : CtlReg) (v : W64) : MemoryCanonical (s.ctlWrite gid g r v) := by
  cases r with
  | prmt => exact canon_writePrmt h v
  | ckctl => exact canon_writeCkctl h v
  | log b off => exact canon_ite h (canon_ite h h)
  | _ => exact h

theorem canon_execZset (h : MemoryCanonical s) (hd : Head) : CanonNext (execZset hd s) := by
  refine canon_issue h fun c => canonEffect_ite h ?_
  split
  · exact h
  · exact canonEffect_ite h (canon_ctlWrite h _ _ _ _)

/-! ## Translation, replay and ownership -/

theorem canon_execTlbi (h : MemoryCanonical s) (hd : Head) : CanonNext (execTlbi hd s) := by
  refine canon_issue h fun c => ?_
  exact canonEffect_ite h h

theorem canon_execTlbiComplete (h : MemoryCanonical s) (op : Nat) : CanonNext (execTlbiComplete op s) := by
  unfold execTlbiComplete
  split
  · exact canonNext_ite (canonNext h) (canonNext h)
  · exact canonNext h

theorem canon_replayGroup (h : MemoryCanonical s) (gid : Nat) (g : Group) : MemoryCanonical (s.replayGroup gid g) := by
  unfold State.replayGroup
  split
  · exact h
  · exact canon_reissueLoad h _ _
  · exact h

theorem canon_replayDie (h : MemoryCanonical s) (die : Nat) : MemoryCanonical (s.replayDie die) := by
  unfold State.replayDie
  extract_lets _ s1
  have h1 : MemoryCanonical s1 := h
  clear_value s1
  exact canon_foldl (fun u e hu => canon_replayGroup hu e.1 e.2) _ h1

theorem canon_execReplay (h : MemoryCanonical s) (hd : Head) : CanonNext (execReplay hd s) := by
  refine canon_issue h fun c => canonEffect_ite h ?_
  exact (canon_replayDie h (dieOf c.g.core) :)

theorem canon_execOwnset (h : MemoryCanonical s) (hd : Head) : CanonNext (execOwnset hd s) := by
  refine canon_issue h fun c => canonEffect_ite h ?_
  extract_lets a n
  refine canonEffect_ite trivial (canonEffect_ite trivial ?_)
  split
  · trivial
  · exact h

theorem canon_writeBack (h : MemoryCanonical s) (sec : Nat) : MemoryCanonical (s.writeBack sec) := (quiet_writeBack s sec).canon h

theorem canon_flushRegion (h : MemoryCanonical s) (r asid : Nat) : MemoryCanonical (s.flushRegion r asid) := (quiet_flushRegion s r asid).canon h

theorem canon_ownRegion (h : MemoryCanonical s) (own : Nat) (ver : Bool) (asid r : Nat) : MemoryCanonical (s.ownRegion own ver asid r) := by
  unfold State.ownRegion
  extract_lets s0 s1 s2
  have h0 : MemoryCanonical s0 := canon_foldl (fun u e hu => (quiet_revoke u _ _ _).canon hu) _ h
  have h1 : MemoryCanonical s1 := canon_foldl (fun u sec hu => canon_writeBack hu sec) _ h0
  have h2 : MemoryCanonical s2 := canon_ite (canon_flushRegion h1 _ _) h1
  exact h2

theorem canon_execOwnsetComplete (h : MemoryCanonical s) (op : Nat) : CanonNext (execOwnsetComplete op s) := by
  unfold execOwnsetComplete
  split
  · extract_lets asid s1
    have h1 : MemoryCanonical s1 := canon_foldl (fun u r hu => canon_ownRegion hu _ _ _ r) _ h
    clear_value s1
    exact canonNext h1
  · exact canonNext h

/-! ## Capabilities and counters -/

theorem canon_execCaps (h : MemoryCanonical s) (hd : Head) : CanonNext (execCaps hd s) := by
  refine canon_issue h fun c => ?_
  exact canonEffect_ite h h

theorem canon_execPmc (h : MemoryCanonical s) (hd : Head) : CanonNext (execPmc hd s) := by
  refine canon_issue h fun c => ?_
  exact canonEffect_ite h (canonEffect_ite trivial (canonEffect_ite h trivial))

/-! ## Memory events -/

theorem canon_countCore (h : MemoryCanonical s) (core code asid n : Nat) : MemoryCanonical (s.countCore core code asid n) :=
  (quiet_countCore s core code asid n).canon h

theorem canon_installTlb (h : MemoryCanonical s) (m : Mmu) (e : TlbEntry) : MemoryCanonical (s.installTlb m e) := (quiet_installTlb s m e).canon h

theorem canon_execPageWalk (h : MemoryCanonical s) (core asid : Nat) (va : BitVec 64) : CanonNext (execPageWalk core asid va s) := by
  unfold execPageWalk
  refine canonNext_ite ?_ (canonNext h)
  split
  · refine canonNext_ite (canonNext h) (canonNext (canon_installTlb (canon_countCore ?_ _ _ _ _) _ _))
    exact (quiet_walkTouch s _ _ _).canon h
  · exact canonNext h

theorem canon_execL2RequestDeferred (h : MemoryCanonical s) (req : Nat) : CanonNext (execL2RequestDeferred req s) := by
  unfold execL2RequestDeferred
  split
  · exact canonNext_ite (canonNext h) (canonNext h)
  · exact canonNext h

theorem canon_execL2Fill (h : MemoryCanonical s) (sector slot : Nat) : CanonNext (execL2Fill sector slot s) := by
  unfold execL2Fill
  split
  · exact canonNext (canon_fillSector h _ _ _)
  · exact canonNext h

theorem canon_execGatherDirectReturn (h : MemoryCanonical s) (load : Nat) : CanonNext (execGatherDirectReturn load s) := by
  unfold execGatherDirectReturn
  split
  · exact canonNext (canon_foldl (fun u l hu => canon_performLane hu load l) _ h)
  · exact canonNext h

theorem canon_poisonAt (h : MemoryCanonical s) (p : ParityFault) : MemoryCanonical (s.poisonAt p) := by
  unfold State.poisonAt
  split
  · exact canon_ite h h
  · exact h
  · exact h

theorem canon_report (h : MemoryCanonical s) (unit chan asid src value : Nat) : MemoryCanonical (s.report unit chan asid src value) :=
  (quiet_report s unit chan asid src value).canon h

theorem canon_execParityRecovery (h : MemoryCanonical s) (p : ParityFault) : CanonNext (execParityRecovery p s) :=
  canonNext_ite (canonNext h) (canonNext_ite (canonNext (canon_report h _ _ _ _ _)) (canonNext (canon_report (canon_poisonAt h p) _ _ _ _ _)))

theorem canon_transfer (h : MemoryCanonical s) (r asid : Nat) : MemoryCanonical (s.transfer r asid) := (quiet_transfer s r asid).canon h

theorem canon_execOwnershipTransfer (h : MemoryCanonical s) (region : Nat) : CanonNext (execOwnershipTransfer region s) := by
  unfold execOwnershipTransfer
  split
  · exact canonNext_ite (canonNext (canon_transfer h _ _)) (canonNext h)
  · exact canonNext h

theorem canon_allDies (h : MemoryCanonical s) (bit : Nat) : MemoryCanonical (s.allDies bit) := canon_foldl (f := fun s d => s.setEvent d bit) (fun _ _ hu => hu) _ h

theorem canon_execCxlExtentEvent (h : MemoryCanonical s) (ext : ExtentEvent) : CanonNext (execCxlExtentEvent ext s) := by
  cases ext with
  | offer base size => exact canonNext_ite (canonNext (canon_allDies (s := { s with mem := _ }) h 4)) (canonNext h)
  | releaseReq base => exact canonNext_ite (canonNext (canon_allDies (s := s.setExtent base 0 1) h 4)) (canonNext h)
  | release base => exact canonNext h

end Sys2Proof
end

section
/-!
SUPPORT. Every operation keeps the canonical form of memory: packets, links and switch planes.
-/

namespace Sys2Proof

open Machine

variable {s : State}

/-! ## Packets -/

theorem canon_giveLink (h : MemoryCanonical s) (k : Nat) (p : Packet) : MemoryCanonical (s.giveLink k p) := (quiet_giveLink s k p).canon h

theorem canon_sendPacket (h : MemoryCanonical s) (p : Packet) : MemoryCanonical (s.sendPacket p) := by
  unfold State.sendPacket
  split
  · exact canon_giveLink h _ _
  · exact h

theorem canon_answer (h : MemoryCanonical s) (p : Packet) (op : PacketOp) (status : Nat) (data : List Byte) :
    MemoryCanonical (s.answer p op status data) :=
  canon_sendPacket h _

theorem canon_resolveTag (h : MemoryCanonical s) (tag : W64) (n : Nat) (err : Bool) (pa : Nat) : MemoryCanonical (s.resolveTag tag n err pa) := by
  unfold State.resolveTag
  refine canon_ite h ?_
  split
  · exact h
  · extract_lets held
    exact canon_ite h (canon_report h _ _ _ _ _)

theorem canon_takeWrite (h : MemoryCanonical s) (p : Packet) : MemoryCanonical (s.takeWrite p) := by
  unfold State.takeWrite
  extract_lets pa
  exact canon_ite (canon_answer (canon_resolveTag h _ _ _ _) _ _ _ _)
    (canon_answer (canon_resolveTag (canon_writeRun h _ _ _ _) _ _ _ _) _ _ _ _)

theorem canon_packetAlarm (h : MemoryCanonical s) (pa n slot : Nat) : MemoryCanonical (s.packetAlarm pa n slot) :=
  canon_foldl (fun _ _ hu => canon_ite (canon_fillSector hu _ _ _) hu) _ h

theorem canon_takeRead (h : MemoryCanonical s) (p : Packet) : MemoryCanonical (s.takeRead p) := by
  unfold State.takeRead
  extract_lets pa
  split
  · exact canon_answer (canon_readRun h _ _ _ _) _ _ _ _
  · exact canon_answer h _ _ _ _
  · exact canon_answer (canon_packetAlarm h _ _ _) _ _ _ _

theorem canon_otherAtomics (h : MemoryCanonical s) (cs : List (Nat × Nat × Nat)) :
    MemoryCanonical (cs.foldl (fun s x => s.otherAtomic x.1) s) :=
  canon_foldl (f := fun s (x : Nat × Nat × Nat) => s.otherAtomic x.1) (fun _ _ hu => hu) _ h

theorem canon_takeAtomicPacket (h : MemoryCanonical s) (p : Packet) : MemoryCanonical (s.takeAtomicPacket p) := by
  unfold State.takeAtomicPacket
  extract_lets op ty n b c cs looks
  refine canon_ite (canon_answer (canon_foldl (fun u x hu => canon_packetAlarm hu _ _ _) _ h) _ _ _ _) ?_
  refine canon_ite (canon_answer h _ _ _ _) ?_
  split
  next s1 bs hr =>
  have h1 := canon_fst hr (canon_readChunks (canon_otherAtomics h cs) packetAgent cs)
  exact canon_answer (canon_writeChunks packetAgent cs h1 _) _ _ _ _

theorem canon_receive (h : MemoryCanonical s) (p : Packet) : MemoryCanonical (s.receive p) := by
  unfold State.receive
  extract_lets resp pa s1
  refine canon_ite ?_ ?_
  · have h1 : MemoryCanonical s1 := canon_report h _ _ _ _ _
    exact canon_ite (canon_answer h1 _ _ _ _) h1
  split
  · split
    · exact canon_settleOut h _ _ _
    · exact h
  · split
    · exact canon_settleOut h _ _ _
    · exact h
  · exact h
  · exact h
  · exact canon_ite h (canon_resolveTag (canon_writeRun h _ _ _ _) _ _ _ _)
  · exact canon_ite (canon_answer h _ _ _ _) (canon_takeWrite h _)
  · exact canon_ite (canon_answer h _ _ _ _) (canon_takeRead h _)
  · exact canon_ite (canon_answer h _ _ _ _) (canon_takeAtomicPacket h _)

theorem canon_execPacketReceive (h : MemoryCanonical s) (p : Packet) : CanonNext (execPacketReceive p s) :=
  canonNext (canon_ite h (canon_receive h p))

/-! ## Links -/

theorem canon_countHub (h : MemoryCanonical s) (hub code : Nat) (asid : Option Nat) (n : Nat) : MemoryCanonical (s.countHub hub code asid n) :=
  (quiet_countHub s hub code asid n).canon h

theorem canon_replayLink (h : MemoryCanonical s) (k : Nat) : MemoryCanonical (s.replayLink k) := by
  unfold State.replayLink
  extract_lets x
  exact canon_ite h (canon_countHub (canon_report (s := s.setLink k x.resend) h _ _ _ _ _) _ _ _ _)

theorem canon_takeFlit (h : MemoryCanonical s) (link : Nat) (f : Flit) : MemoryCanonical (s.takeFlit link f) := by
  unfold State.takeFlit
  extract_lets x y
  split
  · exact h
  · exact canon_ite (canon_replayLink (s := s.setLink link y) h _) h
  · refine canon_ite h ?_
    split
    next z p _ =>
    split
    · exact canon_ite h (canon_receive (s := s.setLink link z) h _)
    · exact h

theorem canon_execFlitReceive (h : MemoryCanonical s) (link : Nat) (f : RawFlit) : CanonNext (execFlitReceive link f s) := by
  unfold execFlitReceive
  -- what the flit reads as stays a variable: the kernel would compute its CRC
  generalize flitRead f = read
  revert read
  refine id fun read => ?_
  extract_lets x
  refine canonNext_ite (canonNext h) ?_
  split
  · exact canonNext h
  · exact canonNext (canon_takeFlit h _ _)

theorem canon_reroute (h : MemoryCanonical s) (p : Packet) : MemoryCanonical (s.reroute p) := by
  unfold State.reroute
  extract_lets piece
  refine canon_ite ?_ ?_
  · split
    · exact canon_settleOut h _ _ _
    · exact h
  · split
    · next k _ =>
      have hgive := canon_giveLink h k p
      exact canon_of_mem (s := s.giveLink k p) rfl hgive
    · exact h

theorem canon_reroutes (h : MemoryCanonical s) (ps : List Packet) : MemoryCanonical (ps.foldl (fun s p => s.reroute p) s) :=
  canon_foldl (fun _ p hu => canon_reroute hu p) _ h

theorem canon_failLink (h : MemoryCanonical s) (k : Nat) : MemoryCanonical (s.failLink k) := by
  unfold State.failLink
  extract_lets x ps s1
  exact canon_reroutes (s := s1) h ps

theorem canon_execLinkLaneLoss (h : MemoryCanonical s) (link lane : Nat) : CanonNext (execLinkLaneLoss link lane s) := by
  unfold execLinkLaneLoss
  refine canonNext_ite (canonNext h) ?_
  extract_lets _ x s1 used
  have h1 : MemoryCanonical s1 := h
  exact canonNext_ite (canonNext h1) (canonNext_ite (canonNext h1) (canonNext_ite (canonNext (canon_failLink h1 _)) (canonNext h1)))

theorem canon_execLinkRetrainComplete (h : MemoryCanonical s) (link : Nat) (ok : Bool) (farSeq : BitVec 12) :
    CanonNext (execLinkRetrainComplete link ok farSeq s) := by
  unfold execLinkRetrainComplete
  extract_lets x _ y s1 z
  have h1 : MemoryCanonical s1 := canon_replayLink (s := s.setLink link y) h _
  exact canonNext_ite (canonNext h) (canonNext_ite (canonNext (canon_failLink h _)) (canonNext h1))

theorem canon_execPlanePortReport (h : MemoryCanonical s) (plane : Nat) (down : List Nat) : CanonNext (execPlanePortReport plane down s) := by
  unfold execPlanePortReport
  refine canonNext_ite (canonNext h) ?_
  extract_lets _ s1
  have h1 : MemoryCanonical s1 := h
  clear_value s1
  split
  next x ps _ =>
  extract_lets s2 _
  have h2 : MemoryCanonical s2 := h1
  exact canonNext (canon_reroutes (canon_foldl (fun u o hu => canon_settleOut hu o _ _) _ h2) ps)

/-! ## Switch planes -/

theorem canon_ackPiece (h : MemoryCanonical s) (p : Packet) : MemoryCanonical (s.ackPiece p) := by
  unfold State.ackPiece
  refine canon_ite h ?_
  split
  · exact canon_settleOut h _ _ _
  · exact h

theorem canon_execSwitchContribution (h : MemoryCanonical s) (plane : Nat) (p : Packet) : CanonNext (execSwitchContribution plane p s) := by
  unfold execSwitchContribution
  split
  · refine canonNext_ite (canonNext h) (canonNext (canon_ackPiece ?_ _))
    exact h
  · exact canonNext h

theorem canon_deliverTo (h : MemoryCanonical s) (g : McGroup) (off key : Nat) (data : List Byte) : MemoryCanonical (s.deliverTo g off key data) :=
  canon_foldl (fun _ _ hu => canon_receive hu _) _ h

theorem canon_execSwitchChunkDeliver (h : MemoryCanonical s) (plane chunk : Nat) : CanonNext (execSwitchChunkDeliver plane chunk s) := by
  unfold execSwitchChunkDeliver
  split
  · split
    · refine canonNext_ite (canonNext h) (canonNext (canon_deliverTo ?_ _ _ _ _))
      exact h
    · exact canonNext h
  · exact canonNext h

theorem canon_execSwitchBroadcastDeliver (h : MemoryCanonical s) (plane : Nat) (p : Packet) :
    CanonNext (execSwitchBroadcastDeliver plane p s) := by
  unfold execSwitchBroadcastDeliver
  split
  · exact canonNext_ite (canonNext h) (canonNext (canon_ackPiece (canon_deliverTo h _ _ _ _) _))
  · exact canonNext h

end Sys2Proof
end

section
/-!
SUPPORT. Every operation keeps the canonical form of memory: the pool of tasks, keys, the alarm and accesses from outside.
-/

namespace Sys2Proof

open Machine

variable {s : State}

/-! ## Submission and placement -/

theorem canon_mailboxSubmit (h : MemoryCanonical s) : MemoryCanonical s.mailboxSubmit := by
  unfold State.mailboxSubmit
  refine canon_ite h ?_
  split
  next s1 code id hr =>
  have h1 : MemoryCanonical s1 := canon_fst hr (canon_submit h _ _ _ _)
  exact canon_of_mem (s := s1) rfl h1

theorem canon_doorbell (h : MemoryCanonical s) (value : W64) : MemoryCanonical (s.doorbell value) := canon_ite h (canon_mailboxSubmit h)

theorem canon_execMailboxDoorbell (h : MemoryCanonical s) (value : W64) : CanonNext (execMailboxDoorbell value s) :=
  canonNext (canon_doorbell h value)

theorem canon_seatGroups (core per : Nat) (paired : Bool) : ∀ (gs : List (Nat × Group)) {s : State}, MemoryCanonical s →
    MemoryCanonical (s.seatGroups core per paired gs)
  | [], _, h => h
  | (gid, g) :: gs, s, h => by
    unfold State.seatGroups
    extract_lets c i peers q0
    split
    extract_lets g1
    exact canon_seatGroups core per paired gs (s := s.setGroup gid g1) h

theorem canon_restoreTeam (h : MemoryCanonical s) (im : Image) (core : Nat) : MemoryCanonical (s.restoreTeam im core) := by
  unfold State.restoreTeam
  extract_lets _ t s1 home ops hz
  have h1 : MemoryCanonical s1 := canon_seatGroups _ _ _ _ (s := s.setTeam im.tnum t) h
  exact canon_of_mem (s := s1) rfl h1

theorem canon_launchTeam (h : MemoryCanonical s) (task : Nat) (k : Task) (teamid core : Nat) : MemoryCanonical (s.launchTeam task k teamid core) := by
  unfold State.launchTeam
  extract_lets r n count t gs
  refine canon_seatGroups _ _ _ _ ?_
  exact canon_of_mem (s := s.setTeam n t) rfl h

theorem canon_trimL1 (h : MemoryCanonical s) (core asid : Nat) : MemoryCanonical (s.trimL1 core asid) := by
  unfold State.trimL1
  extract_lets ls
  refine canon_ite h ?_
  split
  exact canon_foldl (fun u l hu => canon_leaveL1 hu core asid l) _ h

theorem canon_takeSram (h : MemoryCanonical s) (core asid : Nat) : MemoryCanonical (s.takeSram core asid) := (canon_trimL1 h core asid :)

theorem canon_placeTeam (h : MemoryCanonical s) (task : Nat) (k : Task) (i core : Nat) : MemoryCanonical (s.placeTeam task k i core) := by
  unfold State.placeTeam
  extract_lets s1 s2 s3
  have h1 : MemoryCanonical s1 := by
    unfold s1
    split
    · exact canon_restoreTeam h _ _
    · exact canon_launchTeam h _ _ _ _
  have h2 : MemoryCanonical s2 := h1
  have h3 : MemoryCanonical s3 := canon_foldl (fun u c hu => canon_takeSram hu c _) _ h2
  exact canon_of_mem (s := s3) rfl h3

theorem canon_placeNext (h : MemoryCanonical s) (task : Nat) (k : Task) (cores : List Nat) : MemoryCanonical (s.placeNext task k cores) := by
  unfold State.placeNext
  extract_lets dirty _ s1
  have h1 : MemoryCanonical s1 := canon_foldl (fun u e hu => canon_placeTeam hu task k e.1 e.2) _ h
  exact canon_ite (canon_of_mem (s := s) rfl h) (canon_of_mem (s := s1) rfl h1)

theorem canon_execDispatchPlace (h : MemoryCanonical s) (task : Nat) : CanonNext (execDispatchPlace task s) := by
  unfold execDispatchPlace
  split
  · refine canonNext_ite (canonNext h) ?_
    split
    · exact canonNext (canon_placeNext (canon_poolReads h _) _ _ _)
    · exact canonNext_ite (canonNext (canon_report (canon_poolReads h _) _ _ _ _ _)) (canonNext h)
  · exact canonNext h

theorem canon_execPairScrub (h : MemoryCanonical s) (pair : Nat) : CanonNext (execPairScrub pair s) := by
  unfold execPairScrub
  extract_lets on
  exact canonNext_ite (canonNext h) (canonNext (canonical_of_bytes (s := s) rfl h))

theorem canon_execAgingStep (h : MemoryCanonical s) (task : Nat) : CanonNext (execAgingStep task s) := by
  unfold execAgingStep
  split
  · extract_lets n
    exact canonNext_ite (canonNext (canon_of_mem (s := s) rfl h)) (canonNext h)
  · exact canonNext h

/-! ## Teams leave -/

theorem canon_stopDrain (h : MemoryCanonical s) (op : Nat) (j : JoinOp) : MemoryCanonical (s.stopDrain op j) := by
  unfold State.stopDrain
  split
  · exact canon_ite (canon_endJoin h _ _ _) h
  · exact h

theorem canon_stopDrains (h : MemoryCanonical s) (t : Nat) : MemoryCanonical (s.stopDrains t) := by
  refine canon_foldl (fun u e hu => ?_) _ h
  split
  · exact canon_stopDrain hu _ _
  · exact hu

theorem canon_haltGroup (h : MemoryCanonical s) (gid : Nat) : MemoryCanonical (s.haltGroup gid) := by
  unfold State.haltGroup
  split
  · exact h
  · next g _ =>
    extract_lets s0 s1
    have h0 : MemoryCanonical s0 := canon_countCore (canon_dropSent h gid g) _ _ _ _
    have h1 : MemoryCanonical s1 := by
      unfold s1
      split <;> exact h0
    exact canon_txSettle (s := s1.setGroup gid g.halt) h1 gid

theorem canon_haltTeam (h : MemoryCanonical s) (t : Nat) : MemoryCanonical (s.haltTeam t) :=
  (canon_foldl (f := fun s (e : Nat × Group) => s.haltGroup e.1) (fun _ e hu => canon_haltGroup hu e.1) (s.teamGroups t) h :)

theorem canon_leavePair (h : MemoryCanonical s) (core asid : Nat) : MemoryCanonical (s.leavePair core asid) := canon_ite h h

theorem canon_finishTask (h : MemoryCanonical s) (id : Nat) : MemoryCanonical (s.finishTask id) := (quiet_finishTask s id).canon h

theorem canon_endTask (h : MemoryCanonical s) (task : Nat) : MemoryCanonical (s.endTask task) := by
  unfold State.endTask
  split
  · exact canon_ite (canon_finishTask h _) h
  · exact h

theorem canon_ckLeft (h : MemoryCanonical s) (t : Nat) (gen : Option Nat) : MemoryCanonical (s.ckLeft t gen) := by
  unfold State.ckLeft
  split
  · refine canon_ite (canon_ckFinish ?_) h
    exact h
  · exact h

theorem canon_execTeamRetire (h : MemoryCanonical s) (team : Nat) : CanonNext (execTeamRetire team s) := by
  unfold execTeamRetire
  split
  · next t _ =>
    refine canonNext_ite ?_ (canonNext_ite ?_ (canonNext h))
    · extract_lets s1 s0 s2
      have h1 : MemoryCanonical s1 := canon_stopDrains (canon_haltTeam h _) _
      have h0 : MemoryCanonical s0 := canon_leavePair (s := s1.removeTeam team) h1 _ _
      have h2 : MemoryCanonical s2 := canon_ite h0 h0
      exact canonNext_ite (canonNext (canon_endTask (canon_noteReady (canon_ckLeft h2 _ _)) _)) (canonNext h1)
    · extract_lets s2
      have h2 : MemoryCanonical s2 := (canon_leavePair (s := s.removeTeam team) h t.core t.asid :)
      exact canonNext (canon_endTask (canon_ckLeft h2 _ _) _)
  · exact canonNext h

theorem canon_execHostTaskPost (h : MemoryCanonical s) (task : Nat) : CanonNext (execHostTaskPost task s) := by
  unfold execHostTaskPost
  split
  · extract_lets n put get pa s1
    have h1 : MemoryCanonical s1 := canon_writeRun h _ _ _ _
    exact canonNext_ite (canonNext h) (canonNext (canon_of_mem (s := s1) rfl h1))
  · exact canonNext h

theorem canon_execHtdone (h : MemoryCanonical s) (value : W64) : CanonNext (execHtdone value s) := canonNext ((quiet_hostDone s value).canon h)

theorem canon_execDispatcherPreempt (h : MemoryCanonical s) (task : Nat) : CanonNext (execDispatcherPreempt task s) := by
  unfold execDispatcherPreempt
  split
  · refine canonNext_ite (canonNext h) ?_
    split
    · next gone _ =>
      refine canonNext ?_
      cases hs : s.askTeams gone with
      | none => exact h
      | some u => exact canon_askTeams h hs
    · exact canonNext h
  · exact canonNext h

theorem canon_execPrmtGo (h : MemoryCanonical s) (value : W64) : CanonNext (execPrmtGo value s) := canonNext (canon_ite (canon_writePrmt h _) h)

theorem canon_execCkctlCheckpoint (h : MemoryCanonical s) (value : W64) : CanonNext (execCkctlCheckpoint value s) :=
  canonNext (canon_ite (canon_writeCkctl h _) h)

theorem canon_execCkctlRestore (h : MemoryCanonical s) (value : W64) : CanonNext (execCkctlRestore value s) :=
  canonNext (canon_ite (canon_writeCkctl h _) h)

theorem canon_execPreemptHalt (h : MemoryCanonical s) (team : Nat) : CanonNext (execPreemptHalt team s) := by
  unfold execPreemptHalt
  split
  · exact canonNext (canon_ite (canon_haltTeam h _) h)
  · exact canonNext h

theorem canon_execImageWrite (h : MemoryCanonical s) (team : Nat) : CanonNext (execImageWrite team s) := by
  unfold execImageWrite
  split
  · next t _ =>
    split
    · refine canonNext_ite (canonNext h) ?_
      extract_lets s1 im s2 _ s3
      have h1 : MemoryCanonical s1 := canon_stopDrains h _
      have h2 : MemoryCanonical s2 := canon_writeRun (canon_leavePair (s := s1.removeTeam team) h1 _ _) _ _ _ _
      have h3 : MemoryCanonical s3 := canon_of_mem (s := s2) rfl h2
      exact canonNext_ite (canonNext h1) (canonNext (canon_endTask (canon_ckLeft (s := s3.returnTeam im) h3 _ _) _))
    · exact canonNext h
  · exact canonNext h

/-! ## Error logs, keys and the alarm -/

theorem canon_execErrorLogArbitrate (h : MemoryCanonical s) (unit : Nat) : CanonNext (execErrorLogArbitrate unit s) := by
  unfold execErrorLogArbitrate
  extract_lets x x1 s1
  have h1 : MemoryCanonical s1 := h
  exact canonNext_ite (canonNext h)
    (canonNext (canon_ite h1 (canon_foldl (f := fun s d => s.setEvent d 2) (fun _ _ hu => hu) _ h1)))

theorem canon_kcommand (h : MemoryCanonical s) (op : Nat) (v : W64) : MemoryCanonical (s.kcommand op v) := (quiet_kcommand s op v).canon h

theorem canon_flushSlot (h : MemoryCanonical s) (slot : Nat) : MemoryCanonical (s.flushSlot slot) :=
  canon_foldl (fun _ sec hu => canon_dropSector hu sec) _ h

theorem canon_loadKey (h : MemoryCanonical s) (slot : Nat) (arg : W64) (blob : Nat) : MemoryCanonical (s.loadKey slot arg blob) := by
  unfold State.loadKey
  generalize (if s.xa.erased then none else unwrapKey Config.provisioningKey (s.homeBytes blob 72)) = key
  revert key
  refine id fun key => ?_
  split <;> exact h

theorem canon_execKcmdComplete (h : MemoryCanonical s) : CanonNext (execKcmdComplete s) := by
  unfold execKcmdComplete
  split
  · exact canonNext h
  · refine canonNext_ite (canonNext h) ?_
    extract_lets slot s1
    have h1 : MemoryCanonical s1 := canon_poolReads (canon_flushSlot h _) _
    split
    · exact canonNext h1
    · exact canonNext h1
    · exact canonNext (canon_loadKey h1 _ _ _)

theorem canon_execKprovWrite (h : MemoryCanonical s) (value : W64) : CanonNext (execKprovWrite value s) :=
  canonNext ((quiet_writeKprov s value).canon h)

theorem canon_alarm (h : MemoryCanonical s) (source : Nat) (asid : Option Nat) : MemoryCanonical (s.alarm source asid) :=
  (quiet_alarm s source asid).canon h

theorem canon_execGlitchDetect (h : MemoryCanonical s) (voltage : Bool) : CanonNext (execGlitchDetect voltage s) := canonNext (canon_alarm h _ _)

theorem canon_execDebugIntrusion (h : MemoryCanonical s) : CanonNext (execDebugIntrusion s) := canonNext (canon_ite (canon_alarm h _ _) h)

theorem canon_teamFault (h : MemoryCanonical s) (t : Nat) : MemoryCanonical (s.teamFault t) := by
  unfold State.teamFault
  split <;> exact h

theorem canon_holdTeam (h : MemoryCanonical s) (t : Nat) : MemoryCanonical (s.holdTeam t) := by
  unfold State.holdTeam
  refine canon_ite (canon_teamFault h _) ?_
  split
  · next hs => exact canon_askTeam h hs
  · exact canon_teamFault h _

theorem canon_contain (h : MemoryCanonical s) (who : Option Nat) : MemoryCanonical (s.contain who) := by
  unfold State.contain
  extract_lets hit _ xa s1 s2
  clear_value xa
  have h1 : MemoryCanonical s1 := h
  have h2 : MemoryCanonical s2 := canon_foldl (fun u t hu => canon_holdTeam hu t) _ h1
  exact canon_of_mem (s := s2) rfl h2

theorem canon_execAlarmContain (h : MemoryCanonical s) : CanonNext (execAlarmContain s) := by
  unfold execAlarmContain
  split
  · refine canonNext_ite (canonNext h) ?_
    extract_lets _ s1
    have h1 : MemoryCanonical s1 := h
    exact canonNext_ite (canonNext h1) (canonNext (canon_contain h1 _))
  · exact canonNext h

theorem canon_dropTask (h : MemoryCanonical s) (id : Nat) : MemoryCanonical (s.dropTask id) := by
  refine canon_endTask ?_ id
  exact h

theorem canon_erase (h : MemoryCanonical s) : MemoryCanonical s.erase := by
  unfold State.erase
  extract_lets s1 ids s2 s3
  have h1 : MemoryCanonical s1 := canon_foldl (fun u t hu => canon_teamFault hu t) _ h
  have h2 : MemoryCanonical s2 := canon_foldl (fun u t hu => canon_dropTask hu t) _ h1
  have h3 : MemoryCanonical s3 := canon_foldl (fun u k hu => canon_flushSlot hu k) _ h2
  exact canon_of_mem (s := s3) rfl h3

theorem canon_execAlarmErase (h : MemoryCanonical s) : CanonNext (execAlarmErase s) := by
  unfold execAlarmErase
  split
  · refine canonNext_ite (canonNext (canon_erase ?_)) (canonNext h)
    exact h
  · exact canonNext h

/-! ## Registers and accesses from outside -/

theorem canon_execHostEventRequest (h : MemoryCanonical s) (die : Nat) : CanonNext (execHostEventRequest die s) := by
  refine canonNext (canon_ite ?_ h)
  exact h

theorem canon_mailboxWrite (h : MemoryCanonical s) (off : Nat) (v : W64) : MemoryCanonical (s.mailboxWrite off v) :=
  canon_ite h (canon_ite (canon_doorbell h v) h)

theorem canon_setDevWord (h : MemoryCanonical s) (off : Nat) (v : W64) : MemoryCanonical (s.setDevWord off v) := (quiet_setDevWord s off v).canon h

theorem canon_execRegisterWrite (h : MemoryCanonical s) (addr : Nat) (value : W64) : CanonNext (execRegisterWrite addr value s) := by
  refine canonNext_ite (canonNext (canon_mailboxWrite h _ _)) (canonNext_ite (canonNext (canon_setDevWord h _ _)) ?_)
  refine canonNext_ite (canonNext ?_) (canonNext_ite (canonNext ?_) (canonNext h))
  · exact canon_of_mem (s := s) rfl h
  · exact canon_of_mem (s := s) rfl h

theorem canon_hostMacFault (h : MemoryCanonical s) (a : HostAccess) : MemoryCanonical (s.hostMacFault a) := by
  unfold State.hostMacFault
  extract_lets s1
  have h1 : MemoryCanonical s1 := canon_fillSector h _ _ _
  split <;> exact h1

theorem canon_arrive (h : MemoryCanonical s) (who : Agent) (pa n slot : Nat) (write : Bool) : MemoryCanonical (s.arrive who pa n slot write) :=
  (quiet_arrive s who pa n slot write).canon h

theorem canon_hostInTx (h : MemoryCanonical s) (a : HostAccess) (n : Nat) : MemoryCanonical (s.hostInTx a n) := by
  unfold State.hostInTx
  extract_lets c line s1 cells
  split
  · split
    next s1 bs hr =>
    have h1 : MemoryCanonical s1 := canon_fst hr (canon_readAt h _ _ _ _)
    exact h1
  · have h1 : MemoryCanonical s1 := canon_arrive h _ _ _ _ _
    exact h1
  · exact h

theorem canon_hostTx (h : MemoryCanonical s) (a : HostAccess) (n : Nat) : MemoryCanonical (s.hostTx a n) := by
  have haccess : MemoryCanonical (if isDevReg a.pa then s.setHost n ((s.host n).abort 5 0)
      else if s.lockExcludes (.host n) a.pa (hostWrites a) then s.setHost n ((s.host n).abort 8 0)
      else if s.hostHeld (.host n) a then s
      else if s.hostMac a then s.hostMacFault a
      else s.hostInTx a n) :=
    canon_ite h (canon_ite h (canon_ite h (canon_ite (canon_hostMacFault h _) (canon_hostInTx h _ _))))
  unfold State.hostTx
  extract_lets c
  split
  · exact h
  · exact haccess
  · exact haccess
  · exact h

theorem canon_hostTake (h : MemoryCanonical s) (a : HostAccess) (v : W64) : MemoryCanonical (s.hostTake a v) := by
  unfold State.hostTake
  split <;> exact h

theorem canon_hostPut (h : MemoryCanonical s) (a : HostAccess) : MemoryCanonical (s.hostPut a) := by
  unfold State.hostPut
  extract_lets data
  split
  · exact h
  · exact writeAt_canonical h _ _ _ _ _

theorem canon_hostReserve (h : MemoryCanonical s) (a : HostAccess) (r : Option (Nat × Nat)) : MemoryCanonical (s.hostReserve a r) := by
  unfold State.hostReserve
  split <;> exact h

theorem canon_devWrite (h : MemoryCanonical s) (pa : Nat) (bs : List Byte) : MemoryCanonical (s.devWrite pa bs) := (quiet_devWrite s pa bs).canon h

theorem canon_hostPlain (h : MemoryCanonical s) (a : HostAccess) : MemoryCanonical (s.hostPlain a) := by
  have hother : MemoryCanonical (s.otherAtomic a.pa) := h
  unfold State.hostPlain
  extract_lets who data
  refine canon_ite ?_ ?_
  · split
    · exact canon_hostTake h _ _
    · exact canon_hostTake h _ _
    · exact canon_devWrite h _ _
    · exact canon_hostTake (canon_devWrite h _ _) _ _
    · exact h
  · split
    · exact canon_hostTake (canon_readAt h _ _ _ _) _ _
    · exact canon_hostPut h _
    · exact canon_hostTake (writeAt_canonical (canon_readAt hother _ _ _ _) _ _ _ _ _) _ _
    · exact canon_hostTake (canon_hostReserve (canon_readAt hother _ _ _ _) _ _) _ _
    · exact canon_ite (canon_hostTake (canon_hostReserve (writeAt_canonical hother _ _ _ _ _) _ _) _ _)
        (canon_hostTake (canon_hostReserve h _ _) _ _)
    · exact h

theorem canon_hostOut (h : MemoryCanonical s) (a : HostAccess) (n : Nat) : MemoryCanonical (s.hostOut a n) := by
  have hchecked : MemoryCanonical (if s.hostHeld (.host n) a then s else if s.hostMac a then s.hostMacFault a else s.hostPlain a) :=
    canon_ite h (canon_ite (canon_hostMacFault h _) (canon_hostPlain h _))
  unfold State.hostOut
  split
  · exact canon_hostPlain h _
  · exact canon_hostPlain h _
  · exact hchecked

theorem canon_execHostAccess (h : MemoryCanonical s) (a : HostAccess) : CanonNext (execHostAccess a s) := by
  unfold execHostAccess
  refine canonNext_ite (canonNext h) ?_
  split
  · exact canonNext_ite (canonNext h) (canonNext_ite (canonNext (canon_hostTx h _ _))
      (canonNext_ite (canonNext (canon_afterStores h _ fun u hu => canon_hostOut hu _ _)) (canonNext (canon_hostOut h _ _))))
  · exact canonNext_ite (canonNext h) (canonNext_ite (canonNext (canon_hostMacFault h _)) (canonNext (canon_hostPlain h _)))

end Sys2Proof
end

section
/-!
PROOF of O60. Every step keeps the canonical form of memory: the table of the instructions and events, and the turns of the agents.
-/

namespace Sys2Proof

open Machine

variable {s : State}

/-! ## Instructions and events -/

/-- Every instruction and every event: those that reach registers of their own group leave memory as it was. -/
theorem canon_exec (h : MemoryCanonical s) (i : Instr) : CanonNext (exec i s) := by
  cases i with
  | nop hd | bra hd | brx hd | call hd | ret hd | ifc hd | elsec hd | endif hd | loopc hd | endloop hd | brk hd | cont hd | iadd hd | isub hd
  | imul hd | imulh hd | imad hd | imin hd | imax hd | iabs hd | ineg hd | iaddc hd | andb hd | orb hd | xorb hd | notb hd | andn hd | shl hd
  | shr hd | sar hd | rot hd | popc hd | clz hd | brev hd | bfx hd | bfi hd | prmb hd | icmp hd | fadd hd | fsub hd | fmul hd | ffma hd
  | fmin hd | fmax hd | fcmp hd | fclass hd | frnd hd | frcp hd | frsq hd | fsqrt hd | fexp2 hd | flog2 hd | fsin hd | fcos hd | ftanh hd
  | cvt hd | cvtsr hd | qpack hd | qunpack hd | qscale hd | qdot hd | dot8 hd | dot16 hd | mov hd | movw hd | sel hd | sget hd | sset hd
  | xset hd | xld hd | xst hd | xadd hd | shfl hd | shflx hd | bcast hd | vote hd | firstc hd | gred hd | scan hd | compact hd | awaitc hd
  | cvta hd | isap hd | tstat hd | sys hd | bkpt hd | ireg hd =>
    exact canon_ownGroup (ownGroup_of_registerForms (by simp [registerForms, computeForms, testForms]) hd) h
  | coldReset => exact canonNext (canon_coldReset h)
  | bootStage img => exact canon_execBootStage h img
  | mailboxImage img => exact canon_execMailboxImage h img
  | clockStepDown => exact canon_execClockStepDown h
  | clockStepUp => exact canon_execClockStepUp h
  | thermalTrip => exact canonNext (canon_of_mem (s := s.xlog 16) rfl h)
  | mctpReadSensors => exact canonNext (canon_of_mem (s := s) rfl h)
  | mctpSetPowerLimit watts => exact canonNext (canon_ite h h)
  | mctpReadEventLog => exact canonNext (canon_of_mem (s := s) rfl h)
  | exit hd => exact canon_execExit h hd
  | rwr hd => exact canon_execRwr h hd
  | remoteDepositArrive dep => exact canon_execRemoteDepositArrive h dep
  | awaitSatisfied gid => exact canon_execAwaitSatisfied h gid
  | ld hd => exact canon_execLd h hd
  | loadDataReturn load => exact canon_execLoadDataReturn h load
  | st hd => exact canon_execSt h hd
  | ldu hd => exact canon_execLdu h hd
  | stu hd => exact canon_execStu h hd
  | pref hd => exact canon_execPref h hd
  | cflush hd => exact canon_execCflush h hd
  | cflushComplete op => exact canon_execCflushComplete h op
  | cinv hd => exact canon_execCinv h hd
  | bar hd => exact canon_execBar h hd
  | barRelease team n => exact canon_execBarRelease h team n
  | binit hd => exact canon_execBinit h hd
  | barr hd => exact canon_execBarr h hd
  | barrierPhaseComplete team off => exact canon_execBarrierPhaseComplete h team off
  | bwait hd => exact canon_execBwait h hd
  | bwaitSatisfied gid => exact canon_execBwaitSatisfied h gid
  | btest hd => exact canon_execBtest h hd
  | atom hd => exact canon_execAtom h hd
  | contentionEnterFar line => exact canon_execContentionEnterFar h line
  | contentionReturnNear line => exact canon_execContentionReturnNear h line
  | atomu hd => exact canon_execAtomu h hd
  | red hd => exact canon_execRed h hd
  | fence hd => exact canon_execFence h hd
  | fenceComplete gid => exact canon_execFenceComplete h gid
  | tbeg hd => exact canon_execTbeg h hd
  | tbegResume gid => exact canon_execTbegResume h gid
  | fallbackLockGrant gid => exact canon_execFallbackLockGrant h gid
  | tend hd => exact canon_execTend h hd
  | tendCommit gid => exact canon_execTendCommit h gid
  | tabort hd => exact canon_execTabort h hd
  | xtbeg rd rs1 => exact canon_execXtbeg h rd rs1
  | xtend rd => exact canon_execXtend h rd
  | xtendCommit host => exact canon_execXtendCommit h host
  | xtabort code => exact canon_execXtabort h code
  | xtstat rd => exact canon_execXtstat h rd
  | xspawn rd rs1 => exact canon_execXspawn h rd rs1
  | hostTxAbort host cause => exact canon_execHostTxAbort h host cause
  | cpost hd => exact canon_execCpost h hd
  | hazardRelease op => exact canon_execHazardRelease h op
  | cardUnitWrite op unit => exact canon_execCardUnitWrite h op unit
  | cardComplete op => exact canon_execCardComplete h op
  | rst hd => exact canon_execRst h hd
  | remotePathLost pkg => exact canon_execRemotePathLost h pkg
  | spawn hd => exact canon_execSpawn h hd
  | jopen hd => exact canon_execJopen h hd
  | jclose hd => exact canon_execJclose h hd
  | jcloseFree op => exact canon_execJcloseFree h op
  | jmul hd => exact canon_execJmul h hd
  | jmulBarrierSatisfied op => exact canon_execJmulBarrierSatisfied h op
  | jstrm hd => exact canon_execJstrm h hd
  | jacc hd => exact canon_execJacc h hd
  | jget hd => exact canon_execJget h hd
  | jdrain hd => exact canon_execJdrain h hd
  | jstat hd => exact canon_execJstat h hd
  | joinOpStart op => exact canon_execJoinOpStart h op
  | joinOpComplete op => exact canon_execJoinOpComplete h op
  | fch hd => exact canon_execFch h hd
  | fetchOpStart op => exact canon_execFetchOpStart h op
  | fetchOpComplete op => exact canon_execFetchOpComplete h op
  | wini hd => exact canon_execWini h hd
  | wpush hd => exact canon_execWpush h hd
  | wpop hd => exact canon_execWpop h hd
  | wins hd => exact canon_execWins h hd
  | wstat hd => exact canon_execWstat h hd
  | topk hd => exact canon_execTopk h hd
  | dgrow hd => exact canon_execDgrow h hd
  | dgrowComplete op => exact canon_execDgrowComplete h op
  | sret hd => exact canon_execSret h hd
  | sigchk hd => exact canon_execSigchk h hd
  | halt hd => exact canon_execHalt h hd
  | haltWake gid => exact canon_execHaltWake h gid
  | zget hd => exact canon_execZget h hd
  | zset hd => exact canon_execZset h hd
  | tlbi hd => exact canon_execTlbi h hd
  | tlbiComplete op => exact canon_execTlbiComplete h op
  | replay hd => exact canon_execReplay h hd
  | ownset hd => exact canon_execOwnset h hd
  | ownsetComplete op => exact canon_execOwnsetComplete h op
  | caps hd => exact canon_execCaps h hd
  | pmc hd => exact canon_execPmc h hd
  | pageWalk core asid va => exact canon_execPageWalk h core asid va
  | l2RequestDeferred req => exact canon_execL2RequestDeferred h req
  | l2Fill sector slot => exact canon_execL2Fill h sector slot
  | gatherDirectReturn load => exact canon_execGatherDirectReturn h load
  | parityRecovery p => exact canon_execParityRecovery h p
  | ownershipTransfer region => exact canon_execOwnershipTransfer h region
  | cxlExtentEvent ext => exact canon_execCxlExtentEvent h ext
  | packetReceive p => exact canon_execPacketReceive h p
  | flitReceive link f => exact canon_execFlitReceive h link f
  | linkLaneLoss link lane => exact canon_execLinkLaneLoss h link lane
  | linkRetrainComplete link ok farSeq => exact canon_execLinkRetrainComplete h link ok farSeq
  | planePortReport plane down => exact canon_execPlanePortReport h plane down
  | switchContribution plane p => exact canon_execSwitchContribution h plane p
  | switchChunkDeliver plane chunk => exact canon_execSwitchChunkDeliver h plane chunk
  | switchBroadcastDeliver plane p => exact canon_execSwitchBroadcastDeliver h plane p
  | mailboxDoorbell value => exact canon_execMailboxDoorbell h value
  | dispatchPlace task => exact canon_execDispatchPlace h task
  | pairScrub pair => exact canon_execPairScrub h pair
  | agingStep task => exact canon_execAgingStep h task
  | teamRetire team => exact canon_execTeamRetire h team
  | hostTaskPost task => exact canon_execHostTaskPost h task
  | htdone value => exact canon_execHtdone h value
  | dispatcherPreempt task => exact canon_execDispatcherPreempt h task
  | prmtGo value => exact canon_execPrmtGo h value
  | ckctlCheckpoint value => exact canon_execCkctlCheckpoint h value
  | ckctlRestore value => exact canon_execCkctlRestore h value
  | preemptHalt team => exact canon_execPreemptHalt h team
  | imageWrite team => exact canon_execImageWrite h team
  | errorLogArbitrate unit => exact canon_execErrorLogArbitrate h unit
  | kcmdClear => exact canonNext (canon_kcommand h _ _)
  | kcmdPlain => exact canonNext (canon_kcommand h _ _)
  | kcmdLoad value => exact canonNext (canon_kcommand h _ _)
  | kcmdComplete => exact canon_execKcmdComplete h
  | kprovWrite value => exact canon_execKprovWrite h value
  | almcfgWrite value => exact canonNext h
  | almrel value => exact canonNext h
  | glitchDetect voltage => exact canon_execGlitchDetect h voltage
  | debugIntrusion => exact canon_execDebugIntrusion h
  | alarmContain => exact canon_execAlarmContain h
  | alarmErase => exact canon_execAlarmErase h
  | hostEventRequest die => exact canon_execHostEventRequest h die
  | registerWrite addr value => exact canon_execRegisterWrite h addr value
  | fixedLatencyResultWrite gid => exact canonNext h
  | hostAccess a => exact canon_execHostAccess h a
  | unassignedOpcode major minor hd => exact canon_issue h fun _ => h

/-! ## Fetch and issue -/

theorem canon_advanceTo (h : MemoryCanonical s) (t : Nat) : MemoryCanonical (s.advanceTo t) := by
  unfold State.advanceTo
  refine canon_ite h ?_
  exact canon_of_mem (s := s) rfl h

theorem canon_fetchFail (h : MemoryCanonical s) (va : Nat) (k : CodeLook) : CanonNext (fetchFail va k s) := by
  refine canon_issue h fun c => ?_
  extract_lets lanes asid s1
  have h1 : MemoryCanonical s1 := canon_touchWalk h _ _ _
  split
  · exact canon_trapAt h1 _ _ _ _
  · exact canon_trapAt (canon_alarm h1 _ _) _ _ _ _
  · trivial
  · exact canon_trapAt (canon_fillSector h1 _ _ _) _ _ _ _
  · exact h1

theorem canon_askCode (h : MemoryCanonical s) (gid : Nat) (g : Group) (pas : List (Nat × Nat)) : MemoryCanonical (s.askCode gid g pas) :=
  (steady_askCode s gid g pas).canon h

theorem canon_codeRun (h : MemoryCanonical s) (gid : Nat) (g : Group) (ps : List (Nat × Nat × Nat)) : MemoryCanonical (s.codeRun gid g ps).1 :=
  (steady_codeRun gid g ps s).canon h

theorem canon_fetchPark (h : MemoryCanonical s) (ps : List (Nat × Nat × Nat)) (ms : List (Nat × Nat × Nat × Nat)) :
    CanonNext (fetchPark ps ms s) := by
  refine canon_issue h fun c => ?_
  extract_lets asid here r s1
  have hr : MemoryCanonical r.1 := canon_codeRun (canon_askCode h _ _ _) _ _ _
  have h1 : MemoryCanonical s1 := canon_foldl (fun u m hu => canon_parkFault (canon_touchWalk hu _ _ _) _ _ _ _ _ _ _) _ hr
  exact h1

theorem canon_quarterDone (h : MemoryCanonical s) (gid : Nat) (g : Group) (i : Instr) (t : Nat) (others : List Nat) :
    MemoryCanonical (s.quarterDone gid g i t others) := by
  unfold State.quarterDone
  extract_lets s1
  have h1 : MemoryCanonical s1 := h
  exact canon_ite h1 h1

theorem canon_countIssue (h : MemoryCanonical s) (gid : Nat) (g : Group) (i : Instr) (others : List Nat) :
    MemoryCanonical (s.countIssue gid g i others) := by
  unfold State.countIssue
  extract_lets asid p s1 s2
  have h1 : MemoryCanonical s1 := canon_countCore (canon_countCore (canon_countCore h _ _ _ _) _ _ _ _) _ _ _ _
  have h2 : MemoryCanonical s2 := canon_countCore h1 _ _ _ _
  exact canon_ite (canon_countCore h2 _ _ _ _) h2

theorem canon_afterIssue (h : MemoryCanonical s) (gid : Nat) (g : Group) (i : Instr) (t : Nat) (others : List Nat) :
    MemoryCanonical (s.afterIssue gid g i t others) := by
  unfold State.afterIssue
  split
  · refine canon_ite h (canon_quarterDone (canon_countIssue ?_ _ _ _ _) _ _ _ _ _)
    exact h
  · exact h

/-! ## Turns -/

theorem canon_groupTurn (h : MemoryCanonical s) (t gid : Nat) (g : Group) : CanonNext (s.groupTurn t gid g) := by
  unfold State.groupTurn
  extract_lets others s1
  have h1 : MemoryCanonical s1 := (canon_advanceTo h t :)
  clear_value s1
  have hf := steady_fetchGroup s1 gid g
  split
  · next s2 hw =>
    rw [hw] at hf
    exact canon_issue (hf.canon h1) fun _ => hf.canon h1
  · exact canon_fetchFail h1 _ _
  · exact canon_fetchPark h1 _ _
  · next s2 ws hw =>
    rw [hw] at hf
    split
    · next i _ _ =>
      have hx := canon_exec (hf.canon h1) i
      split
      · next s3 hs => exact canonNext (canon_afterIssue (hx s3 hs) _ _ _ _ _)
      · exact hx
    · exact canonNext h1

theorem canon_quarterTurn (h : MemoryCanonical s) (core q : Nat) : CanonNext (s.quarterTurn core q) := by
  unfold State.quarterTurn
  split
  · exact canon_groupTurn h _ _ _
  · exact canonNext h

theorem canon_hostFetchMac (h : MemoryCanonical s) (n : Nat) : MemoryCanonical (s.hostFetchMac n) := (canon_fillSector h _ _ _ :)

theorem canon_hostFetch (h : MemoryCanonical s) {n : Nat} {r : State × W32} (hr : s.hostFetch n = some r) : MemoryCanonical r.1 := by
  unfold State.hostFetch at hr
  extract_lets pa at hr
  split at hr
  · rw [← Option.some.inj hr]
    exact h
  split at hr
  · rw [← Option.some.inj hr]
    exact h
  split at hr
  · cases hr
  · rw [← Option.some.inj hr]
    exact canon_readAt h _ _ _ _

theorem canon_hostWord (h : MemoryCanonical s) (n : Nat) (w : W32) : CanonNext (s.hostWord n w) := by
  unfold State.hostWord
  split
  · exact canon_exec h _
  · refine canonNext_ite (canonNext h) (canonNext_ite (canonNext h) fun t ht => ?_)
    cases ht

theorem canon_hostTurn (h : MemoryCanonical s) (n : Nat) : CanonNext (s.hostTurn n) := by
  unfold State.hostTurn
  extract_lets c pa s1
  have h1 : MemoryCanonical s1 := (canon_advanceTo h (s.clock + 1) :)
  clear_value s1
  refine canonNext_ite (canonNext h) (canonNext_ite (canonNext (canon_hostFetchMac h1 _)) ?_)
  split
  · next hr => exact canon_hostWord (canon_hostFetch h1 hr) _ _
  · exact canonNext h1

theorem canon_sendFlit (h : MemoryCanonical s) (k : Nat) : MemoryCanonical (s.sendFlit k) := by
  unfold State.sendFlit
  extract_lets x
  refine canon_ite h ?_
  split
  · exact canon_ite h h
  · split
    · exact h
    · exact h
    · exact canon_ite h h

theorem canon_landLane (h : MemoryCanonical s) (k lane : Nat) : MemoryCanonical (s.landLane k lane) := by
  unfold State.landLane
  split
  · next d _ =>
    split
    · exact canon_ite h (canon_landLanes (s := s.setOp k _) h d _)
    · exact h
  · exact h

theorem canon_upsetRow (h : MemoryCanonical s) (gid lane row : Nat) (double : Bool) : MemoryCanonical (s.upsetRow gid lane row double) := by
  unfold State.upsetRow
  split
  · exact h
  · extract_lets v s1 hit
    have h1 : MemoryCanonical s1 := canon_report h _ _ _ _ _
    exact canon_ite h1 h1

theorem canon_upsetMem (h : MemoryCanonical s) (pa : Nat) (double : Bool) : MemoryCanonical (s.upsetMem pa double) := by
  unfold State.upsetMem
  extract_lets hbm part src s1
  have h1 : MemoryCanonical s1 := canon_report h _ _ _ _ _
  exact canon_ite h (canon_ite (canonical_of_bytes (s := s1) rfl h1) h1)

theorem canon_poolTurn (h : MemoryCanonical s) : MemoryCanonical s.poolTurn := by
  have hstep : MemoryCanonical s.poolStep := by
    unfold State.poolStep
    split
    · exact canon_ite (canon_ckFinish h) (canon_beginRestore h _)
    · exact h
  exact canon_ite (canon_mailboxSubmit hstep) hstep

theorem canon_hidden (h : MemoryCanonical s) (t : Turn) : MemoryCanonical (s.hidden t) := by
  cases t with
  | tick n => exact canon_advanceTo h _
  | drain gid k => exact canon_drainAt h _ _
  | drainHost n k => exact canon_drainHost h _ _
  | sendFlit k => exact canon_sendFlit h _
  | evictL1 core line => exact h
  | evictL2 sec => exact canonical_of_bytes (s := s.dropSector sec) rfl (canon_dropSector h sec)
  | evictTlb k =>
    unfold State.hidden
    dsimp only
    split <;> exact h
  | evictFetch core line => exact h
  | performLane op lane => exact canon_performLane h _ _
  | landLane op lane => exact canon_landLane h _ _
  | upsetRow gid lane row double => exact canon_upsetRow h _ _ _ _
  | upsetCnt gid lane v => exact h
  | upsetMem pa double => exact canon_upsetMem h _ _
  | poolStep => exact canon_poolTurn h
  | quarter core q => exact h
  | host n => exact h
  | event i => exact h

theorem canon_runTurn (h : MemoryCanonical s) (t : Turn) : CanonNext (runTurn t s) := by
  have hidle : MemoryCanonical (s.actAs .idle) := h
  unfold runTurn
  split
  · exact canonNext_ite (canon_exec hidle _) (canonNext h)
  · exact canonNext_ite (canonNext h) (canon_quarterTurn h _ _)
  · exact canonNext_ite (canonNext h) (canon_hostTurn h _)
  · exact canonNext_ite (canonNext h) (canonNext (canon_hidden hidle _))

/-- Settles O60: every instruction, event and turn of the hardware writes memory through operations that keep its canonical form. -/
theorem everyStepKeepsMemoryCanonical : Obligations.EveryStepKeepsMemoryCanonical := by
  unfold Obligations.EveryStepKeepsMemoryCanonical
  intro s t h ht
  have hnext : MemoryCanonical s.nextTurn.2 := by
    rw [nextTurn_eq]
    exact h
  exact canon_runTurn hnext s.nextTurn.1 t ht

end Sys2Proof
end
